-- ==== Sys2Proof/Word.lean ====
section
/-! DEFINITION. Word types: bytes, bus data, and the sparse tables the state holds. -/
namespace Sys2Proof

/-- One byte of a record or of a bus beat. -/
abbrev Byte := BitVec 8

/-- The 128 data bits of one AXI beat (chapter 9.1). -/
abbrev BeatData := BitVec 128

/-- The 16 byte strobes of one write beat (R149). -/
abbrev Strobes := BitVec 16

/-- A value of the 32-bit millisecond timebase (R114). -/
abbrev Time := BitVec 32

/-- A table of natural numbers by index in which an index that is not listed holds 0.
The canonical form (indices strictly rising, no listed 0) is `Sparse.wf` of Machine/Bytes.lean. -/
abbrev Sparse := List (Nat × Nat)

end Sys2Proof
end

