-- ==== Sys2Proof/Syntax.lean ====
section
/-! DEFINITION. The commands of the block: one constructor of `Instr` per row of spec/opcode_table.json,
with the operands the event carries, and the bus types those operands are made of. -/
namespace Sys2Proof

/-- AXI burst types (R148). -/
inductive Burst where
  | fixed | incr | wrap
deriving DecidableEq, Repr

/-- AXI response codes. An error response is SLVERR or DECERR. -/
inductive Resp where
  | okay | exokay | slverr | decerr
deriving DecidableEq, Repr

/-- The address phase of an AXI transaction (R148, R159): identifier, address, burst type, transfer size
(log2 of bytes), length (beats - 1), the exclusive attribute, and the carried attributes. -/
structure TxnHdr where
  id    : Nat
  addr  : BitVec 40
  burst : Burst
  size  : Fin 5
  len   : BitVec 8
  lock  : Bool
  cache : BitVec 4
  prot  : BitVec 3
  qos   : BitVec 4
deriving DecidableEq, Repr

/-- The data and strobes of one write beat, as its aligned 16-byte position (R148, R149). -/
structure WData where
  data : BeatData
  strb : Strobes
deriving DecidableEq, Repr

/-- One data beat of a write transaction: the transaction's address phase, the beat's number in it and
its data. The beat of number 0 carries the transaction's address to the part (log 8). -/
structure WBeat where
  hdr  : TxnHdr
  beat : Nat
  w    : WData
deriving DecidableEq, Repr

/-- One beat of a read response. -/
structure RData where
  data : BeatData
  resp : Resp
deriving DecidableEq, Repr

/-- A whole transaction of the S-port, its write data with it. -/
inductive Txn where
  | read  (h : TxnHdr)
  | write (h : TxnHdr) (beats : List WData)
deriving DecidableEq, Repr

/-- A response of the M-port, to a read or to a write. -/
inductive MResp where
  | read  (beats : List RData)
  | write (r : Resp)
deriving DecidableEq, Repr

/-- Presence states (R131), named here because a vote names one. -/
inductive Presence where
  | unknown | absent | present
deriving DecidableEq, Repr

/-- The coalesce flags of the report unit (R176). -/
inductive CoalFlag where
  | lamp | presence | cecLevel
deriving DecidableEq, Repr

/-- The commands of the block. Each constructor is the row of spec/opcode_table.json whose rule its
comment names. A response names its M-port transaction by the number the part gave it (log 7). -/
inductive Instr where
  -- resets
  | pinReset                                          -- R75
  | resetNRelease (cpsel : BitVec 16)                 -- R152
  -- command page and intake
  | commandPageWrite (b : WBeat)                      -- R157
  | issued (slot : Fin 8)                             -- R166
  | withdrawn (slot : Fin 8)                          -- R167
  | reportTail (off : Fin 4) (value : Byte)           -- R180
  | commandTake                                       -- R168
  | unknownCode                                       -- R168
  | takenWriteResponse (txn : Nat) (r : Resp)         -- R170
  | doneWriteResponse (txn : Nat) (r : Resp)          -- R169
  -- configuration commands
  | setSensor                                         -- R17
  | setLamp                                           -- R133
  | setLadder                                         -- R49
  | setWindow                                         -- R153
  | clearWindow                                       -- R154
  | setMatch                                          -- R155
  | defineArea                                        -- R8
  | setReports                                        -- R177
  | setReportsHeadResponse (txn : Nat) (r : Resp)     -- R177
  -- flat banks
  | flatStore                                         -- R88
  | flatStoreResponse (txn : Nat) (r : Resp)          -- R89
  | flatFetch                                         -- R90
  | flatFetchHeaderResponse (txn : Nat) (beats : List RData)   -- R90
  | flatFetchGainResponse (txn : Nat) (beats : List RData)     -- R91
  | flatDrop                                          -- R92
  -- device commands
  | run                                               -- R171
  | hold                                              -- R172
  | resume                                            -- R143
  | snapshot                                          -- R173
  | resetPart                                         -- R174
  -- job commands and job transitions
  | loadJob                                           -- R56
  | jobRecordResponse (txn : Nat) (beats : List RData) -- R57
  | abortJob                                          -- R68
  | releaseJob                                        -- R70
  | jobStarted                                        -- R64
  | jobEnded                                          -- R65
  | sweepBurstResponse (txn : Nat) (r : Resp)         -- R11
  | stoppedIssuerResponse (txn : Nat) (m : MResp)     -- R163
  -- capture, sequencing, merging
  | captureBeat (b : WBeat)                           -- R32
  | heldCaptureBeatTaken                              -- R33
  | teedCopyResponse (txn : Nat) (r : Resp)           -- R158
  | sampleTake                                        -- R34
  | mergeReadResponse (txn : Nat) (d : RData)         -- R19
  | mergeWriteResponse (txn : Nat) (r : Resp)         -- R19
  | attemptEndTaken                                   -- R41
  | frameGapExpiry                                    -- R43
  | exposureWaitExpiry                                -- R50
  -- finishing
  | finishScanResponse (txn : Nat) (beats : List RData) -- R96
  | limitTest                                         -- R83
  | gainComputationComplete                           -- R85
  -- result windows
  | resultRead (h : TxnHdr)                           -- R107
  | renderCellResponse (txn : Nat) (d : RData)        -- R110
  -- monitors
  | monitorBeat (b : WBeat)                           -- R127
  | presenceChange (v : Presence)                     -- R132
  | stalenessExpiry                                   -- R122
  | guardTime                                         -- R61
  | recoveryComplete                                  -- R144
  -- reports
  | coalescedReportServed (f : CoalFlag)              -- R176
  | reportRecordWrite                                 -- R178
  | reportRecordResponse (txn : Nat) (r : Resp)       -- R178
  | headWriteResponse (txn : Nat) (r : Resp)          -- R181
  -- bus path
  | passThrough (t : Txn)                             -- R159
  | passThroughResponse (txn : Nat) (m : MResp)       -- R159
  | illegalTransaction (write : Bool) (h : TxnHdr)    -- R148
  | mpaGrant (rdReady wrReady : Bool)                 -- R162
  | timebaseTick                                      -- R114
deriving DecidableEq, Repr

end Sys2Proof
end

