-- ==== Sys2Proof/Decode.lean ====
section
/-! DEFINITION. The decoder over the rows of the table that give bits. No row of spec/opcode_table.json gives any
(every row's fields are empty: the block's commands are events, not words), so no word spells a command. -/
namespace Sys2Proof

/-- The command a word spells by the table's bits: none, since the table gives no row any bits. -/
def decodeTableWord (_nbits _w : Nat) : Option Instr := none

end Sys2Proof
end

