-- ==== Sys2Proof/Machine/Burst.lean ====
section
/-! DEFINITION. The geometry of AXI bursts: where each beat lies, and which transactions are illegal (R148). -/
namespace Sys2Proof

/-- Beats of a transaction. -/
def TxnHdr.beats (h : TxnHdr) : Nat := h.len.toNat + 1

/-- Bytes of one transfer. -/
def TxnHdr.bytes (h : TxnHdr) : Nat := 2 ^ h.size.1

/-- The address of beat `j` (R148). -/
def TxnHdr.beatAddr (h : TxnHdr) (j : Nat) : Nat :=
  let a := h.addr.toNat
  let z := h.bytes
  match h.burst with
  | .fixed => a
  | .incr => if j = 0 then a else a / z * z + j * z
  | .wrap =>
    let span := h.beats * z
    let q := a / span * span
    q + (a - q + j * z) % span

/-- The aligned 16-byte position of beat `j` (section 9.1). -/
def TxnHdr.beatPos (h : TxnHdr) (j : Nat) : Nat := h.beatAddr j / 16 * 16

/-- A transaction that is not forwarded and not classified (R148): more than 16 beats, an incrementing burst
that would cross a 4 KiB boundary, or a wrapping burst of a wrong length or start. -/
def TxnHdr.illegal (h : TxnHdr) : Bool :=
  decide (16 < h.beats) ||
  (h.burst == .incr &&
    decide (h.addr.toNat / 4096 ≠ (h.addr.toNat / h.bytes * h.bytes + h.beats * h.bytes - 1) / 4096)) ||
  (h.burst == .wrap &&
    (!([2, 4, 8, 16].contains h.beats) || decide (h.addr.toNat % h.bytes ≠ 0)))

/-- The byte lanes of beat `j` of a transaction, within its aligned position: first and last (R148). -/
def TxnHdr.lanes (h : TxnHdr) (j : Nat) : Nat × Nat :=
  let a := h.beatAddr j
  (a % 16, (a / h.bytes * h.bytes + h.bytes - 1) % 16)

end Sys2Proof
end

