-- ==== Sys2Proof/Config.lean ====
section
/-! DEFINITION. The sizes the part fixes, and the FREE VALUES: what the spec leaves open and an
instruction goes on after. A free value has no body, so no proof can see what it is. -/
namespace Sys2Proof.Config

/-- Entries of the pixel queue (R33). -/
def pixelQueueDepth : Nat := 256

/-- Entries of the report queue (R175). -/
def reportQueueDepth : Nat := 8

/-- Records of the report ring (section 10.7). -/
def ringRecords : Nat := 64

/-- Most records the drain leaves unconsumed in the ring (R178). -/
def ringMost : Nat := 63

/-- Bytes of the report ring: 64 records of 64 bytes (section 10.7). -/
def ringBytes : Nat := 4096

/-- First address past the 40-bit address space (section 9.1). -/
def addressEnd : Nat := 2 ^ 40

/-- The count of steady measurements at which recovery completes (R144). -/
def recoveryFull : Nat := 64

/-- FREE VALUE (log 10). Which of the two AXI error codes the part gives in an error response of its
own making, by S-port transaction number: the spec says "an error response" and names no code. -/
opaque partErrorIsDecErr : Nat → Bool

/-- FREE VALUE (log 11). An attempt's STRAY count after a stray taken at its largest value 2^32 - 1
(Table 3-1 gives the range and no rule past its end), by the state's free index. -/
opaque strayPastMax : Nat → BitVec 32

/-- FREE VALUE (log 12). Whether the lamp measurement of a completed monitor frame is applied before its
presence judgement: R129 says the two "have no order between them". By the state's free index. -/
opaque lampBeforePresence : Nat → Bool

end Sys2Proof.Config
end

