-- ==== Sys2Proof/Machine/State.lean ====
section
/-! DEFINITION. The state of the PL44, block by block (Table 0-1), and its value right after reset. -/
namespace Sys2Proof.Machine

/-- Reasons a step stops with a fault. There is none: no command of this part stops the machine, so the type
is empty and no statement can be made vacuous by a fault. -/
inductive Fault : Type
deriving DecidableEq, Repr

/-- Reasons a step is refused. -/
inductive Refusal where
  /-- Raised by an arm of `exec` for a command that has no meaning yet; no arm raises it now. Safe. -/
  | notModelled (mnemonic : String)
deriving DecidableEq, Repr

/-! ### Names of states, reasons and results -/

/-- Area states (Table 1-2). -/
inductive AreaState where
  | undefined | needsClear | ready
deriving DecidableEq, Repr

/-- Job slot states (Table 4-1). -/
inductive SlotState where
  | empty | fetching | pending | starting | active | finishing | done | failed | aborted
deriving DecidableEq, Repr

/-- How a job ended (R65). -/
inductive JobOutcome where
  | done | failed | aborted
deriving DecidableEq, Repr

/-- Job end reasons (Table 4-5). -/
inductive EndReason where
  | none | areaSize | flatMismatch | areaFault | plateGone | platePlaced
  | retakes | halted | timeout | dim | abort | hold
deriving DecidableEq, Repr

/-- Job kinds (Table 4-3). -/
inductive JobKind where
  | plate | flat
deriving DecidableEq, Repr

/-- How the depth is decided (Table 4-3). -/
inductive DepthMode where
  | fixed | ladder
deriving DecidableEq, Repr

/-- Render modes (section 6.4). -/
inductive RenderMode where
  | positive | linear
deriving DecidableEq, Repr

/-- Whether the finishing computes the range (Table 4-3). -/
inductive RangeMode where
  | fixed | auto
deriving DecidableEq, Repr

/-- Attempt states (Table 3-2). -/
inductive AttState where
  | waiting | reference | image | discarding
deriving DecidableEq, Repr

/-- Reasons of a failed attempt (R44). -/
inductive AttReason where
  | lamp | order | short | gap | restart
deriving DecidableEq, Repr

/-- Why an attempt end is due: R41, R40 or R43. -/
inductive AttEnd where
  | byCount | restart | gap
deriving DecidableEq, Repr

/-- Flat bank states (Table 5-2). -/
inductive BankState where
  | invalid | building | valid
deriving DecidableEq, Repr

/-- Lamp states (Table 7-2). -/
inductive LampState where
  | offline | dark | settling | steady
deriving DecidableEq, Repr

/-- A lamp measurement (R116). -/
inductive Meas where
  | sat | dim | level (lam : Nat)
deriving DecidableEq, Repr

/-- Levels of the capture error counter (Table 8-2). -/
inductive CecLevel where
  | normal | warning | guarded | halted
deriving DecidableEq, Repr

/-- Device states (section 10.4). -/
inductive Device where
  | hold | run
deriving DecidableEq, Repr

/-- Match modes (R155). -/
inductive MatchMode where
  | active | bypass
deriving DecidableEq, Repr

/-- Result formats (section 6.4). -/
inductive Fmt where
  | d16 | d8
deriving DecidableEq, Repr

/-- Result codes (Table 10-2). -/
inductive Result where
  | ok | busy | state | range | order | overlap | align | notHeld | unknown
  | fetchError | memoryError | reset
deriving DecidableEq, Repr

/-- The commands of the command page (Table 11-3). -/
inductive Cmd where
  | setSensor | setLamp | setLadder | setWindow | clearWindow | setMatch | defineArea | setReports
  | flatStore | flatFetch | flatDrop | run | hold | resume | snapshot | resetPart
  | loadJob | abortJob | releaseJob
deriving DecidableEq, Repr

/-- The four latches' and the fifth's names (R182). -/
inductive Latch where
  | lampLeftSteady | presenceChanged | captureStalled | memerrSeen | noteLost
deriving DecidableEq, Repr

/-! ### Timers and configuration -/

/-- A start time and whether the condition "the timebase has advanced by at least the limit from it" has
held since (R114: once held, it is kept as held until the start is recorded anew). -/
structure Timer where
  start : Time
  held  : Bool
deriving DecidableEq, Repr

/-- The sensor profile (Table 2-1). -/
structure Sensor where
  b : Nat
  f : Nat
  s : Nat
deriving DecidableEq, Repr

/-- The lamp configuration (Table 7-4). -/
structure LampCfg where
  band         : Nat
  settleFrames : Nat
  settleMs     : Nat
  darkLevel    : Nat
  staleMs      : Nat
  presLim      : Nat
  guardMs      : Nat
deriving DecidableEq, Repr

/-- The probe ladder (R49). -/
structure Ladder where
  t1 : Nat
  t2 : Nat
  t3 : Nat
  t4 : Nat
  depth : Vector Nat 5
deriving DecidableEq, Repr

/-! ### Area table (ATB) -/

/-- An entry of the area table (section 1.5). -/
structure Area where
  state : AreaState
  base  : Nat
  size  : Nat
  gen   : Nat
  owner : Option (Fin 4)
deriving DecidableEq, Repr

/-- A clearing sweep in progress (R11): the STARTING slot, its area, and how many 256-byte bursts have been
requested. 0 requested means it waits for merges left in flight. -/
structure Sweep where
  slot : Fin 4
  area : Fin 4
  requested : Nat
deriving DecidableEq, Repr

/-- The area table. -/
structure Atb where
  areas : Vector Area 4
  sweep : Option Sweep
deriving DecidableEq, Repr

/-! ### Cells and merges (MGE) -/

/-- A cell, field by field (Table 1-1). -/
structure Cell where
  sum    : Nat
  wsum   : Nat
  gen    : Nat
  lastk  : Nat
  nuse   : Nat
  nrej   : Nat
  clipHi : Bool
  clipLo : Bool
  reject : Bool
  retake : Bool
deriving DecidableEq, Repr

/-- Outcomes of the computation of a merge that writes (Table 2-4). CLIPPED records whether the sample was
dim, which N_lo0 counts (R38). -/
inductive MergeOutcome where
  | accepted | rejected | clipped (dim : Bool)
deriving DecidableEq, Repr

/-- A merge that has begun: the parameters of R18, and whether its outcome is still handed over (R30). -/
structure Merge where
  v      : Nat
  k      : Nat
  e      : Nat
  w      : Nat
  c      : Nat
  g      : Nat
  gen    : Nat
  retake : Bool
  tile   : Nat
  sensor : Sensor
  live   : Bool
deriving DecidableEq, Repr

/-- What an access of the cell port is for (section 1.3): a merge, the render of one pixel of one beat of an
S-port read, or a finish scan burst. -/
inductive CellUse where
  | merge (m : Merge)
  | render (rd : Nat) (beat : Nat) (pix : Nat)
  | scan
deriving DecidableEq, Repr

/-- Where an access of the cell port stands: waiting behind an earlier access (R4), its read requested, or
a merge's write requested with the outcome it carries. -/
inductive CellStage where
  | waiting | reading | writing (o : MergeOutcome)
deriving DecidableEq, Repr

/-- An access of the cell port, in the order the port took them (R4). -/
structure CellAcc where
  no    : Nat
  addr  : Nat
  len   : Nat
  use   : CellUse
  stage : CellStage
deriving DecidableEq, Repr

/-- An entry of the pixel queue (R32): a sample or a partial sample, with its index and container. -/
structure Sample where
  part : Bool
  idx  : Nat
  raw  : BitVec 16
deriving DecidableEq, Repr

/-- The exposure sequencer (Table 3-1). The tile reject counts are in the tile statistics array. -/
structure Seq where
  k          : Nat
  depth      : Option Nat
  retakes    : Nat
  nlo0       : Nat
  done       : Nat
  retakeMark : Bool
  att        : AttState
  count      : Nat
  refSum     : Nat
  refCount   : Nat
  sat        : Bool
  recorded   : Option AttReason
  meas       : Option Meas
  rejects    : Nat
  dup        : Nat
  stray      : Nat
  memerr     : Nat
  /-- last-sample time, with the frame-gap condition (R43) -/
  gap        : Timer
  /-- wait-since time, with the exposure-wait condition (R50) -/
  wait       : Timer
  /-- the attempt end that is due and not yet taken (R34, R41) -/
  endDue     : Option AttEnd
deriving DecidableEq, Repr

/-- The merge engine: pixel queue, cell port, exposure sequencer, and the sensor profile and ladder. -/
structure Mge where
  sensor : Sensor
  ladder : Ladder
  pixels : List Sample
  port   : List CellAcc
  seq    : Seq
deriving DecidableEq, Repr

/-- The tile statistics array (R80): flat sums, flat counts and attempt reject counts by tile index. -/
structure Tsa where
  flatSum   : Sparse
  flatCount : Sparse
  rejects   : Sparse
deriving DecidableEq, Repr

/-! ### Flat store (FST) -/

/-- A flat bank (Table 5-1). -/
structure Bank where
  state : BankState
  tw    : Nat
  th    : Nat
  t     : Nat
  opn   : Nat
  gains : Sparse
deriving DecidableEq, Repr

/-- The gain computation in progress (section 5.4): in its first pass, or in its second with T, N_good and
N_bad of the first. -/
inductive GainComp where
  | first
  | second (t nGood nBad : Nat)
deriving DecidableEq, Repr

/-- The flat store. -/
structure Fst where
  banks : Vector Bank 2
  comp  : Option GainComp
deriving DecidableEq, Repr

/-! ### Finish and render unit (FRU) -/

/-- The six finish counts of a PLATE job, or a FLAT job's N_good, N_bad, N_clamped, T, OPEN and 0 (R187). -/
structure Counts where
  c0 : Nat
  c1 : Nat
  c2 : Nat
  c3 : Nat
  c4 : Nat
  c5 : Nat
deriving DecidableEq, Repr

/-- The finish scan (Table 6-1); its outstanding reads are the scan accesses of the cell port, a read that is requested or waits
in the port counting as issued (DESIGN CHOICE, log 53). -/
structure Scan where
  scanning : Bool
  slot     : Fin 4
  next     : Nat
  nData    : Nat
  nGap     : Nat
  nReject  : Nat
  nRetake  : Nat
  nNodata  : Nat
  nUnread  : Nat
  hist     : Sparse
deriving DecidableEq, Repr

/-! ### Job scheduler (JSC) -/

/-- A job record (Table 4-3). -/
structure JobRecord where
  kind       : JobKind
  dmode      : DepthMode
  render     : RenderMode
  range      : RangeMode
  tag        : Nat
  prio       : Nat
  area       : Nat
  bank       : Nat
  r          : Nat
  w          : Nat
  h          : Nat
  depth      : Nat
  spread     : Nat
  retakeLim  : Nat
  tee        : Nat
  tileRejLim : Nat
  expWaitMs  : Nat
  frameGapMs : Nat
  dlo        : Nat
  dhi        : Nat
  plo        : Nat
  phi        : Nat
  e          : Vector Nat 8
  wt         : Vector Nat 8
deriving DecidableEq, Repr

/-- A job end that is due (R65): its outcome and reason, and for DONE its counts, flag and range. -/
structure JobEnd where
  outcome : JobOutcome
  reason  : EndReason
  counts  : Counts
  kept    : Bool
  dlo     : Nat
  dhi     : Nat
deriving DecidableEq, Repr

/-- A job slot (Table 4-2), with its due ACTIVE transition (R64) and its due end (R65). -/
structure JobSlot where
  state    : SlotState
  job      : Option JobRecord
  gen      : Nat
  opn      : Nat
  dlo      : Nat
  dhi      : Nat
  ended    : Option JobEnd
  startDue : Bool
  endDue   : Option JobEnd
deriving DecidableEq, Repr

/-! ### Monitors (LMN, PDT) and counter (CEC) -/

/-- The lamp monitor (Table 7-1). -/
structure Lamp where
  state       : LampState
  cand        : Option Nat
  settleCount : Nat
  /-- settle start, with the settle-time condition (R120) -/
  settle      : Timer
  base        : Option Nat
  /-- steady-since, with the guard condition (R61) -/
  steady      : Timer
  /-- the guard time has been reached and its start decision not yet made (R61) -/
  guardDue    : Bool
  /-- last measurement, with the staleness condition (R122) -/
  last        : Timer
  recovery    : Nat
  cfg         : LampCfg
deriving DecidableEq, Repr

/-- Monitor frame totals of one window (Table 7-3). -/
structure Totals where
  count    : Nat
  refSum   : Nat
  refCount : Nat
  sat      : Bool
  cSum     : Nat
  cCount   : Nat
deriving DecidableEq, Repr

/-- The presence detector (R131) and the totals of each window's frame. -/
structure Pdt where
  presence : Presence
  debounce : Nat
  dir      : Presence
  totals   : Vector Totals 16
deriving DecidableEq, Repr

/-- The capture error counter (Table 8-1); its level is a function of the value (R138). -/
structure Cec where
  value : Nat
  armed : Bool
deriving DecidableEq, Repr

/-! ### Window match unit (WMU) and the S-port -/

/-- Window kinds with the fields of their kind (Table 9-1). -/
inductive WinKind where
  | command
  | capture
  | result (slot : Fin 4) (fmt : Fmt)
  | monitor (w h r e : Nat)
deriving DecidableEq, Repr

/-- A window in use (Table 9-1). -/
structure Win where
  kind : WinKind
  base : Nat
  size : Nat
deriving DecidableEq, Repr

/-- The values a render captures at its take (R108). -/
structure Capt where
  gen      : Nat
  opn      : Nat
  w        : Nat
  h        : Nat
  render   : RenderMode
  areaBase : Nat
  winBase  : Nat
  fmt      : Fmt
  dlo      : Nat
  dhi      : Nat
deriving DecidableEq, Repr

/-- One beat of a rendered read: the pixels whose cells are still awaited, the outputs of those answered
(by pixel index), and whether a cell read of it was answered with an error (R110, R111). -/
structure RenderBeat where
  first : Nat
  waits : List Nat
  outs  : Sparse
  err   : Bool
deriving DecidableEq, Repr

/-- How an S-port read is answered: from memory, by a render, or by the part alone. -/
inductive ReadPath where
  | memory (resp : Option (List RData))
  | render (c : Capt) (beats : List RenderBeat)
  | part (beats : List RData)
deriving DecidableEq, Repr

/-- A read the S-port has taken and not fully answered; `sent` counts the beats returned. -/
structure SRead where
  no   : Nat
  hdr  : TxnHdr
  path : ReadPath
  sent : Nat
deriving DecidableEq, Repr

/-- The path of an S-port write: plain pass-through, window 0, a CAPTURE window with its base, a MONITOR
window with its number, or an illegal transaction. -/
inductive WritePath where
  | pass
  | page
  | capture (base : Nat)
  | monitor (win : Fin 16)
  | illegal
deriving DecidableEq, Repr

/-- A write the S-port has taken (in full or in part) and that is not over. `data` are the beats as the M-port
sees them, `mReq` says the M-port write has been requested, `mLock` that it carries the exclusive attribute,
`mDone` is its response, `passed` says that some beat was a pass-through beat, `answer` is the response the
S-port is to give, and `sent` that it has been given. -/
structure SWrite where
  no     : Nat
  hdr    : TxnHdr
  path   : WritePath
  data   : List WData
  mReq   : Bool
  mLock  : Bool
  mDone  : Option Resp
  passed : Bool
  answer : Option Resp
  sent   : Bool
deriving DecidableEq, Repr

/-- What waits on the S-port's write data channel: a held capture beat, and behind it any later write (R150).
Each names the S-port write it belongs to; an illegal write's beats wait as one item, and so do a whole
pass-through write's. `hand` is a byte of a window 0 write that a hand-over row names (log 4), by its page offset. -/
inductive HeldItem where
  | hand (off : Nat) (b : Byte)
  | beat (no : Nat) (b : WBeat)
  | whole (no : Nat) (beats : List WData)
  | illegal (no : Nat)
deriving DecidableEq, Repr

/-- What the part has returned on the S-port's response channels, oldest first (log 30). -/
inductive SOut where
  | readBeat (id no beat : Nat) (d : RData)
  | writeResp (id no : Nat) (r : Resp)
deriving DecidableEq, Repr

/-- The window match unit and the S-port. -/
structure Wmu where
  windows : Vector (Option Win) 16
  mode    : MatchMode
  reads   : List SRead
  writes  : List SWrite
  /-- the write whose data beats are being presented -/
  cur     : Option Nat
  /-- the held capture beat and the writes behind it (R150); empty when nothing is held -/
  held    : List HeldItem
  out     : List SOut
deriving DecidableEq, Repr

/-! ### Memory port arbiter (MPA) -/

/-- The four traffic classes (Table 9-3). -/
inductive MClass where
  | note | sys | cell | bulk
deriving DecidableEq, Repr

/-- What an M-port transaction is for. `stopped` is a transaction whose issuer has stopped (R163); its flag
says whether an error in its response sets MEMERR_SEEN. -/
inductive MKind where
  | taken (slot : Fin 8)
  | done (slot : Fin 8) (res : Result) (late : Bool)
  | record
  | head (value seq : Nat) (setReports : Bool)
  | sysRead (no : Nat)
  | sysWrite (no : Nat)
  | capWrite (no : Nat)
  | cellRead (acc : Nat)
  | cellWrite (acc : Nat)
  | sweep
  | jobFetch
  | flatWrite
  | flatHeader
  | flatGain (first n : Nat)
  | stopped (latches : Bool)
deriving DecidableEq, Repr

/-- An M-port transaction: its number, purpose, class, direction, first address and length in bytes. For the
part's own writes `bytes` are the strobed bytes from `addr` on; a SYS transaction's data are in its S-port entry. -/
structure MTxn where
  id    : Nat
  kind  : MKind
  cls   : MClass
  write : Bool
  addr  : Nat
  len   : Nat
  bytes : List Byte
deriving DecidableEq, Repr

/-- The arbiter: the four class queues, the transactions granted and not yet answered, and the class last
granted among SYS, CELL and BULK (R162). -/
structure Mpa where
  note    : List MTxn
  sys     : List MTxn
  cell    : List MTxn
  bulk    : List MTxn
  granted : List MTxn
  last    : MClass
deriving DecidableEq, Repr

/-! ### Command intake (CIN) -/

/-- A command as read from the shadow at its take (R168). ARGS are the 52 bytes from slot offset 12. -/
structure Taken where
  slot : Fin 8
  code : Nat
  tag  : Nat
  args : List Byte
deriving DecidableEq, Repr

/-- A command that stays in execution across later events (R169). -/
inductive LongOp where
  | loadJob (slot : Fin 8) (job : Fin 4)
  | hold (slot : Fin 8)
  /-- bank, image address, image bytes requested so far, and whether a response was an error -/
  | flatStore (slot : Fin 8) (bank : Fin 2) (addr done : Nat) (err : Bool)
  /-- bank and image address, before the header's response -/
  | flatHeader (slot : Fin 8) (bank : Fin 2) (addr : Nat)
  /-- after it: TW, TH, T, OPEN, the gain bytes requested so far, whether a response was an error, and the gains stored
  so far -/
  | flatGains (slot : Fin 8) (bank : Fin 2) (addr tw th t opn done : Nat) (err : Bool) (gains : Sparse)
  /-- waiting for the outstanding record and HEAD writes, with the new base and IRQ_EN -/
  | reportsWait (slot : Fin 8) (base : Nat) (irqEn : Bool)
  /-- waiting for the HEAD write of 0 -/
  | reportsHead (slot : Fin 8)
deriving DecidableEq, Repr

/-- A command slot's standing in the intake (R166, R167, R169): whether it is open, whether a WITHDRAWN was
handed while it was, and whether its TAKEN write is unanswered. -/
structure CmdSlot where
  opened    : Bool
  late      : Bool
  takenWait : Bool
deriving DecidableEq, Repr

/-- A DONE write not yet requested: the slot, its result, and the slots whose DONE writes go first (R174). -/
structure DoneWait where
  slot  : Fin 8
  res   : Result
  after : List (Fin 8)
deriving DecidableEq, Repr

/-- The command intake. The shadow holds the page bytes 0..511 and 204h..207h by page offset (R165). `takeDue`: at the
last event of R168, a hand-over of ISSUED or WITHDRAWN, a completion or a freed report entry, the conditions of a take were
met, and the take has not been made (log 42). -/
structure Cin where
  shadow  : Sparse
  queue   : List (Fin 8)
  takeDue : Bool
  long    : Option LongOp
  slots   : Vector CmdSlot 8
  waits   : List DoneWait
deriving DecidableEq, Repr

/-! ### Report unit (RPU) -/

/-- The values a SNAPSHOT report holds (R173, Table 11-11). -/
structure SnapValues where
  device   : Device
  mode     : MatchMode
  lamp     : LampState
  presence : Presence
  lamBase  : Nat
  cecValue : Nat
  cecLevel : CecLevel
  recovery : Nat
  slots    : Vector SlotState 4
  k        : Nat
  att      : AttState
  ahead    : Nat
  latches  : Vector Bool 5
  done     : Nat
  areas    : Vector AreaState 4
  gens     : Vector Nat 4
  banks    : Vector BankState 2
  head     : Nat
  tail     : Nat
deriving DecidableEq, Repr

/-- The kind-specific part of a report (Table 11-10, Table 11-11). -/
inductive RepBody where
  | jobStarted (gen depth : Nat)
  | exposureDone (k depth : Nat) (heldMark : Bool) (done dup stray rejects u memerr lam : Nat)
  | attemptFailed (k : Nat) (reason : AttReason) (retakes : Nat)
  | jobEnded (outcome : JobOutcome) (reason : EndReason) (kept : Bool) (kind : JobKind) (dlo dhi : Nat) (counts : Counts)
  | snapshot (v : SnapValues)
  | lamp (state : LampState) (lamBase : Nat)
  | presence (p : Presence)
  | cecLevel (level : CecLevel) (value : Nat)
deriving DecidableEq, Repr

/-- An entry of the report queue (R175, R186): the SLOT byte, the time it entered, the TAG and the values. -/
structure Report where
  slot : Nat
  time : Time
  tag  : Nat
  body : RepBody
deriving DecidableEq, Repr

/-- The report unit. `ringSet` says that a ring is set, and `ringBase` is its base, 0 from pin reset until the first (R177). `busy` says that a record write awaits its response, and holds whether that record is
still the head of the queue (R174); `headWait` that the last HEAD write requested by the drain is not yet granted. -/
structure Rpu where
  queue     : List Report
  ringSet   : Bool
  ringBase  : Nat
  head      : Nat
  tail      : Nat
  posted    : Nat
  postedSeq : Nat
  headSeq   : Nat
  irqEn     : Bool
  busy      : Option Bool
  headWait  : Bool
  fLamp     : Bool
  fPresence : Bool
  fCecLevel : Bool
  lampLeftSteady  : Bool
  presenceChanged : Bool
  captureStalled  : Bool
  memerrSeen      : Bool
  noteLost        : Bool
deriving DecidableEq, Repr

/-! ### The whole part -/

/-- The state of the PL44. The last four fields are the model's own: see log 1, 7 and 29. -/
structure State where
  /-- RESET_N: true when released (Table 0-3) -/
  resetN  : Bool
  device  : Device
  time    : Time
  atb     : Atb
  mge     : Mge
  tsa     : Tsa
  fst     : Fst
  scan    : Scan
  slots   : Vector JobSlot 4
  lamp    : Lamp
  pdt     : Pdt
  cec     : Cec
  wmu     : Wmu
  mpa     : Mpa
  cin     : Cin
  rpu     : Rpu
  /-- the next transaction or access number (log 7) -/
  serial  : Nat
  /-- the index of the next free value (log 29) -/
  freeIdx : Nat
  /-- the commands that are waiting, first in, first out -/
  pending : List Instr
deriving DecidableEq, Repr

/-! ### Reset values -/

/-- A timer at reset: time 0, condition not held (R115, R136). -/
def Timer.zero : Timer := { start := 0, held := false }

/-- The sensor profile at pin reset (Table 2-1). -/
def Sensor.reset : Sensor := { b := 256, f := 32, s := 16200 }

/-- The probe ladder at pin reset (R49). -/
def Ladder.reset : Ladder :=
  { t1 := 192, t2 := 128, t3 := 64, t4 := 16, depth := #v[2, 3, 4, 6, 8] }

/-- The lamp configuration at pin reset (Table 7-4). -/
def LampCfg.reset : LampCfg :=
  { band := 3, settleFrames := 8, settleMs := 2000, darkLevel := 65536, staleMs := 30000,
    presLim := 160, guardMs := 10000 }

/-- An area entry at pin reset (R7). -/
def Area.reset : Area := { state := .undefined, base := 0, size := 0, gen := 0, owner := none }

/-- The sequencer with no active job (R52). -/
def Seq.idle : Seq :=
  { k := 0, depth := none, retakes := 0, nlo0 := 0, done := 0, retakeMark := false, att := .waiting,
    count := 0, refSum := 0, refCount := 0, sat := false, recorded := none, meas := none,
    rejects := 0, dup := 0, stray := 0, memerr := 0, gap := Timer.zero, wait := Timer.zero, endDue := none }

/-- An INVALID bank: it holds no flat (R77). -/
def Bank.invalid : Bank := { state := .invalid, tw := 0, th := 0, t := 0, opn := 0, gains := [] }

/-- The finish counts of a job that did not finish (R65). -/
def Counts.zero : Counts := { c0 := 0, c1 := 0, c2 := 0, c3 := 0, c4 := 0, c5 := 0 }

/-- The finish scan, IDLE with every count and bin at 0 (R94). -/
def Scan.idle : Scan :=
  { scanning := false, slot := 0, next := 0, nData := 0, nGap := 0, nReject := 0, nRetake := 0,
    nNodata := 0, nUnread := 0, hist := [] }

/-- An EMPTY slot: it holds nothing of a job (R53). -/
def JobSlot.empty : JobSlot :=
  { state := .empty, job := none, gen := 0, opn := 0, dlo := 0, dhi := 0, ended := none,
    startDue := false, endDue := none }

/-- The lamp monitor after a reset (R115, R136) and after HOLD entry (R134), under a configuration. DESIGN CHOICE (log 44): R115
gives the three times 0 at pin reset only; soft reset and HOLD entry leave them at the same 0, no rule giving their values. -/
def Lamp.off (cfg : LampCfg) : Lamp :=
  { state := .offline, cand := none, settleCount := 0, settle := Timer.zero, base := none,
    steady := Timer.zero, guardDue := false, last := Timer.zero, recovery := 0, cfg := cfg }

/-- Monitor totals with no frame in progress (R128, R136). -/
def Totals.zero : Totals :=
  { count := 0, refSum := 0, refCount := 0, sat := false, cSum := 0, cCount := 0 }

/-- The presence detector after a reset (R131, R136) and after HOLD entry (R134). DESIGN CHOICE (logs 14 and 44): the direction of
a debounce count of 0. -/
def Pdt.off : Pdt :=
  { presence := .unknown, debounce := 0, dir := .unknown, totals := Vector.replicate 16 Totals.zero }

/-- Window 0 (R152): kind COMMAND, 4 KiB, at a base. -/
def Win.page (base : Nat) : Win := { kind := .command, base := base, size := 4096 }

/-- The window match unit at pin reset (R152, R164). The base of window 0 is set at the release of RESET_N;
until then it stands at 0 (log 13). -/
def Wmu.reset : Wmu :=
  { windows := (Vector.replicate 16 none).set 0 (some (Win.page 0)), mode := .active,
    reads := [], writes := [], cur := none, held := [], out := [] }

/-- The arbiter at pin reset (R162, R164): queues empty, last granted BULK. -/
def Mpa.reset : Mpa := { note := [], sys := [], cell := [], bulk := [], granted := [], last := .bulk }

/-- A command slot that is closed. -/
def CmdSlot.closed : CmdSlot := { opened := false, late := false, takenWait := false }

/-- The command intake at pin reset (R183). -/
def Cin.reset : Cin :=
  { shadow := [], queue := [], takeDue := false, long := none, slots := Vector.replicate 8 CmdSlot.closed, waits := [] }

/-- The report unit at pin reset (R183): no ring is set, with base 0 (R177). -/
def Rpu.reset : Rpu :=
  { queue := [], ringSet := false, ringBase := 0, head := 0, tail := 0, posted := 0, postedSeq := 0, headSeq := 0,
    irqEn := false, busy := none, headWait := false, fLamp := false, fPresence := false,
    fCecLevel := false, lampLeftSteady := false, presenceChanged := false, captureStalled := false,
    memerrSeen := false, noteLost := false }

/-- The part at pin reset, RESET_N asserted: every field at the value its chapter gives. -/
def State.reset : State :=
  { resetN := false, device := .hold, time := 0,
    atb := { areas := Vector.replicate 4 Area.reset, sweep := none },
    mge := { sensor := Sensor.reset, ladder := Ladder.reset, pixels := [], port := [], seq := Seq.idle },
    tsa := { flatSum := [], flatCount := [], rejects := [] },
    fst := { banks := Vector.replicate 2 Bank.invalid, comp := none },
    scan := Scan.idle,
    slots := Vector.replicate 4 JobSlot.empty,
    lamp := Lamp.off LampCfg.reset,
    pdt := Pdt.off,
    cec := { value := 0, armed := false },
    wmu := Wmu.reset, mpa := Mpa.reset, cin := Cin.reset, rpu := Rpu.reset,
    serial := 0, freeIdx := 0, pending := [] }

end Sys2Proof.Machine
end

