-- ==== Sys2Proof/Machine/Bytes.lean ====
section
/-! DEFINITION. Byte order, byte fields, the sparse tables' operations and small vector helpers. All
multi-byte fields in memory are little-endian (chapter 11). -/
namespace Sys2Proof.Machine

/-- The number whose little-endian bytes are `bs`. -/
def leNat : List Byte → Nat
  | [] => 0
  | b :: bs => b.toNat + 256 * leNat bs

/-- The `n` little-endian bytes of `v`. -/
def leBytes : Nat → Nat → List Byte
  | 0, _ => []
  | n + 1, v => BitVec.ofNat 8 v :: leBytes n (v / 256)

/-- The little-endian field of `n` bytes at offset `off` of a structure. -/
def field (bs : List Byte) (off n : Nat) : Nat := leNat ((bs.drop off).take n)

/-- The byte at `off` of a layout given as (offset, width, value) fields; a byte no field lists is 0 (R184). -/
def layoutByte : List (Nat × Nat × Nat) → Nat → Byte
  | [], _ => 0
  | (o, w, v) :: fs, i =>
    if o ≤ i ∧ i < o + w then BitVec.ofNat 8 (v / 256 ^ (i - o)) else layoutByte fs i

/-- The `n` bytes of a layout. -/
def layout (n : Nat) (fs : List (Nat × Nat × Nat)) : List Byte := (List.range n).map (layoutByte fs)

/-- The 16 bytes of a beat, lowest address first. -/
def beatBytes (d : BeatData) : List Byte := (List.range 16).map fun i => d.extractLsb' (8 * i) 8

/-- The 16-bit container `i` of a beat (R32). -/
def container (d : BeatData) (i : Nat) : BitVec 16 := d.extractLsb' (16 * i) 16

/-- The bytes of a read response, beat after beat. -/
def respBytes (beats : List RData) : List Byte := beats.flatMap fun b => beatBytes b.data

/-- The beat whose 16 bytes are `bs`. -/
def beatOf (bs : List Byte) : BeatData := BitVec.ofNat 128 (leNat bs)

/-- An error response (SLVERR or DECERR). -/
def respErr : Resp → Bool
  | .okay => false
  | .exokay => false
  | .slverr => true
  | .decerr => true

/-- Some beat of a read response is an error. -/
def anyErr (beats : List RData) : Bool := beats.any fun b => respErr b.resp

/-- Some part of a response is an error. -/
def mrespErr : MResp → Bool
  | .read beats => anyErr beats
  | .write r => respErr r

/-- The value at index `k` of a sparse table. -/
def sget : Sparse → Nat → Nat
  | [], _ => 0
  | (i, v) :: m, k => if i = k then v else sget m k

/-- The table with value `v` at index `k`; a 0 removes the entry, so equal tables are equal lists. -/
def sput : Sparse → Nat → Nat → Sparse
  | [], k, v => if v = 0 then [] else [(k, v)]
  | (i, w) :: m, k, v =>
    if k < i then (if v = 0 then (i, w) :: m else (k, v) :: (i, w) :: m)
    else if k = i then (if v = 0 then m else (k, v) :: m)
    else (i, w) :: sput m k v

/-- Every index of the table is above `lo`, indices rise, and no entry is 0. -/
def sortedAbove : Option Nat → Sparse → Bool
  | _, [] => true
  | lo, (i, v) :: m =>
    (match lo with | none => true | some l => decide (l < i)) && decide (v ≠ 0) && sortedAbove (some i) m

/-- The canonical form of a sparse table. -/
def swf (m : Sparse) : Bool := sortedAbove none m

/-- The table with entries `vs` stored from index `k` on. -/
def sputAll : Sparse → Nat → List Nat → Sparse
  | m, _, [] => m
  | m, k, v :: vs => sputAll (sput m k v) (k + 1) vs

/-- Entry `i` of a vector. -/
def vget {α : Type} {n : Nat} (v : Vector α n) (i : Fin n) : α := v[i]

/-- The vector with entry `i` replaced. -/
def vput {α : Type} {n : Nat} (v : Vector α n) (i : Fin n) (x : α) : Vector α n := v.set i.1 x i.2

/-- The four job slot or area numbers, lowest first. -/
def four : List (Fin 4) := [0, 1, 2, 3]

/-- The sixteen window numbers, lowest first. -/
def sixteen : List (Fin 16) := [0, 1, 2, 3, 4, 5, 6, 7, 8, 9, 10, 11, 12, 13, 14, 15]

/-- A number as a member of `Fin n`, where it is below n. -/
def toFin? (n v : Nat) : Option (Fin n) := if h : v < n then some ⟨v, h⟩ else none

/-- ceil(a / b) for b above 0. -/
def ceilDiv (a b : Nat) : Nat := (a + b - 1) / b

/-- clamp(a, lo, hi) of the Conventions: a limited to lo..hi. -/
def clamp (a lo hi : Nat) : Nat := if a < lo then lo else if hi < a then hi else a

/-- |a - b|. -/
def absDiff (a b : Nat) : Nat := if a ≤ b then b - a else a - b

/-- Ranges a .. a+n-1 and b .. b+m-1 share a byte (R8, R88, R153, R177). -/
def overlaps (a n b m : Nat) : Bool := decide (a < b + m) && decide (b < a + n)

end Sys2Proof.Machine
end

