-- ==== Sys2Proof/Machine/Layouts.lean ====
section
/-! DEFINITION. The byte layouts of chapter 11: cells, job records, flat images, command codes and result
codes, status writes and report records. -/
namespace Sys2Proof.Machine

/-! ### Cell (Table 11-1) -/

/-- A flag bit of a cell word. -/
def bitOf (w : BitVec 64) (i : Nat) : Bool := w.getLsbD i

/-- The cell a 64-bit memory word holds. -/
def Cell.ofWord (w : BitVec 64) : Cell :=
  { sum := (w.extractLsb' 0 32).toNat, wsum := (w.extractLsb' 32 8).toNat,
    gen := (w.extractLsb' 40 8).toNat, lastk := (w.extractLsb' 48 4).toNat,
    nuse := (w.extractLsb' 52 4).toNat, nrej := (w.extractLsb' 56 4).toNat,
    clipHi := bitOf w 60, clipLo := bitOf w 61, reject := bitOf w 62, retake := bitOf w 63 }

/-- The 8 bytes of a cell (Table 11-1). -/
def Cell.bytes (c : Cell) : List Byte :=
  layout 8 [(0, 4, c.sum), (4, 1, c.wsum), (5, 1, c.gen), (6, 1, c.lastk + 16 * c.nuse),
    (7, 1, c.nrej + 16 * c.clipHi.toNat + 32 * c.clipLo.toNat + 64 * c.reject.toNat + 128 * c.retake.toNat)]

/-- The 64-bit word at an 8-byte-aligned address of the beat that holds it. -/
def cellWord (addr : Nat) (d : BeatData) : BitVec 64 :=
  if addr % 16 = 8 then d.extractLsb' 64 64 else d.extractLsb' 0 64

/-! ### Command codes and result codes -/

/-- The command a CODE names (Table 11-3); none for any other CODE. -/
def Cmd.ofCode : Nat → Option Cmd
  | 0x0101 => some .setSensor
  | 0x0102 => some .setLamp
  | 0x0103 => some .setLadder
  | 0x0104 => some .setWindow
  | 0x0105 => some .clearWindow
  | 0x0106 => some .setMatch
  | 0x0107 => some .defineArea
  | 0x0108 => some .setReports
  | 0x0201 => some .flatStore
  | 0x0202 => some .flatFetch
  | 0x0203 => some .flatDrop
  | 0x0301 => some .run
  | 0x0302 => some .hold
  | 0x0303 => some .resume
  | 0x0304 => some .snapshot
  | 0x03FF => some .resetPart
  | 0x0401 => some .loadJob
  | 0x0402 => some .abortJob
  | 0x0403 => some .releaseJob
  | _ => none

/-- Result codes (Table 11-4). -/
def Result.code : Result → Nat
  | .ok => 0
  | .busy => 1
  | .state => 2
  | .range => 3
  | .order => 4
  | .overlap => 5
  | .align => 6
  | .notHeld => 7
  | .unknown => 8
  | .fetchError => 9
  | .memoryError => 10
  | .reset => 11

/-- A TAKEN write: 4 bytes with value 2 in byte 0 (R184). -/
def takenBytes : List Byte := leBytes 4 2

/-- A DONE write: 8 bytes, STATE DONE, the result code, and LATE_WITHDRAW in bit 0 of byte 5 (Table 11-2). -/
def doneBytes (r : Result) (late : Bool) : List Byte :=
  layout 8 [(0, 1, 4), (4, 1, r.code), (5, 1, late.toNat)]

/-! ### Job record (Table 11-7, R54) -/

/-- KIND's two encodings. -/
def JobKind.ofCode : Nat → Option JobKind
  | 1 => some .plate
  | 2 => some .flat
  | _ => none

/-- DMODE's two encodings. -/
def DepthMode.ofCode : Nat → Option DepthMode
  | 0 => some .fixed
  | 1 => some .ladder
  | _ => none

/-- RENDER's two encodings. -/
def RenderMode.ofCode : Nat → Option RenderMode
  | 0 => some .positive
  | 1 => some .linear
  | _ => none

/-- RANGE's two encodings. -/
def RangeMode.ofCode : Nat → Option RangeMode
  | 0 => some .fixed
  | 1 => some .auto
  | _ => none

/-- The ranges of R54 over a record's fields, each at the width of Table 11-7. -/
def JobRecord.inRange (j : JobRecord) : Bool :=
  (j.kind == .flat || decide (j.area ≤ 3)) &&
  decide (j.bank ≤ 1) &&
  decide (64 ≤ j.w) && decide (j.w ≤ 12288) && decide (j.w % 8 = 0) &&
  decide (64 ≤ j.h) && decide (j.h ≤ 9216) && decide (2 ≤ j.r) && decide (j.r ≤ 16) &&
  (j.kind == .plate || j.dmode == .fixed) &&
  (j.dmode == .ladder || (decide (1 ≤ j.depth) && decide (j.depth ≤ 8))) &&
  j.e.toList.all (fun x => decide (1 ≤ x) && decide (x ≤ 1024)) &&
  j.wt.toList.all (fun x => decide (1 ≤ x) && decide (x ≤ 15)) &&
  decide (j.spread ≤ 15) && decide (j.tileRejLim ≤ 4095) && decide (j.retakeLim ≤ 7) && decide (j.tee ≤ 1) &&
  decide (j.dlo ≤ 16383) && decide (j.dhi ≤ 16383) && decide (j.dlo < j.dhi) &&
  decide (j.plo ≤ 500) && decide (9500 ≤ j.phi) && decide (j.phi ≤ 10000)

/-- The record its 128 bytes hold, where KIND, DMODE, RENDER and RANGE hold defined encodings. -/
def JobRecord.read (bs : List Byte) : Option JobRecord :=
  match JobKind.ofCode (field bs 0 1), DepthMode.ofCode (field bs 1 1),
        RenderMode.ofCode (field bs 2 1), RangeMode.ofCode (field bs 3 1) with
  | some kind, some dmode, some render, some range =>
    some { kind := kind, dmode := dmode, render := render, range := range,
           tag := field bs 4 4, prio := field bs 8 1, area := field bs 9 1, bank := field bs 10 1,
           r := field bs 11 1, w := field bs 12 2, h := field bs 14 2, depth := field bs 16 1,
           spread := field bs 17 1, retakeLim := field bs 18 1, tee := field bs 19 1,
           tileRejLim := field bs 20 2, expWaitMs := field bs 22 2, frameGapMs := field bs 24 2,
           dlo := field bs 26 2, dhi := field bs 28 2, plo := field bs 30 2, phi := field bs 32 2,
           e := Vector.ofFn fun i : Fin 8 => field bs (34 + 2 * i.1) 2,
           wt := Vector.ofFn fun i : Fin 8 => field bs (50 + i.1) 1 }
  | _, _, _, _ => none

/-- The valid record 128 bytes hold (R54); none where the record is refused. -/
def JobRecord.ofBytes (bs : List Byte) : Option JobRecord :=
  match JobRecord.read bs with
  | some j => if j.inRange then some j else none
  | none => none

/-! ### Flat image (Table 11-8, R87) -/

/-- Bytes of a bank's image. -/
def imageLen (tw th : Nat) : Nat := 32 + 2 * (tw * th)

/-- The header of a bank's image. -/
def imageHeader (b : Bank) : List (Nat × Nat × Nat) :=
  [(0, 2, 1), (2, 2, b.tw), (4, 2, b.th), (8, 4, b.t), (12, 4, b.opn)]

/-- Byte `i` of a bank's image: header, then 2 bytes for each gain. -/
def imageByte (b : Bank) (i : Nat) : Byte :=
  if i < 32 then layoutByte (imageHeader b) i
  else BitVec.ofNat 8 (sget b.gains ((i - 32) / 2) / 256 ^ (i % 2))

/-- Bytes `off .. off + n - 1` of a bank's image. -/
def imageBytes (b : Bank) (off n : Nat) : List Byte := (List.range n).map fun i => imageByte b (off + i)

/-! ### Codes of Table 11-9 -/

/-- Device state code. -/
def Device.code : Device → Nat
  | .hold => 0
  | .run => 1

/-- Match mode code. -/
def MatchMode.code : MatchMode → Nat
  | .active => 0
  | .bypass => 1

/-- Lamp state code. -/
def LampState.code : LampState → Nat
  | .offline => 0
  | .dark => 1
  | .settling => 2
  | .steady => 3

/-- Presence code. -/
def presenceCode : Presence → Nat
  | .unknown => 0
  | .absent => 1
  | .present => 2

/-- Counter level code. -/
def CecLevel.code : CecLevel → Nat
  | .normal => 0
  | .warning => 1
  | .guarded => 2
  | .halted => 3

/-- Slot state code. -/
def SlotState.code : SlotState → Nat
  | .empty => 0
  | .fetching => 1
  | .pending => 2
  | .starting => 3
  | .active => 4
  | .finishing => 5
  | .done => 6
  | .failed => 7
  | .aborted => 8

/-- Attempt state code. -/
def AttState.code : AttState → Nat
  | .waiting => 0
  | .reference => 1
  | .image => 2
  | .discarding => 3

/-- Area state code. -/
def AreaState.code : AreaState → Nat
  | .undefined => 0
  | .needsClear => 1
  | .ready => 2

/-- Bank state code. -/
def BankState.code : BankState → Nat
  | .invalid => 0
  | .building => 1
  | .valid => 2

/-- Attempt reason code. -/
def AttReason.code : AttReason → Nat
  | .lamp => 1
  | .order => 2
  | .short => 3
  | .gap => 4
  | .restart => 5

/-- Outcome code. -/
def JobOutcome.code : JobOutcome → Nat
  | .done => 1
  | .failed => 2
  | .aborted => 3

/-- End reason code. -/
def EndReason.code : EndReason → Nat
  | .none => 0
  | .areaSize => 1
  | .flatMismatch => 2
  | .areaFault => 3
  | .plateGone => 4
  | .platePlaced => 5
  | .retakes => 6
  | .halted => 7
  | .timeout => 8
  | .dim => 9
  | .abort => 10
  | .hold => 11

/-- KIND code of a job. -/
def JobKind.code : JobKind → Nat
  | .plate => 1
  | .flat => 2

/-! ### Report records (R186, R187) -/

/-- The KIND byte of a report (R186). -/
def RepBody.code : RepBody → Nat
  | .jobStarted .. => 1
  | .exposureDone .. => 2
  | .attemptFailed .. => 3
  | .jobEnded .. => 4
  | .snapshot .. => 5
  | .lamp .. => 6
  | .presence .. => 7
  | .cecLevel .. => 8

/-- The latches byte of a SNAPSHOT (Table 11-11). -/
def latchByte (l : Vector Bool 5) : Nat :=
  l[0].toNat + 2 * l[1].toNat + 4 * l[2].toNat + 8 * l[3].toNat + 16 * l[4].toNat

/-- The kind-specific fields of a report (Table 11-10, Table 11-11). -/
def RepBody.fields : RepBody → List (Nat × Nat × Nat)
  | .jobStarted gen depth => [(12, 1, gen), (13, 1, depth)]
  | .exposureDone k depth held done dup stray rejects u memerr lam =>
    [(12, 1, k), (13, 1, depth), (14, 1, held.toNat), (16, 4, done), (20, 4, dup), (24, 4, stray),
     (28, 4, rejects), (32, 2, u), (36, 4, memerr), (40, 4, lam)]
  | .attemptFailed k reason retakes => [(12, 1, k), (13, 1, reason.code), (14, 1, retakes)]
  | .jobEnded outcome reason kept kind dlo dhi c =>
    [(12, 1, outcome.code), (13, 1, reason.code), (14, 1, kept.toNat), (15, 1, kind.code),
     (16, 2, dlo), (18, 2, dhi), (20, 4, c.c0), (24, 4, c.c1), (28, 4, c.c2), (32, 4, c.c3),
     (36, 4, c.c4), (40, 4, c.c5)]
  | .snapshot v =>
    [(12, 1, v.device.code), (13, 1, v.mode.code), (14, 1, v.lamp.code), (15, 1, presenceCode v.presence),
     (16, 4, v.lamBase), (20, 2, v.cecValue), (22, 1, v.cecLevel.code), (23, 1, v.recovery),
     (24, 1, v.slots[0].code), (25, 1, v.slots[1].code), (26, 1, v.slots[2].code), (27, 1, v.slots[3].code),
     (28, 1, v.k), (29, 1, v.att.code), (30, 1, v.ahead), (31, 1, latchByte v.latches), (32, 4, v.done),
     (36, 1, v.areas[0].code), (37, 1, v.areas[1].code), (38, 1, v.areas[2].code), (39, 1, v.areas[3].code),
     (40, 1, v.gens[0]), (41, 1, v.gens[1]), (42, 1, v.gens[2]), (43, 1, v.gens[3]),
     (44, 1, v.banks[0].code), (45, 1, v.banks[1].code), (46, 1, v.head), (47, 1, v.tail)]
  | .lamp state base => [(12, 1, state.code), (16, 4, base)]
  | .presence p => [(12, 1, presenceCode p)]
  | .cecLevel level value => [(12, 1, level.code), (14, 2, value)]

/-- The 64 bytes of a report record (R184, R186). -/
def Report.bytes (r : Report) : List Byte :=
  layout 64 ([(0, 1, r.body.code), (1, 1, r.slot), (4, 4, r.time.toNat), (8, 4, r.tag)] ++ r.body.fields)

end Sys2Proof.Machine
end

