-- ==== Sys2Proof/Machine/Arith.lean ====
section
/-! DEFINITION. The part's arithmetic: judging a cell, the merge, density and output, auto range, lamp
measurements, the gain computation, the ladder and the counter's levels. Unsigned and exact throughout. -/
namespace Sys2Proof.Machine

/-! ### Judging a cell (R2) -/

/-- The cell an empty reading stands for (R2). -/
def Cell.empty : Cell :=
  { sum := 0, wsum := 0, gen := 0, lastk := 15, nuse := 0, nrej := 0,
    clipHi := false, clipLo := false, reject := false, retake := false }

/-- The largest estimate (R20). -/
def maxEstimate : Nat := 1048480

/-- The conditions of R2 under which a cell read for a job of generation `gen` is taken as empty, the last
for a merge at exposure index k only. -/
def takenEmpty (c : Cell) (gen : Nat) (k : Option Nat) : Bool :=
  decide (c.gen ≠ gen) || decide (c.gen = 0) ||
  (decide (8 ≤ c.lastk) && decide (c.lastk ≤ 14)) ||
  (decide (c.lastk = 15) && (decide (c.sum ≠ 0) || decide (c.wsum ≠ 0) || decide (c.nuse ≠ 0) ||
    decide (c.nrej ≠ 0) || c.clipHi || c.clipLo || c.reject || c.retake)) ||
  decide (7 < c.nrej) ||
  (decide (c.lastk ≤ 7) && decide (c.lastk + 1 < c.nuse + c.nrej)) ||
  decide (c.wsum < c.nuse) || decide (15 * c.nuse < c.wsum) ||
  decide (maxEstimate * c.wsum < c.sum) ||
  (match k with | some k => decide (c.lastk ≤ 7) && decide (k < c.lastk) | none => false)

/-- The judged cell: none when it is taken as empty, else the cell as found. -/
def judge (c : Cell) (gen : Nat) (k : Option Nat) : Option Cell :=
  if takenEmpty c gen k then none else some c

/-- The values a judged cell contributes: an empty one those of R2. -/
def Cell.judged : Option Cell → Cell
  | some c => c
  | none => Cell.empty

/-! ### Classification and the merge (R20 to R26) -/

/-- Classes of a raw value (R20). -/
inductive SampleClass where
  | saturated | dim | usable
deriving DecidableEq, Repr

/-- The raw value of a container: its low 14 bits (R20). -/
def rawValue (c : BitVec 16) : Nat := c.toNat % 16384

/-- The class of a raw value, tests in order (R20). -/
def classify (v : Nat) (p : Sensor) : SampleClass :=
  if p.s ≤ v then .saturated else if v < p.b + p.f then .dim else .usable

/-- The estimate of a usable sample (R20). -/
def estimate (v b g e : Nat) : Nat := (v - b) * g / (512 * e)

/-- The limit of the spread test for mean m and code c (R24). -/
def spreadLimit (m c : Nat) : Nat := max 8 (m * 3 * (c + 1) / 256)

/-- The weighted mean of a cell (R24). -/
def Cell.mean (c : Cell) : Nat := c.sum / c.wsum

/-- The duplicate test of R21: not empty, and LASTK equal to k. -/
def isDuplicate (j : Option Cell) (k : Nat) : Bool :=
  match j with
  | some c => decide (c.lastk = k)
  | none => false

/-- The fields every non-duplicate merge writes (R22), over the judged cell. -/
def mergeCommon (c : Cell) (m : Merge) : Cell :=
  { c with gen := m.gen, lastk := m.k, retake := c.retake || m.retake }

/-- The cell an accepted sample of estimate x leaves (R23, R25). -/
def mergeAccept (c : Cell) (m : Merge) (x : Nat) : Cell :=
  let c' := mergeCommon c m
  if c.nuse = 0 then { c' with sum := x * m.w, wsum := m.w, nuse := 1 }
  else { c' with sum := c.sum + x * m.w, wsum := c.wsum + m.w, nuse := c.nuse + 1 }

/-- The cell a rejected sample leaves (R26). -/
def mergeReject (c : Cell) (m : Merge) : Cell :=
  { mergeCommon c m with nrej := c.nrej + 1, reject := true }

/-- Whether a usable sample of estimate x is accepted into a cell with accepted samples (R24). -/
def inSpread (c : Cell) (m : Merge) (x : Nat) : Bool :=
  decide (absDiff x c.mean ≤ spreadLimit c.mean m.c)

/-- The new cell and the outcome of a merge that is not a duplicate (R22 to R26), from the judged cell. -/
def mergeCell (c : Cell) (m : Merge) : Cell × MergeOutcome :=
  match classify m.v m.sensor with
  | .saturated => ({ mergeCommon c m with clipHi := true }, .clipped false)
  | .dim => ({ mergeCommon c m with clipLo := true }, .clipped true)
  | .usable =>
    let x := estimate m.v m.sensor.b m.g m.e
    if c.nuse = 0 then (mergeAccept c m x, .accepted)
    else if inSpread c m x then (mergeAccept c m x, .accepted)
    else (mergeReject c m, .rejected)

/-! ### Density and output (R100, R101, R105, R106) -/

/-- The piecewise-linear logarithm (R100), for y at least 1. -/
def logL (y : Nat) : Nat :=
  let n := Nat.log2 y
  1024 * n + (y - 2 ^ n) * 1024 / 2 ^ n

/-- The density of a judged cell (R101); none for no data. -/
def density (j : Option Cell) (opn : Nat) : Option Nat :=
  match j with
  | none => none
  | some c =>
    if c.nuse = 0 then
      if c.clipHi then some 0 else if c.clipLo then some 16383 else none
    else
      let m := c.mean
      if m = 0 then some 16383
      else if logL opn ≤ logL m then some 0
      else some (min 16383 (logL opn - logL m))

/-- The full output value of a format (R105). -/
def Fmt.full : Fmt → Nat
  | .d16 => 65535
  | .d8 => 255

/-- POSITIVE output of a density under a range (R105). -/
def outPositive (d : Option Nat) (dlo dhi : Nat) (f : Fmt) : Nat :=
  match d with
  | none => 0
  | some d => (clamp d dlo dhi - dlo) * f.full / (dhi - dlo)

/-- LINEAR output of a judged cell (R106). -/
def outLinear (j : Option Cell) (f : Fmt) : Nat :=
  match j with
  | none => 0
  | some c =>
    if c.nuse = 0 then (if c.clipHi then f.full else 0)
    else match f with
      | .d16 => min 65535 (c.mean / 16)
      | .d8 => c.mean / 4096

/-- The output of a rendered pixel (R105, R106) from its cell word, under a render's captured values (R108). -/
def renderOut (c : Capt) (w : BitVec 64) : Nat :=
  let j := judge (Cell.ofWord w) c.gen none
  match c.render with
  | .positive => outPositive (density j c.opn) c.dlo c.dhi c.fmt
  | .linear => outLinear j c.fmt

/-! ### Auto range (R103) -/

/-- The smallest bin, from bin `j` with `cum` counted before it, whose cumulative count is at least `a`.
`n` bounds the bins looked at. -/
def binAtLeast (hist : Sparse) (a : Nat) : Nat → Nat → Nat → Nat
  | 0, j, _ => j
  | n + 1, j, cum =>
    if a ≤ cum + sget hist j then j else binAtLeast hist a n (j + 1) (cum + sget hist j)

/-- The range computed for an AUTO job from a histogram of `n` cells (R103), n at least 1. -/
def autoRange (hist : Sparse) (n plo phi : Nat) : Nat × Nat :=
  let a := max 1 (ceilDiv (n * plo) 10000)
  let b := max 1 (ceilDiv (n * phi) 10000)
  (16 * binAtLeast hist a 1023 0 0, 16 * binAtLeast hist b 1023 0 0 + 15)

/-! ### Lamp measurements and presence (R116, R118, R130) -/

/-- A measurement from a frame's reference totals and exposure factor (R116). -/
def measure (p : Sensor) (sum count : Nat) (sat : Bool) (e : Nat) : Meas :=
  if sat then .sat
  else
    let r := sum / count
    if r < p.b + p.f then .dim else .level ((r - p.b) * 1024 / e)

/-- A level is in band of a base under the BAND code (R118). -/
def inBand (lam base band : Nat) : Bool :=
  decide (absDiff lam base ≤ base * 2 * (band + 1) / 1024)

/-- The vote of a completed monitor frame (R130); none where the frame is ignored for presence. -/
def presenceVote (p : Sensor) (presLim : Nat) (t : Totals) : Option Presence :=
  if t.sat then none
  else
    let r := t.refSum / t.refCount
    if r < p.b + p.f ∨ r - p.b = 0 then none
    else if t.cCount = 0 then none
    else
      let mu := t.cSum / t.cCount
      let rho := 256 * mu / (r - p.b)
      some (if rho < presLim then .present else .absent)

/-! ### The counter's levels (Table 8-2) and the ladder (R48) -/

/-- The level a value decides (Table 8-2). -/
def levelOf (v : Nat) : CecLevel :=
  if v ≤ 95 then .normal else if v ≤ 127 then .warning else if v ≤ 255 then .guarded else .halted

/-- The depth the ladder gives for φ (R48, Table 3-4). -/
def ladderDepth (l : Ladder) (phi : Nat) : Nat :=
  if l.t1 ≤ phi then l.depth[4]
  else if l.t2 ≤ phi then l.depth[3]
  else if l.t3 ≤ phi then l.depth[2]
  else if l.t4 ≤ phi then l.depth[1]
  else l.depth[0]

/-! ### Tiles and the gain computation (R78, R82 to R84) -/

/-- Tiles per row of an image W wide, or tile rows of one H high (R78). -/
def tilesOf (n : Nat) : Nat := ceilDiv n 64

/-- The tile index of a pixel index of an image W wide (R78). -/
def tileOf (w pix : Nat) : Nat := (pix / w / 64) * tilesOf w + (pix % w) / 64

/-- The tile mean μ_t, for a count above 0 (R82). -/
def tileMean (s : Tsa) (t : Nat) : Nat := sget s.flatSum t / sget s.flatCount t

/-- A tile is good: count above 0 and mean above 0 (R82). -/
def tileGood (s : Tsa) (t : Nat) : Bool := decide (0 < sget s.flatCount t) && decide (0 < tileMean s t)

/-- N_good and the sum of the good tiles' means over tiles 0 .. n-1 (R82). -/
def firstPass (s : Tsa) : Nat → Nat × Nat
  | 0 => (0, 0)
  | n + 1 =>
    let (g, m) := firstPass s n
    if tileGood s n then (g + 1, m + tileMean s n) else (g, m)

/-- The gain of a tile under target T before the clamp (R84). -/
def rawGain (s : Tsa) (t tile : Nat) : Nat := t * 16384 / tileMean s tile

/-- The gain of a tile (R84). -/
def tileGain (s : Tsa) (t tile : Nat) : Nat :=
  if tileGood s tile then clamp (rawGain s t tile) 8192 32767 else 16384

/-- The gains of `n` tiles from tile `i` on. -/
def gainsFrom (s : Tsa) (t : Nat) : Nat → Nat → List Nat
  | 0, _ => []
  | n + 1, i => tileGain s t i :: gainsFrom s t n (i + 1)

/-- N_clamped over tiles 0 .. n-1 (R84). -/
def clampedCount (s : Tsa) (t : Nat) : Nat → Nat
  | 0 => 0
  | n + 1 =>
    clampedCount s t n +
      (if tileGood s n ∧ (rawGain s t n < 8192 ∨ 32767 < rawGain s t n) then 1 else 0)

/-- Number of tiles among 0 .. n-1 whose attempt reject count exceeds the limit (U of R46). -/
def unsteadyTiles (s : Tsa) (lim : Nat) : Nat → Nat
  | 0 => 0
  | n + 1 => unsteadyTiles s lim n + (if lim < sget s.rejects n then 1 else 0)

/-- The gain stored for a gain read from a flat image (R91). -/
def clampGain (g : Nat) : Nat := clamp g 8192 32767

end Sys2Proof.Machine
end

