-- ==== Sys2Proof/Machine/Updates.lean ====
section
/-! DEFINITION. One named update per field of the state. The operations change the state through these, and
Laws/State.lean says what each leaves alone. -/
namespace Sys2Proof.Machine

/-- Replaces RESET_N's level. -/
def State.setResetN (s : State) (x : Bool) : State := { s with resetN := x }

/-- Replaces the device state. -/
def State.setDevice (s : State) (x : Device) : State := { s with device := x }

/-- Replaces the timebase. -/
def State.setTime (s : State) (x : Time) : State := { s with time := x }

/-- Replaces the area table. -/
def State.setAtb (s : State) (x : Atb) : State := { s with atb := x }

/-- Replaces the merge engine. -/
def State.setMge (s : State) (x : Mge) : State := { s with mge := x }

/-- Replaces the tile statistics array. -/
def State.setTsa (s : State) (x : Tsa) : State := { s with tsa := x }

/-- Replaces the flat store. -/
def State.setFst (s : State) (x : Fst) : State := { s with fst := x }

/-- Replaces the finish scan. -/
def State.setScan (s : State) (x : Scan) : State := { s with scan := x }

/-- Replaces the job slots. -/
def State.setSlots (s : State) (x : Vector JobSlot 4) : State := { s with slots := x }

/-- Replaces the lamp monitor. -/
def State.setLamp (s : State) (x : Lamp) : State := { s with lamp := x }

/-- Replaces the presence detector. -/
def State.setPdt (s : State) (x : Pdt) : State := { s with pdt := x }

/-- Replaces the capture error counter. -/
def State.setCec (s : State) (x : Cec) : State := { s with cec := x }

/-- Replaces the window match unit and S-port. -/
def State.setWmu (s : State) (x : Wmu) : State := { s with wmu := x }

/-- Replaces the arbiter. -/
def State.setMpa (s : State) (x : Mpa) : State := { s with mpa := x }

/-- Replaces the command intake. -/
def State.setCin (s : State) (x : Cin) : State := { s with cin := x }

/-- Replaces the report unit. -/
def State.setRpu (s : State) (x : Rpu) : State := { s with rpu := x }

/-- Replaces the next serial number. -/
def State.setSerial (s : State) (x : Nat) : State := { s with serial := x }

/-- Replaces the next free index. -/
def State.setFreeIdx (s : State) (x : Nat) : State := { s with freeIdx := x }

/-- Replaces the queue of waiting commands. -/
def State.setPending (s : State) (x : List Instr) : State := { s with pending := x }

end Sys2Proof.Machine
end

