-- ==== Sys2Proof/Machine/Flags.lean ====
section
/-! DEFINITION. The latches, the coalesce flags and the interrupt line of the report unit. -/
namespace Sys2Proof.Machine

/-- Sets a latch; one already set is not changed (R182). -/
def Rpu.latch (r : Rpu) : Latch → Rpu
  | .lampLeftSteady => { r with lampLeftSteady := true }
  | .presenceChanged => { r with presenceChanged := true }
  | .captureStalled => { r with captureStalled := true }
  | .memerrSeen => { r with memerrSeen := true }
  | .noteLost => { r with noteLost := true }

/-- The five latches in the order of Table 11-11. -/
def Rpu.latches (r : Rpu) : Vector Bool 5 :=
  #v[r.lampLeftSteady, r.presenceChanged, r.captureStalled, r.memerrSeen, r.noteLost]

/-- Clears every latch (R173, R174). -/
def Rpu.clearLatches (r : Rpu) : Rpu :=
  { r with lampLeftSteady := false, presenceChanged := false, captureStalled := false,
           memerrSeen := false, noteLost := false }

/-- Sets a coalesce flag to a value (R176). -/
def Rpu.putFlag (r : Rpu) (f : CoalFlag) (b : Bool) : Rpu :=
  match f with
  | .lamp => { r with fLamp := b }
  | .presence => { r with fPresence := b }
  | .cecLevel => { r with fCecLevel := b }

/-- Whether a coalesce flag is set. -/
def Rpu.flag (r : Rpu) : CoalFlag → Bool
  | .lamp => r.fLamp
  | .presence => r.fPresence
  | .cecLevel => r.fCecLevel

/-- Sets a latch of the part. -/
def setLatch (l : Latch) (s : State) : State := s.setRpu (s.rpu.latch l)

/-- Sets a coalesce flag of the part (R124, R132, R141). -/
def setFlag (f : CoalFlag) (s : State) : State := s.setRpu (s.rpu.putFlag f true)

/-- IRQ_N is asserted (driven low): IRQ_EN is 1 and the posted HEAD differs from TAIL (R181). -/
def irqAsserted (s : State) : Bool := s.rpu.irqEn && decide (s.rpu.posted ≠ s.rpu.tail)

end Sys2Proof.Machine
end

