-- ==== Sys2Proof/Machine/Ops.lean ====
section
/-! DEFINITION. The operations the commands share: report entries, M-port requests and responses, timers,
look-ups of slots, areas, banks and windows, and the cell port. -/
namespace Sys2Proof.Machine

/-! ### The report queue (R175) -/

/-- Free entries of the report queue. -/
def State.free (s : State) : Nat := Config.reportQueueDepth - s.rpu.queue.length

/-- A report enters the queue with the time of its entry (R175, R114); none enters without a free entry. -/
def pushReport (slot tag : Nat) (body : RepBody) (s : State) : State :=
  if s.rpu.queue.length < Config.reportQueueDepth then
    s.setRpu { s.rpu with queue := s.rpu.queue ++ [{ slot := slot, time := s.time, tag := tag, body := body }] }
  else s

/-! ### M-port requests and responses (R161, R163) -/

/-- Appends a request to its class's queue (R161). -/
def Mpa.enqueue (m : Mpa) (t : MTxn) : Mpa :=
  match t.cls with
  | .note => { m with note := m.note ++ [t] }
  | .sys => { m with sys := m.sys ++ [t] }
  | .cell => { m with cell := m.cell ++ [t] }
  | .bulk => { m with bulk := m.bulk ++ [t] }

/-- Makes a request of a class, numbered afresh. -/
def requestM (kind : MKind) (cls : MClass) (write : Bool) (addr len : Nat) (bytes : List Byte) (s : State) : State :=
  (s.setSerial (s.serial + 1)).setMpa
    (s.mpa.enqueue { id := s.serial, kind := kind, cls := cls, write := write, addr := addr, len := len, bytes := bytes })

/-- The granted transaction of a number, if it awaits its response. -/
def granted? (id : Nat) (s : State) : Option MTxn := s.mpa.granted.find? fun t => t.id == id

/-- What the granted transaction of a number is for. -/
def grantedKind (id : Nat) (s : State) : Option MKind := (granted? id s).map MTxn.kind

/-- The granted transaction of a number is answered. -/
def answered (id : Nat) (s : State) : State :=
  s.setMpa { s.mpa with granted := s.mpa.granted.filter fun t => t.id != id }

/-- Some transaction for which `p` holds is requested or awaits its response. -/
def Mpa.has (m : Mpa) (p : MTxn → Bool) : Bool :=
  m.note.any p || m.sys.any p || m.cell.any p || m.bulk.any p || m.granted.any p

/-- Withdraws the requests for which `p` holds before their grant (R164; where an error or an abort ends the operation, log 55). -/
def Mpa.withdraw (m : Mpa) (p : MTxn → Bool) : Mpa :=
  { m with cell := m.cell.filter fun t => !p t, bulk := m.bulk.filter fun t => !p t }

/-- Stops an issuer: its requests are withdrawn, and its granted transactions become those of a stopped
issuer, whose responses are absorbed (R163, R164). -/
def Mpa.stop (m : Mpa) (p : MTxn → Bool) : Mpa :=
  { m.withdraw p with
    granted := m.granted.map fun t => if p t then { t with kind := .stopped true } else t }

/-- Stops an issuer of the part. -/
def stopIssuer (p : MTxn → Bool) (s : State) : State := s.setMpa (s.mpa.stop p)

/-- An error in a response to the part's own traffic sets MEMERR_SEEN (R163). -/
def memErr (err : Bool) (s : State) : State := if err then setLatch .memerrSeen s else s

/-- An error in a response to a record, HEAD or status write sets NOTE_LOST and MEMERR_SEEN (R170, R179). -/
def noteErr (r : Resp) (s : State) : State :=
  if respErr r then setLatch .noteLost (setLatch .memerrSeen s) else s

/-- The base of window 0, the command page (R152). -/
def pageBase (s : State) : Nat :=
  match vget s.wmu.windows 0 with
  | some w => w.base
  | none => 0

/-- Requests a command slot's TAKEN write (R168, R184). -/
def requestTaken (n : Fin 8) (s : State) : State :=
  requestM (.taken n) .note true (pageBase s + 64 * n.1) 4 takenBytes s

/-- Requests a command slot's DONE write, with the mark as it stands (R169, R184). -/
def requestDone (n : Fin 8) (res : Result) (s : State) : State :=
  let late := (vget s.cin.slots n).late
  requestM (.done n res late) .note true (pageBase s + 64 * n.1) 8 (doneBytes res late) s

/-- Requests a HEAD write (R178, R177), counted so that the latest answered one is known (R181). -/
def requestHead (value : Nat) (setReports : Bool) (s : State) : State :=
  let s := requestM (.head value (s.rpu.headSeq + 1) setReports) .note true (pageBase s + 512) 4 (leBytes 4 value) s
  s.setRpu { s.rpu with headSeq := s.rpu.headSeq + 1 }

/-! ### Timers (R114) -/

/-- A start time recorded anew against a limit: the condition holds at once for a limit of 0. -/
def Timer.startAt (now : Time) (limit : Nat) : Timer := { start := now, held := decide (limit = 0) }

/-- The condition after the timebase has come to `now`: kept once held, else elapsed modulo 2^32 compared. -/
def Timer.tick (t : Timer) (now : Time) (limit : Nat) : Timer :=
  { t with held := t.held || decide (limit ≤ (now - t.start).toNat) }

/-! ### Look-ups -/

/-- The slot that is STARTING, ACTIVE or FINISHING (R53: at most one). -/
def SlotState.busy : SlotState → Bool
  | .starting => true
  | .active => true
  | .finishing => true
  | _ => false

/-- The active job's slot number. -/
def busySlot (s : State) : Option (Fin 4) := four.find? fun i => (vget s.slots i).state.busy

/-- The slot in state ACTIVE. -/
def activeSlot (s : State) : Option (Fin 4) := four.find? fun i => (vget s.slots i).state == .active

/-- Replaces a job slot. -/
def putSlot (i : Fin 4) (x : JobSlot) (s : State) : State := s.setSlots (vput s.slots i x)

/-- Replaces an area entry. -/
def putArea (i : Fin 4) (a : Area) (s : State) : State := s.setAtb { s.atb with areas := vput s.atb.areas i a }

/-- Replaces a flat bank. -/
def putBank (i : Fin 2) (b : Bank) (s : State) : State := s.setFst { s.fst with banks := vput s.fst.banks i b }

/-- Replaces the exposure sequencer. -/
def putSeq (q : Seq) (s : State) : State := s.setMge { s.mge with seq := q }

/-- The area a record names, for a PLATE record (R54: 0..3). -/
def JobRecord.areaNo (j : JobRecord) : Fin 4 := ⟨j.area % 4, Nat.mod_lt _ (by decide)⟩

/-- The bank a record names (R54: 0..1). -/
def JobRecord.bankNo (j : JobRecord) : Fin 2 := ⟨j.bank % 2, Nat.mod_lt _ (by decide)⟩

/-- Pixels of the job's image. -/
def JobRecord.pixels (j : JobRecord) : Nat := j.w * j.h

/-- Samples of the job's frame: W × (H + R). -/
def JobRecord.frame (j : JobRecord) : Nat := j.w * (j.h + j.r)

/-- Tiles of the job's grid (R78). -/
def JobRecord.tiles (j : JobRecord) : Nat := tilesOf j.w * tilesOf j.h

/-- E_k of a record. -/
def JobRecord.eAt (j : JobRecord) (k : Nat) : Nat := j.e.toList.getD k 1

/-- w_k of a record. -/
def JobRecord.wtAt (j : JobRecord) (k : Nat) : Nat := j.wt.toList.getD k 1

/-- A range shares a byte with a window in use whose number is not `except` (R8, R153). -/
def hitsWindow (s : State) (except : Option (Fin 16)) (base size : Nat) : Bool :=
  sixteen.any fun i =>
    (except != some i) &&
    (match vget s.wmu.windows i with
     | some w => overlaps base size w.base w.size
     | none => false)

/-- A range shares a byte with a defined area whose number is not `except` (R8, R153). -/
def hitsArea (s : State) (except : Option (Fin 4)) (base size : Nat) : Bool :=
  four.any fun i =>
    let a := vget s.atb.areas i
    (except != some i) && (a.state != .undefined) && overlaps base size a.base a.size

/-- The base of the report ring, if one is set (R177). -/
def Rpu.ring (r : Rpu) : Option Nat := if r.ringSet then some r.ringBase else none

/-- A range shares a byte with the report ring, if one is set. -/
def hitsRing (s : State) (base size : Nat) : Bool :=
  match s.rpu.ring with
  | some r => overlaps base size r Config.ringBytes
  | none => false

/-! ### The cell port (section 1.3) -/

/-- The access is a merge. -/
def CellAcc.isMerge (a : CellAcc) : Bool :=
  match a.use with
  | .merge _ => true
  | _ => false

/-- The access is a merge whose outcome is still handed over (R30). -/
def CellAcc.isLive (a : CellAcc) : Bool :=
  match a.use with
  | .merge m => m.live
  | _ => false

/-- The access is a finish scan read. -/
def CellAcc.isScan (a : CellAcc) : Bool :=
  match a.use with
  | .scan => true
  | _ => false

/-- An access waits while an earlier one of the same bytes is not over and either is a merge (R4). -/
def blockedBy (earlier : List CellAcc) (a : CellAcc) : Bool :=
  earlier.any fun d => (d.isMerge || a.isMerge) && overlaps d.addr d.len a.addr a.len

/-- Requests the reads of the accesses that wait for none, in the order the port took them. -/
def pumpList : List CellAcc → List CellAcc → State → List CellAcc × State
  | ds, [], s => (ds, s)
  | ds, a :: as, s =>
    if a.stage == .waiting && !blockedBy ds a then
      pumpList (ds ++ [{ a with stage := .reading }]) as (requestM (.cellRead a.no) .cell false a.addr a.len [] s)
    else pumpList (ds ++ [a]) as s

/-- Replaces the cell port's accesses. -/
def setPort (p : List CellAcc) (s : State) : State := s.setMge { s.mge with port := p }

/-- Requests every cell-port read that waits for no earlier access. -/
def pumpPort (s : State) : State :=
  let r := pumpList [] s.mge.port s
  setPort r.1 r.2

/-- The cell port takes an access (R4), numbered afresh. -/
def beginAccess (use : CellUse) (addr len : Nat) (s : State) : State :=
  pumpPort (setPort (s.mge.port ++ [{ no := s.serial, addr := addr, len := len, use := use, stage := .waiting }])
    (s.setSerial (s.serial + 1)))

/-- The cell-port access of a number. -/
def access? (no : Nat) (s : State) : Option CellAcc := s.mge.port.find? fun a => a.no == no

/-- An access is over; those held behind it go on (R4). -/
def endAccess (no : Nat) (s : State) : State :=
  pumpPort (setPort (s.mge.port.filter fun a => a.no != no) s)

/-- Every merge that has begun goes on unhanded (R30). -/
def unhandMerges (s : State) : State :=
  setPort (s.mge.port.map fun a =>
    match a.use with
    | .merge m => { a with use := .merge { m with live := false } }
    | _ => a) s

/-- Some merge of the attempt has not ended (R28, R41). -/
def liveMerges (s : State) : Bool := s.mge.port.any CellAcc.isLive

/-- A transaction is a read of the finish scan. -/
def isScanRead (port : List CellAcc) (t : MTxn) : Bool :=
  match t.kind with
  | .cellRead n => port.any fun a => a.no == n && a.isScan
  | _ => false

/-- A transaction is a clearing-sweep burst. -/
def isSweep (t : MTxn) : Bool := t.kind == .sweep

end Sys2Proof.Machine
end

