-- ==== Sys2Proof/Machine/Operands.lean ====
section
/-! DEFINITION. The operand forms: the arguments of a command slot, the window an
address falls in, and the samples and bytes a write beat carries. -/
namespace Sys2Proof.Machine

/-! ### Command arguments (Table 11-5, R185) -/

/-- The argument field of `n` bytes at slot offset `off` (12 or above), whole and unmasked (R185). -/
def Taken.arg (t : Taken) (off n : Nat) : Nat := field t.args (off - 12) n

/-! ### Windows (R156) -/

/-- The number of the window in use an address falls in; windows do not overlap, so at most one does. -/
def windowAt (s : State) (a : Nat) : Option (Fin 16) :=
  sixteen.find? fun i =>
    match vget s.wmu.windows i with
    | some w => decide (w.base ≤ a) && decide (a < w.base + w.size)
    | none => false

/-- The window a transaction falls in, by its address. -/
def windowOf (s : State) (h : TxnHdr) : Option Win :=
  match windowAt s h.addr.toNat with
  | some i => vget s.wmu.windows i
  | none => none

/-- A read of a RESULT window bound to slot `i` is rendered (R107): ACTIVE mode, and the slot holds a PLATE job
in ACTIVE, FINISHING or DONE. DESIGN CHOICE (log 43): a read of an ACTIVE slot whose end is due is still rendered until the
end is taken; R65 has the slot still in its former state, and the job left ACTIVE in every respect but its reported state. -/
def renders (s : State) (i : Fin 4) : Bool :=
  let x := vget s.slots i
  s.wmu.mode == .active &&
  (match x.job with | some j => j.kind == .plate | none => false) &&
  (x.state == .active || x.state == .finishing || x.state == .done)

/-- Capture beats are taken for capture: ACTIVE mode and a slot ACTIVE (Table 9-2). -/
def capturing (s : State) : Bool := s.wmu.mode == .active && (activeSlot s).isSome

/-- Monitor beats are looked at: RUN and ACTIVE mode (R127). -/
def lookedAt (s : State) : Bool := s.device == .run && s.wmu.mode == .active

/-- A read is pass-through traffic at its take (Table 9-2). -/
def readPasses (s : State) (h : TxnHdr) : Bool :=
  match windowOf s h with
  | some { kind := .result i _, base := _, size := _ } => !renders s i
  | _ => true

/-- A write all of whose beats are taken now is pass-through traffic (Table 9-2). -/
def writePasses (s : State) (h : TxnHdr) : Bool :=
  match windowOf s h with
  | none => true
  | some w =>
    match w.kind with
    | .command => false
    | .capture => !capturing s
    | .result _ _ => true
    | .monitor .. => !lookedAt s

/-! ### The contents of write beats (R32, R127, R157) -/

/-- Both strobes of container `i` are set. -/
def bothStrobed (w : WData) (i : Nat) : Bool := w.strb.getLsbD (2 * i) && w.strb.getLsbD (2 * i + 1)

/-- Some strobe of container `i` is set. -/
def someStrobed (w : WData) (i : Nat) : Bool := w.strb.getLsbD (2 * i) || w.strb.getLsbD (2 * i + 1)

/-- The samples and partial samples a captured beat at offset `off` of its window yields (R32). -/
def captureSamples (off : Nat) (w : WData) : List Sample :=
  (List.range 8).filterMap fun i =>
    if bothStrobed w i then some { part := false, idx := off / 2 + i, raw := container w.data i }
    else if someStrobed w i then some { part := true, idx := off / 2 + i, raw := container w.data i }
    else none

/-- The samples of a looked-at monitor beat, as index and raw value (R127, R128). -/
def monitorSamples (off : Nat) (w : WData) : List (Nat × Nat) :=
  (List.range 8).filterMap fun i =>
    if bothStrobed w i then some (off / 2 + i, rawValue (container w.data i)) else none

/-- The strobed bytes of a beat at offset `off`, each with its offset (R157). -/
def strobedBytes (off : Nat) (w : WData) : List (Nat × Byte) :=
  (List.range 16).filterMap fun i =>
    if w.strb.getLsbD i then some (off + i, w.data.extractLsb' (8 * i) 8) else none

/-- The part's own error code for S-port transaction `no` (R148, R111; the code is a free value, log 10). -/
def partError (no : Nat) : Resp := if Config.partErrorIsDecErr no then .decerr else .slverr

end Sys2Proof.Machine
end

