-- ==== Sys2Proof/Machine/Intake.lean ====
section
/-! DEFINITION. The command intake: the shadow, issuing and withdrawing, choosing and taking a slot, and the
status writes (chapter 10.1 to 10.3, R188). -/
namespace Sys2Proof.Machine

/-! ### Hand-over (R157, R165 to R167, R180, R188) -/

/-- Page offset of the REPORT_TAIL word (Table 11-6). -/
def tailOffset : Nat := 0x204

/-- An offset lies in the shadow: the eight slots and the REPORT_TAIL word (R165). -/
def inShadow (off : Nat) : Bool := decide (off < 512) || (decide (tailOffset ≤ off) && decide (off < tailOffset + 4))

/-- An offset lies in the REPORT_TAIL word. -/
def inTailWord (off : Nat) : Bool := decide (tailOffset ≤ off) && decide (off < tailOffset + 4)

/-- Replaces the intake's shadow. -/
def setShadow (m : Sparse) (s : State) : State := s.setCin { s.cin with shadow := m }

/-- The shadow after handed bytes, each replacing the byte at its offset, in order (R165). -/
def shadowAfter (m : Sparse) : List (Nat × Byte) → Sparse
  | [] => m
  | (off, b) :: bs => shadowAfter (if inShadow off then sput m off b.toNat else m) bs

/-- `n` bytes of the shadow from offset `off`. -/
def shadowBytes (m : Sparse) (off n : Nat) : List Byte :=
  (List.range n).map fun i => BitVec.ofNat 8 (sget m (off + i))

/-- TAIL as the shadowed word gives it (R180). -/
def tailOf (m : Sparse) : Nat := leNat (shadowBytes m tailOffset 4) % Config.ringRecords

/-- A command slot's standing. -/
def cmdSlot (s : State) (n : Fin 8) : CmdSlot := vget s.cin.slots n

/-- Replaces a command slot's standing. -/
def putCmdSlot (n : Fin 8) (x : CmdSlot) (s : State) : State :=
  s.setCin { s.cin with slots := vput s.cin.slots n x }

/-! ### Choosing (R168) -/

/-- CODE of a slot in the shadow. -/
def codeOf (s : State) (n : Fin 8) : Nat := leNat (shadowBytes s.cin.shadow (64 * n.1 + 8) 2)

/-- The command a slot's shadow CODE names, if any. -/
def cmdOf (s : State) (n : Fin 8) : Option Cmd := Cmd.ofCode (codeOf s n)

/-- CODE, TAG and ARGS of a slot as the shadow holds them (R168). -/
def takenOf (s : State) (n : Fin 8) : Taken :=
  { slot := n, code := codeOf s n, tag := leNat (shadowBytes s.cin.shadow (64 * n.1 + 10) 2),
    args := shadowBytes s.cin.shadow (64 * n.1 + 12) 52 }

/-- The chosen slot: the oldest queued whose CODE is RESET_PART, else the oldest queued (R168). -/
def chosen (s : State) : Option (Fin 8) :=
  match s.cin.queue.find? fun n => cmdOf s n == some .resetPart with
  | some n => some n
  | none => s.cin.queue.head?

/-- Report room a command's take needs (R168). -/
def roomFor : Option Cmd → Nat
  | some .abortJob => 1
  | some .hold => 1
  | some .snapshot => 1
  | _ => 0

/-- The commands that may be taken while a LOAD_JOB awaits its record (R168). -/
def besideLoad : Option Cmd → Bool
  | some .snapshot => true
  | some .abortJob => true
  | some .releaseJob => true
  | _ => false

/-- A queued slot may be taken now (R168), save for report room. -/
def idleFor (s : State) (n : Fin 8) : Bool :=
  match s.cin.long with
  | none => true
  | some (.loadJob _ _) =>
    cmdOf s n == some .resetPart || (besideLoad (cmdOf s n) && s.cin.queue.head? == some n)
  | some _ => false

/-- The slot whose take meets the three conditions of R168 as they stand, if any. -/
def takable (s : State) : Option (Fin 8) :=
  match chosen s with
  | some n => if idleFor s n && decide (roomFor (cmdOf s n) ≤ s.free) then some n else none
  | none => none

/-- An event of R168: a take is due when its conditions are met now. -/
def takeEvent (s : State) : State := s.setCin { s.cin with takeDue := (takable s).isSome }

/-- The slot the intake takes now, if any (R168): a take that an event has made due, its conditions met still. -/
def takes (s : State) : Option (Fin 8) := if s.cin.takeDue then takable s else none

/-- The chosen command waits only for report room: it counts as a due event transition (R176). -/
def commandWaits (s : State) : Bool :=
  match chosen s with
  | some n => idleFor s n && decide (s.free < roomFor (cmdOf s n))
  | none => false

/-! ### Issuing and withdrawing (R166, R167) -/

/-- ISSUED handed for a slot (R166): appended unless it is queued or open. -/
def issueSlot (n : Fin 8) (s : State) : State :=
  if s.cin.queue.contains n || (cmdSlot s n).opened then s
  else s.setCin { s.cin with queue := s.cin.queue ++ [n] }

/-- WITHDRAWN handed for a slot (R167): a queued slot leaves the queue, an open one's DONE carries LATE_WITHDRAW. -/
def withdrawSlot (n : Fin 8) (s : State) : State :=
  if s.cin.queue.contains n then s.setCin { s.cin with queue := s.cin.queue.filter fun m => m != n }
  else if (cmdSlot s n).opened then putCmdSlot n { cmdSlot s n with late := true } s
  else s

/-- A handed byte is judged where it is the first byte of a slot's STATE (R166, R167); ISSUED and WITHDRAWN are events of
R168, whatever they changed. -/
def judgeByte (off : Nat) (b : Byte) (s : State) : State :=
  if h : off / 64 < 8 then
    if off % 64 = 0 then
      if b = 1 then takeEvent (issueSlot ⟨off / 64, h⟩ s)
      else if b = 3 then takeEvent (withdrawSlot ⟨off / 64, h⟩ s)
      else s
    else s
  else s

/-- Each handed byte judged, in order. -/
def judgeBytes : List (Nat × Byte) → State → State
  | [], s => s
  | (off, b) :: bs, s => judgeBytes bs (judgeByte off b s)

/-- TAIL set afresh when a byte of its word was handed (R180). -/
def tailAfter (bs : List (Nat × Byte)) (s : State) : State :=
  if bs.any fun p => inTailWord p.1 then s.setRpu { s.rpu with tail := tailOf s.cin.shadow } else s

/-- The bytes of one beat are handed together (R157): all go into the shadow first, and then STATE bytes are
judged (R188) and TAIL is set (R180). -/
def handBytes (bs : List (Nat × Byte)) (s : State) : State :=
  judgeBytes bs (tailAfter bs (setShadow (shadowAfter s.cin.shadow bs) s))

/-! ### The take (R168) -/

/-- The take (R168): the slot leaves the queue and becomes open, and its TAKEN write is requested. No take is due any more;
the completion, or a LOAD_JOB's entry into execution, judges the next. -/
def openSlot (n : Fin 8) (s : State) : State :=
  requestTaken n
    (putCmdSlot n { opened := true, late := false, takenWait := true }
      (s.setCin { s.cin with queue := s.cin.queue.filter (fun m => m != n), takeDue := false }))

/-! ### Completing (R169, R170) -/

/-- Requests the DONE writes whose slot's TAKEN write has been answered and which follow no other (R169, R174): a DONE write takes
its place in the NOTE queue then, not at its command's completion (DESIGN CHOICE, log 54). -/
def pumpWaits : List DoneWait → List DoneWait → State → List DoneWait × State
  | kept, [], s => (kept, s)
  | kept, d :: ds, s =>
    if (cmdSlot s d.slot).takenWait || kept.any (fun e => d.after.contains e.slot) then
      pumpWaits (kept ++ [d]) ds s
    else pumpWaits kept ds (requestDone d.slot d.res s)

/-- Replaces the DONE writes not yet requested. -/
def setWaits (w : List DoneWait) (s : State) : State := s.setCin { s.cin with waits := w }

/-- Requests every DONE write that may be. -/
def pumpDone (s : State) : State :=
  let r := pumpWaits [] s.cin.waits s
  setWaits r.1 r.2

/-- A command completes with a result (R169): its DONE write is requested once its TAKEN write is answered, and the next take
may be due (R168). -/
def complete (n : Fin 8) (res : Result) (s : State) : State :=
  takeEvent (pumpDone (setWaits (s.cin.waits ++ [{ slot := n, res := res, after := [] }]) s))

/-- Replaces the command in execution across later events (R169). -/
def setLong (l : Option LongOp) (s : State) : State := s.setCin { s.cin with long := l }

/-- A HOLD command is in execution (R59). -/
def holdRunning (s : State) : Bool :=
  match s.cin.long with
  | some (.hold _) => true
  | _ => false

/-! ### Meanings -/

/-- The response to a TAKEN write (R170): the slot's DONE write may go. -/
def execTakenWriteResponse (txn : Nat) (r : Resp) (s : State) : Host.Outcome State Fault Refusal :=
  match grantedKind txn s with
  | some (.taken n) =>
    let s := noteErr r (answered txn s)
    .next (pumpDone (putCmdSlot n { cmdSlot s n with takenWait := false } s))
  | _ => .next s

/-- The response to a DONE write (R169, R170): the slot closes, whatever the response. -/
def execDoneWriteResponse (txn : Nat) (r : Resp) (s : State) : Host.Outcome State Fault Refusal :=
  match grantedKind txn s with
  | some (.done n _ _) =>
    .next (putCmdSlot n CmdSlot.closed (noteErr r (answered txn s)))
  | _ => .next s

end Sys2Proof.Machine
end

