-- ==== Sys2Proof/Machine/Scheduler.lean ====
section
/-! DEFINITION. The job scheduler and the area table's sweep: start decisions, the STARTING checks, the ways a
job ends, and HOLD entry (chapters 1.6 to 1.8, 4.4 to 4.8, 8.4). -/
namespace Sys2Proof.Machine

/-! ### The clearing sweep (R11 to R13) -/

/-- Bytes of a sweep burst (R11). -/
def sweepBurst : Nat := 256

/-- Requests sweep burst `n` of an area: 256 zero bytes (R11). -/
def requestSweep (a : Area) (n : Nat) (s : State) : State :=
  requestM .sweep .bulk true (a.base + sweepBurst * n) sweepBurst (List.replicate sweepBurst 0) s

/-- Some merge that has begun has its cell in an area (R11). -/
def mergeInArea (s : State) (a : Area) : Bool :=
  s.mge.port.any fun x => x.isMerge && overlaps x.addr x.len a.base a.size

/-- Replaces the sweep in progress. -/
def setSweep (w : Option Sweep) (s : State) : State := s.setAtb { s.atb with sweep := w }

/-- A sweep requests its first burst once every merge of a cell in its area has ended (R11). -/
def sweepKick (s : State) : State :=
  match s.atb.sweep with
  | some w =>
    let a := vget s.atb.areas w.area
    if w.requested = 0 ∧ mergeInArea s a = false then
      setSweep (some { w with requested := 1 }) (requestSweep a 0 s)
    else s
  | none => s

/-- The area of a sweep that did not complete: NEEDS_CLEAR, its generation not meaningful (R12, R13). R12 and R13 give it no value,
and Table 1-2 only that it is reported as 0: the field holds 0 (DESIGN CHOICE, log 50). -/
def Area.unswept (a : Area) : Area := { a with state := .needsClear, gen := 0 }

/-- A sweep in progress ends without completing (R12, R13): no further bursts, the area NEEDS_CLEAR, and the
responses outstanding absorbed. -/
def stopSweep (s : State) : State :=
  match s.atb.sweep with
  | some w => setSweep none (stopIssuer isSweep (putArea w.area (vget s.atb.areas w.area).unswept s))
  | none => s

/-! ### Start decisions (R59 to R61) -/

/-- No other slot owns the area (R59). -/
def areaFreeFor (i : Fin 4) (a : Area) : Bool := a.owner == none || a.owner == some i

/-- The lamp condition of Table 4-4: STEADY, and for GUARD_MS under GUARDED (R61). -/
def lampAllows (s : State) : Bool :=
  s.lamp.state == .steady && (levelOf s.cec.value != .guarded || s.lamp.steady.held)

/-- The conditions of Table 4-4 that depend on the job's kind. -/
def kindAllows (s : State) (i : Fin 4) (j : JobRecord) : Bool :=
  match j.kind with
  | .plate => s.pdt.presence == .present && (vget s.fst.banks j.bankNo).state == .valid &&
      areaFreeFor i (vget s.atb.areas j.areaNo)
  | .flat => s.pdt.presence == .absent

/-- Slot `i` is PENDING and eligible to start (R59). -/
def eligible (s : State) (i : Fin 4) : Bool :=
  let x := vget s.slots i
  x.state == .pending && s.device == .run && !holdRunning s && levelOf s.cec.value != .halted &&
  (busySlot s).isNone && lampAllows s && decide (1 ≤ s.free) &&
  (match x.job with | some j => kindAllows s i j | none => false)

/-- PRIO of the slot's job. -/
def prioOf (s : State) (i : Fin 4) : Nat :=
  match (vget s.slots i).job with
  | some j => j.prio
  | none => 0

/-- Among slots in ascending number, the eligible one of lowest PRIO, the lowest number first (R60). -/
def pickStart (s : State) : List (Fin 4) → Option (Fin 4)
  | [] => none
  | i :: is =>
    match pickStart s is with
    | none => if eligible s i then some i else none
    | some j => if eligible s i && decide (prioOf s i ≤ prioOf s j) then some i else some j

/-! ### Ends that are due (R65) -/

/-- A failure or abort of a job: counts 0, flags clear, and the programmed range (R65). -/
def JobEnd.without (o : JobOutcome) (r : EndReason) (j : JobRecord) : JobEnd :=
  { outcome := o, reason := r, counts := Counts.zero, kept := false, dlo := j.dlo, dhi := j.dhi }

/-- A job end becomes due, unless one already is (R65). -/
def endDueAt (i : Fin 4) (e : JobEnd) (s : State) : State :=
  let x := vget s.slots i
  if x.endDue.isSome then s else putSlot i { x with endDue := some e, startDue := false } s

/-- A failure of the job in slot `i` becomes due. -/
def failDue (i : Fin 4) (r : EndReason) (s : State) : State :=
  match (vget s.slots i).job with
  | some j => endDueAt i (JobEnd.without .failed r j) s
  | none => s

/-! ### STARTING (R10, R62, R63) -/

/-- A PLATE job has its generation: it records the bank's OPEN, and its ACTIVE transition is due (R62, R64). -/
def tookGeneration (i : Fin 4) (gen : Nat) (s : State) : State :=
  let x := vget s.slots i
  match x.job with
  | some j => putSlot i { x with gen := gen, opn := (vget s.fst.banks j.bankNo).opn, startDue := true } s
  | none => s

/-- The generation step (R10): increment a READY area below 255, else sweep. -/
def generationStep (i : Fin 4) (n : Fin 4) (s : State) : State :=
  let a := vget s.atb.areas n
  if a.state = .ready ∧ a.gen < 255 then tookGeneration i (a.gen + 1) (putArea n { a with gen := a.gen + 1 } s)
  else sweepKick (setSweep (some { slot := i, area := n, requested := 0 }) s)

/-- A PLATE slot's STARTING checks in order (R62). -/
def plateStarting (i : Fin 4) (j : JobRecord) (s : State) : State :=
  let a := vget s.atb.areas j.areaNo
  let b := vget s.fst.banks j.bankNo
  let s := putArea j.areaNo { a with owner := some i } s
  if a.state = .undefined ∨ a.size < 8 * j.pixels then failDue i .areaSize s
  else if b.tw ≠ tilesOf j.w ∨ b.th ≠ tilesOf j.h then failDue i .flatMismatch s
  else generationStep i j.areaNo s

/-- A FLAT slot's STARTING (R63): its bank BUILDING, every flat sum and count 0, no generation. R77 gives a BUILDING bank only the
gains in progress: until the second pass has ended its TW, TH, T and OPEN are 0 and its gains empty (DESIGN CHOICE, log 48).
The slot's OPEN field, which a FLAT job never holds, stands (DESIGN CHOICE, log 51). -/
def flatStarting (i : Fin 4) (j : JobRecord) (s : State) : State :=
  let s := putBank j.bankNo { Bank.invalid with state := .building } s
  let s := s.setTsa { s.tsa with flatSum := [], flatCount := [] }
  putSlot i { vget s.slots i with gen := 0, startDue := true } s

/-- The chosen slot enters STARTING (R60, R62, R63). -/
def enterStarting (i : Fin 4) (s : State) : State :=
  let x := vget s.slots i
  let s := putSlot i { x with state := .starting } s
  match x.job with
  | some j =>
    match j.kind with
    | .plate => plateStarting i j s
    | .flat => flatStarting i j s
  | none => s

/-- A start decision (R60): the eligible slot of lowest PRIO, then lowest number, enters STARTING. -/
def startDecision (s : State) : State :=
  match pickStart s four with
  | some i => enterStarting i s
  | none => s

/-! ### The counter's value (R138 to R141) -/

/-- The counter takes a value; a change of level sets CEC_LEVEL and is a start decision event (R141). -/
def setCecValue (v : Nat) (s : State) : State :=
  let s' := s.setCec { s.cec with value := v }
  if levelOf v = levelOf s.cec.value then s' else startDecision (setFlag .cecLevel s')

/-- A positive score (R140): beyond 255 the value becomes 256. -/
def scoreUp (n : Nat) (s : State) : State :=
  setCecValue (if 255 < s.cec.value + n then 256 else s.cec.value + n) s

/-- The score of a clean close (R139): -1, or 0 at 0. -/
def scoreDown (s : State) : State := setCecValue (s.cec.value - 1) s

/-! ### Leaving states (R13, R30, R51, R68, R99) -/

/-- The attempt in progress, and an attempt end that is due, are dropped: the pixel queue is discarded, and merges
that have begun go on unhanded (R30, R51). The attempt state is WAITING (log 20), and the other items of the attempt keep
their values (DESIGN CHOICE, log 52). -/
def dropAttempt (s : State) : State :=
  unhandMerges (s.setMge { s.mge with pixels := [], seq := { s.mge.seq with att := .waiting, endDue := none } })

/-- A finish scan in progress stops: its reads are withdrawn or absorbed and its counts discarded (R99). -/
def stopScan (s : State) : State :=
  let s := stopIssuer (isScanRead s.mge.port) s
  pumpPort (setPort (s.mge.port.filter fun a => !a.isScan) (s.setScan Scan.idle))

/-- Both finishings stop, their partial results discarded (soft reset: R74, R94). -/
def stopFinishing (s : State) : State := (stopScan s).setFst { (stopScan s).fst with comp := none }

/-- What ends with a slot's state when its job is ended from outside (R13, R30, R51, R68). A FLAT job uses no scan
(section 6.1), so its abort leaves the counts of the last completed scan held (R94). -/
def leaveState (x : SlotState) (k : JobKind) (s : State) : State :=
  match x with
  | .starting => stopSweep s
  | .active => dropAttempt s
  | .finishing =>
    match k with
    | .plate => stopScan s
    | .flat => s.setFst { s.fst with comp := none }
  | _ => s

/-! ### The end of a job (R65) -/

/-- The slot state of an outcome. -/
def JobOutcome.slotState : JobOutcome → SlotState
  | .done => .done
  | .failed => .failed
  | .aborted => .aborted

/-- The bank of a FLAT job at its end (R65, R85, R86): VALID after DONE, INVALID otherwise. -/
def bankAtEnd (j : JobRecord) (o : JobOutcome) (s : State) : State :=
  match j.kind with
  | .plate => s
  | .flat =>
    match o with
    | .done => putBank j.bankNo { vget s.fst.banks j.bankNo with state := .valid } s
    | _ => putBank j.bankNo Bank.invalid s

/-- The JOB_ENDED report of a slot (R65, R187). -/
def pushEnded (i : Fin 4) (j : JobRecord) (e : JobEnd) (s : State) : State :=
  pushReport i.1 j.tag (.jobEnded e.outcome e.reason e.kept j.kind e.dlo e.dhi e.counts) s

/-- The slot after its end: the outcome recorded, the range in force the end's (R65, R104). -/
def JobSlot.endedAs (x : JobSlot) (e : JobEnd) : JobSlot :=
  { x with state := e.outcome.slotState, ended := some e, dlo := e.dlo, dhi := e.dhi, startDue := false, endDue := none }

/-- A job's entry to DONE, FAILED or ABORTED (R65): the report, the slot, the sequencer's timers and the bank of a
job that had left PENDING, and a start decision. -/
def endJob (i : Fin 4) (e : JobEnd) (s : State) : State :=
  let x := vget s.slots i
  match x.job with
  | some j =>
    let s := putSlot i (x.endedAs e) (pushEnded i j e s)
    startDecision (if x.state.busy then bankAtEnd j e.outcome (putSeq Seq.idle s) else s)
  | none => s

/-- A job is ended ABORTED from the state its slot is in (R68, R72). -/
def abortSlot (i : Fin 4) (r : EndReason) (s : State) : State :=
  let x := vget s.slots i
  match x.job with
  | some j => endJob i (JobEnd.without .aborted r j) (leaveState x.state j.kind s)
  | none => s

/-! ### HOLD entry (R72, R134, R145, R172) -/

/-- The monitors and the counter at HOLD entry (R134, R145). -/
def monitorsHold (s : State) : State :=
  let s := if s.lamp.state = .offline then s else setFlag .lamp s
  let s := if s.pdt.presence = .unknown then s else setFlag .presence s
  let s := s.setLamp (Lamp.off s.lamp.cfg)
  let s := s.setPdt Pdt.off
  s.setCec { s.cec with armed := false }

/-- The active job at HOLD entry (R72): a due job end is taken; else a STARTING or ACTIVE job is aborted. -/
def jobsHold (s : State) : State :=
  match busySlot s with
  | some i =>
    match (vget s.slots i).endDue with
    | some e => endJob i e s
    | none => abortSlot i .hold s
  | none => s

/-- HOLD entry (R72, R134, R145, R172). -/
def holdEntry (s : State) : State := (monitorsHold (jobsHold s)).setDevice .hold

/-- HOLD entry is made and the HOLD command completes (R172). -/
def finishHold (n : Fin 8) (s : State) : State := complete n .ok (setLong none (holdEntry s))

/-- After a job's end: a HOLD that waited for it makes HOLD entry (R72). -/
def holdAfterEnd (s : State) : State :=
  match s.cin.long with
  | some (.hold n) => if (busySlot s).isNone then finishHold n s else s
  | _ => s

/-! ### Meanings -/

/-- The due ACTIVE transition (R64, R31): taken with a free report entry. -/
def execJobStarted (s : State) : Host.Outcome State Fault Refusal :=
  match busySlot s with
  | some i =>
    let x := vget s.slots i
    match x.job with
    | some j =>
      if x.state = .starting ∧ x.startDue = true ∧ x.endDue = none ∧ 1 ≤ s.free then
        let depth := match j.dmode with | .fixed => j.depth | .ladder => 0
        let s := pushReport i.1 j.tag (.jobStarted x.gen depth) s
        let s := putSlot i { x with state := .active, startDue := false } s
        .next (putSeq { Seq.idle with
          depth := (match j.dmode with | .fixed => some j.depth | .ladder => none),
          wait := Timer.startAt s.time j.expWaitMs } s)
      else .next s
    | none => .next s
  | none => .next s

/-- A due job end (R65): taken with a free report entry; a waiting HOLD then makes HOLD entry (R72). -/
def execJobEnded (s : State) : Host.Outcome State Fault Refusal :=
  match busySlot s with
  | some i =>
    match (vget s.slots i).endDue with
    | some e => if 1 ≤ s.free then .next (holdAfterEnd (endJob i e s)) else .next s
    | none => .next s
  | none => .next s

/-- The response to a clearing-sweep burst (R11, R12). -/
def execSweepBurstResponse (txn : Nat) (r : Resp) (s : State) : Host.Outcome State Fault Refusal :=
  match grantedKind txn s, s.atb.sweep with
  | some .sweep, some w =>
    let s := answered txn s
    let a := vget s.atb.areas w.area
    if respErr r then .next (failDue w.slot .areaFault (stopSweep (setLatch .memerrSeen s)))
    else if a.size ≤ sweepBurst * w.requested ∧ s.mpa.has isSweep = false then
      .next (tookGeneration w.slot 1 (putArea w.area { a with state := .ready, gen := 1 } (setSweep none s)))
    else .next s
  | _, _ => .next s

/-- The guard time (R61): the lamp has been STEADY for GUARD_MS, a start decision event (R60). -/
def execGuardTime (s : State) : Host.Outcome State Fault Refusal :=
  if s.lamp.state = .steady ∧ s.lamp.guardDue = true then
    .next (startDecision (s.setLamp { s.lamp with guardDue := false }))
  else .next s

end Sys2Proof.Machine
end

