-- ==== Sys2Proof/Machine/Finish.lean ====
section
/-! DEFINITION. Finishing: the finish scan of a PLATE job and the gain computation of a FLAT job (sections 5.4,
6.1 to 6.3, R66). -/
namespace Sys2Proof.Machine

/-! ### The finish scan (R94 to R98) -/

/-- Bytes of the next burst from address `a` with `left` bytes to go: at most 16 beats, none past a 4 KiB
boundary (R89, R91, R95). -/
def burstLen (a left : Nat) : Nat := min (min 256 (4096 - a % 4096)) left

/-- The area base of a job (R1). -/
def areaBaseOf (s : State) (j : JobRecord) : Nat := (vget s.atb.areas j.areaNo).base

/-- The next scan burst is requested, if the scan is in progress and a cell is left (R95). The next cell of Table 6-1 is past the
burst, and its read outstanding, from this request on, not from its grant (DESIGN CHOICE, log 53). -/
def scanRequest (s : State) : State :=
  match s.scan.scanning, (vget s.slots s.scan.slot).job with
  | true, some j =>
    if s.scan.next < j.pixels then
      let a := areaBaseOf s j + 8 * s.scan.next
      let n := burstLen a (8 * (j.pixels - s.scan.next))
      beginAccess .scan a n (s.setScan { s.scan with next := s.scan.next + n / 8 })
    else s
  | _, _ => s

/-- The scan's counts with an unreadable beat's two cells (R97). -/
def Scan.unreadable (c : Scan) : Scan := { c with nUnread := c.nUnread + 2 }

/-- A judged cell with data: NUSE of at least 1, or a clip flag (Table 6-2). -/
def Cell.hasData (c : Cell) : Bool := decide (0 < c.nuse) || c.clipHi || c.clipLo

/-- The scan's counts and histogram after a judged cell (R96, R102). -/
def Scan.count (c : Scan) (auto : Bool) (opn : Nat) (j : Option Cell) : Scan :=
  match j with
  | none => { c with nNodata := c.nNodata + 1 }
  | some x =>
    if x.hasData then
      let bin := (density (some x) opn).getD 0 / 16
      { c with nData := c.nData + 1,
               nGap := c.nGap + (decide (x.nuse = 0)).toNat,
               nReject := c.nReject + x.reject.toNat,
               nRetake := c.nRetake + x.retake.toNat,
               hist := if auto then sput c.hist bin (sget c.hist bin + 1) else c.hist }
    else { c with nNodata := c.nNodata + 1 }

/-- The scan after one beat: two unreadable cells, or two cells judged and counted (R96, R97). -/
def Scan.beat (c : Scan) (auto : Bool) (gen opn : Nat) (d : RData) : Scan :=
  if respErr d.resp then c.unreadable
  else
    (c.count auto opn (judge (Cell.ofWord (cellWord 0 d.data)) gen none)).count auto opn
      (judge (Cell.ofWord (cellWord 8 d.data)) gen none)

/-- The scan after the beats of a response. -/
def Scan.beats (c : Scan) (auto : Bool) (gen opn : Nat) : List RData → Scan
  | [] => c
  | d :: ds => (c.beat auto gen opn d).beats auto gen opn ds

/-- The range a completed scan leaves (R103, R104). -/
def scanRange (j : JobRecord) (c : Scan) : Nat × Nat :=
  if j.range = .auto ∧ 0 < c.nData then autoRange c.hist c.nData j.plo j.phi else (j.dlo, j.dhi)

/-- The DONE end of a completed scan (R98). -/
def scanEnd (j : JobRecord) (c : Scan) : JobEnd :=
  { outcome := .done, reason := .none,
    counts := { c0 := c.nData, c1 := c.nGap, c2 := c.nReject, c3 := c.nRetake, c4 := c.nNodata, c5 := c.nUnread },
    kept := decide (j.range = .auto ∧ c.nData = 0),
    dlo := (scanRange j c).1, dhi := (scanRange j c).2 }

/-- The scan completes when every read has been issued and answered (R98): the DONE end becomes due. R94 has the counts and
the histogram held then and says nothing of the scan's slot and next cell: both keep their last values (DESIGN CHOICE, log
45). -/
def scanComplete (j : JobRecord) (s : State) : State :=
  if s.scan.next = j.pixels ∧ s.mge.port.any CellAcc.isScan = false then
    endDueAt s.scan.slot (scanEnd j s.scan) (s.setScan { s.scan with scanning := false })
  else s

/-! ### Entry to FINISHING (R66) -/

/-- Slot `i` enters FINISHING: the pixel queue is discarded (R47), and the finishing begins (R66, R94). -/
def enterFinishing (i : Fin 4) (j : JobRecord) (s : State) : State :=
  let s := putSlot i { vget s.slots i with state := .finishing } s
  let s := s.setMge { s.mge with pixels := [], seq := Seq.idle }
  match j.kind with
  | .plate => scanRequest (s.setScan { Scan.idle with scanning := true, slot := i })
  | .flat => s.setFst { s.fst with comp := some .first }

/-! ### The gain computation (R82 to R85) -/

/-- The FINISHING slot of a FLAT job with no end due. -/
def flatFinishing (s : State) : Option (Fin 4 × JobRecord) :=
  match busySlot s with
  | some i =>
    let x := vget s.slots i
    match x.job with
    | some j => if x.state = .finishing ∧ j.kind = .flat ∧ x.endDue = none then some (i, j) else none
    | none => none
  | none => none

/-- The bank the second pass leaves (R84), BUILDING until the DONE end is taken (R85). -/
def builtBank (j : JobRecord) (a : Tsa) (t : Nat) : Bank :=
  { state := .building, tw := tilesOf j.w, th := tilesOf j.h, t := t, opn := t / 32,
    gains := sputAll [] 0 (gainsFrom a t j.tiles 0) }

/-- The DONE end of a gain computation (R85, R187); its range is the record's (log 26). -/
def flatEnd (j : JobRecord) (a : Tsa) (t good bad : Nat) : JobEnd :=
  { outcome := .done, reason := .none,
    counts := { c0 := good, c1 := bad, c2 := clampedCount a t j.tiles, c3 := t, c4 := t / 32, c5 := 0 },
    kept := false, dlo := j.dlo, dhi := j.dhi }

/-! ### Meanings -/

/-- The response to a finish scan burst (R96 to R98). -/
def execFinishScanResponse (txn : Nat) (beats : List RData) (s : State) : Host.Outcome State Fault Refusal :=
  match grantedKind txn s with
  | some (.cellRead n) =>
    match access? n s with
    | some a =>
      let x := vget s.slots s.scan.slot
      match x.job with
      | some j =>
        if a.isScan ∧ 16 * beats.length = a.len then
          let s := memErr (anyErr beats) (answered txn s)
          let s := s.setScan (s.scan.beats (j.range == .auto) x.gen x.opn beats)
          .next (scanComplete j (endAccess n s))
        else .next s
      | none => .next s
    | none => .next s
  | _ => .next s

/-- The limit test, after the first pass of the gain computation (R82, R83). -/
def execLimitTest (s : State) : Host.Outcome State Fault Refusal :=
  match flatFinishing s, s.fst.comp with
  | some (i, j), some .first =>
    let p := firstPass s.tsa j.tiles
    let t := p.2 / p.1
    if p.1 = 0 ∨ t / 32 < 1024 then .next (failDue i .dim (s.setFst { s.fst with comp := none }))
    else .next (s.setFst { s.fst with comp := some (.second t p.1 (j.tiles - p.1)) })
  | _, _ => .next s

/-- The end of the second pass (R84, R85): the bank's contents are written and the DONE end is due. -/
def execGainComputationComplete (s : State) : Host.Outcome State Fault Refusal :=
  match flatFinishing s, s.fst.comp with
  | some (i, j), some (.second t good bad) =>
    let e := flatEnd j s.tsa t good bad
    let b := builtBank j s.tsa t
    .next (endDueAt i e (putBank j.bankNo b (s.setFst { s.fst with comp := none })))
  | _, _ => .next s

end Sys2Proof.Machine
end

