-- ==== Sys2Proof/Machine/Monitors.lean ====
section
/-! DEFINITION. The lamp monitor, the presence detector and the counter's recovery (chapter 7, sections 8.5). -/
namespace Sys2Proof.Machine

/-! ### Recovery (R125, R144) -/

/-- Recovery completes (R144): value 0, disarmed, recovery count 0, and the steps of R141. -/
def completeRecovery (s : State) : State :=
  let s := s.setLamp { s.lamp with recovery := 0 }
  setCecValue 0 (s.setCec { s.cec with armed := false })

/-- A usable measurement after which the lamp is STEADY counts while recovery is armed (R125); at 64 recovery
completes (R144). -/
def countRecovery (s : State) : State :=
  if s.cec.armed = true ∧ s.lamp.state = .steady then
    if Config.recoveryFull ≤ s.lamp.recovery + 1 then completeRecovery s
    else s.setLamp { s.lamp with recovery := s.lamp.recovery + 1 }
  else s

/-! ### Lamp states (R119 to R124) -/

/-- The lamp in SETTLING with a candidate (R119 to R121). -/
def Lamp.settleWith (l : Lamp) (lam : Nat) (now : Time) : Lamp :=
  { l with state := .settling, cand := some lam, settleCount := 1, settle := Timer.startAt now l.cfg.settleMs,
           base := none, guardDue := false }

/-- The lamp in DARK (R119). The times discarded with the state (R115) keep their fields, which nothing reads (log 44). -/
def Lamp.dark (l : Lamp) : Lamp :=
  { l with state := .dark, cand := none, settleCount := 0, base := none, guardDue := false }

/-- The lamp in SETTLING with no candidate (R122, R135). The times discarded with the state (R115) keep their fields, which
nothing reads (log 44). -/
def Lamp.unsettled (l : Lamp) : Lamp :=
  { l with state := .settling, cand := none, settleCount := 0, base := none, guardDue := false }

/-- The settle test (R120): with its count and its time the lamp enters STEADY at the candidate's level. -/
def Lamp.settleTest (l : Lamp) (now : Time) : Lamp :=
  if l.cfg.settleFrames ≤ l.settleCount ∧ l.settle.held = true then
    { l with state := .steady, base := l.cand, cand := none, settleCount := 0,
             steady := Timer.startAt now l.cfg.guardMs, last := Timer.startAt now l.cfg.staleMs, guardDue := false }
  else l

/-- A level at or above DARK_LEVEL in SETTLING acts on the candidate (R120), before the settle test. -/
def Lamp.candidate (l : Lamp) (lam : Nat) (now : Time) : Lamp :=
  match l.cand with
  | some c =>
    if inBand lam c l.cfg.band then { l with settleCount := min 64 (l.settleCount + 1) }
    else l.settleWith lam now
  | none => l.settleWith lam now

/-- A level at or above DARK_LEVEL in STEADY (R121). -/
def Lamp.steadyLevel (l : Lamp) (lam : Nat) (now : Time) : Lamp :=
  if inBand lam (l.base.getD 0) l.cfg.band then { l with last := Timer.startAt now l.cfg.staleMs }
  else (l.settleWith lam now).settleTest now

/-- The measurement is dark: DIM, or a level below DARK_LEVEL (R119). -/
def Meas.isDark (m : Meas) (darkLevel : Nat) : Bool :=
  match m with
  | .sat => false
  | .dim => true
  | .level lam => decide (lam < darkLevel)

/-- The lamp after a measurement (R119 to R121, R123). -/
def Lamp.measured (l : Lamp) (m : Meas) (now : Time) : Lamp :=
  match m with
  | .sat => l
  | .dim =>
    match l.state with
    | .settling => l.dark
    | .steady => l.dark
    | .dark => l
    | .offline => l
  | .level lam =>
    if lam < l.cfg.darkLevel then
      match l.state with
      | .settling => l.dark
      | .steady => l.dark
      | .dark => l
      | .offline => l
    else
      match l.state with
      | .dark => (l.settleWith lam now).settleTest now
      | .settling => (l.candidate lam now).settleTest now
      | .steady => l.steadyLevel lam now
      | .offline => l

/-- A measurement made the lamp leave STEADY (R124): the one that left it dark or out of band, even where the settle
test of R121 brought it back at once. -/
def Lamp.departs (l : Lamp) (m : Meas) : Bool :=
  l.state == .steady &&
  (match m with
   | .sat => false
   | .dim => true
   | .level lam => decide (lam < l.cfg.darkLevel) || !inBand lam (l.base.getD 0) l.cfg.band)

/-- A departure from STEADY sets the latch and the recovery count to 0 (R124). -/
def departure (s : State) : State :=
  let s := setLatch .lampLeftSteady s
  s.setLamp { s.lamp with recovery := 0 }

/-- A change of lamp state sets the LAMP flag and is a start decision event (R124, R60). -/
def lampChanged (s : State) : State := startDecision (setFlag .lamp s)

/-- A measurement applied to the lamp state (R117): the state, the hand-overs of R124, then those of R125. -/
def applyMeas (m : Meas) (s : State) : State :=
  let l := s.lamp
  let gone := l.departs m
  let l' := l.measured m s.time
  let s := s.setLamp l'
  let s := if gone then departure s else s
  let s := if l'.state = l.state ∧ gone = false then s else lampChanged s
  match m with
  | .level _ => countRecovery s
  | _ => s

/-- Whether the lamp accepts an attempt after its measurement (R126). -/
def verdict (m : Meas) (s : State) : Bool :=
  match m with
  | .dim => false
  | _ => s.lamp.state == .steady

/-! ### Presence (R67, R131, R132) -/

/-- A presence change acts on the active job (R67). -/
def presenceActs (p : Presence) (s : State) : State :=
  match busySlot s with
  | some i =>
    let x := vget s.slots i
    match x.job with
    | some j =>
      if x.endDue.isSome || x.state == .finishing then s
      else
        match j.kind, p with
        | .plate, .absent => failDue i .plateGone (leaveState x.state j.kind s)
        | .flat, .present => failDue i .platePlaced (leaveState x.state j.kind s)
        | _, _ => s
    | none => s
  | none => s

/-- Presence changes (R132): the flag, the latch, the active job, and a start decision. -/
def changePresence (p : Presence) (s : State) : State :=
  let s := s.setPdt { s.pdt with presence := p, debounce := 0 }
  startDecision (presenceActs p (setLatch .presenceChanged (setFlag .presence s)))

/-- A vote (R131). -/
def voteFor (v : Presence) (s : State) : State :=
  let d := s.pdt
  if d.presence = v then s.setPdt { d with debounce := 0 }
  else if 0 < d.debounce ∧ d.dir = v then
    if 2 ≤ d.debounce then changePresence v s
    else s.setPdt { d with debounce := d.debounce + 1 }
  else s.setPdt { d with debounce := 1, dir := v }

/-! ### Monitor frames (R127 to R129) -/

/-- A window's totals. -/
def totalsOf (s : State) (i : Fin 16) : Totals := vget s.pdt.totals i

/-- Replaces a window's totals. -/
def putTotals (i : Fin 16) (t : Totals) (s : State) : State :=
  s.setPdt { s.pdt with totals := vput s.pdt.totals i t }

/-- The pixel of a sample is in the centre region (R128). -/
def inCentre (w h r i : Nat) : Bool :=
  let x := i % w
  let y := i / w - r
  decide (w / 4 ≤ x) && decide (x < 3 * w / 4) && decide (h / 4 ≤ y) && decide (y < 3 * h / 4)

/-- The totals after a counted sample (R128). -/
def Totals.add (t : Totals) (p : Sensor) (w h r i v : Nat) : Totals :=
  let t := { t with count := t.count + 1 }
  if i < w * r then
    { t with refSum := t.refSum + v, refCount := t.refCount + 1, sat := t.sat || decide (p.s ≤ v) }
  else if inCentre w h r i then
    { t with cSum := t.cSum + (min v p.s - p.b), cCount := t.cCount + 1 }
  else t

/-- The lamp's part of a completed frame (R129, R117). -/
def frameLamp (e : Nat) (t : Totals) (s : State) : State :=
  applyMeas (measure s.mge.sensor t.refSum t.refCount t.sat e) s

/-- The presence detector's part of a completed frame (R129, R130). -/
def framePresence (t : Totals) (s : State) : State :=
  match presenceVote s.mge.sensor s.lamp.cfg.presLim t with
  | some v => voteFor v s
  | none => s

/-- A completed frame is evaluated (R129). The two judgements have no order between them: a free value chooses
(log 12). -/
def evaluateFrame (e : Nat) (t : Totals) (s : State) : State :=
  if t.refCount = 0 then s
  else
    let first := Config.lampBeforePresence s.freeIdx
    let s := s.setFreeIdx (s.freeIdx + 1)
    if first then framePresence t (frameLamp e t s) else frameLamp e t (framePresence t s)

/-- A looked-at sample of a MONITOR window (R128, R129). -/
def monitorSample (n : Fin 16) (w h r e : Nat) (iv : Nat × Nat) (s : State) : State :=
  let frame := w * (h + r)
  if frame ≤ iv.1 then s
  else
    let t := totalsOf s n
    let t := if iv.1 = 0 ∧ 0 < t.count then Totals.zero else t
    let t := t.add s.mge.sensor w h r iv.1 iv.2
    if t.count = frame then putTotals n Totals.zero (evaluateFrame e t s)
    else putTotals n t s

/-- The looked-at samples of a beat in ascending address order (R127). -/
def monitorAll (n : Fin 16) (w h r e : Nat) : List (Nat × Nat) → State → State
  | [], s => s
  | iv :: ivs, s => monitorAll n w h r e ivs (monitorSample n w h r e iv s)

/-! ### RUN entry (R135, R171) -/

/-- RUN entry: the lamp SETTLING with no candidate, the LAMP flag, and a start decision. -/
def runEntry (s : State) : State :=
  startDecision (setFlag .lamp ((s.setDevice .run).setLamp s.lamp.unsettled))

/-! ### Meanings -/

/-- A third consecutive vote for a change (R131, R132): presence changes. -/
def execPresenceChange (v : Presence) (s : State) : Host.Outcome State Fault Refusal :=
  if s.pdt.debounce = 2 ∧ s.pdt.dir = v ∧ s.pdt.presence ≠ v ∧ v ≠ .unknown ∧ s.device = .run then
    .next (changePresence v s)
  else .next s

/-- The staleness timer expires in STEADY (R122): SETTLING with no candidate. -/
def execStalenessExpiry (s : State) : Host.Outcome State Fault Refusal :=
  if s.lamp.state = .steady ∧ 0 < s.lamp.cfg.staleMs ∧ s.lamp.last.held = true then
    .next (lampChanged (departure (s.setLamp s.lamp.unsettled)))
  else .next s

/-- The measurement that brings the recovery count to 64 (R144): with the count at 63 under a STEADY lamp, an in-band
level is taken (R121, R125) and recovery completes. -/
def execRecoveryComplete (s : State) : Host.Outcome State Fault Refusal :=
  if s.cec.armed = true ∧ s.lamp.state = .steady ∧ s.lamp.recovery + 1 = Config.recoveryFull then
    .next (completeRecovery (s.setLamp { s.lamp with last := Timer.startAt s.time s.lamp.cfg.staleMs }))
  else .next s

end Sys2Proof.Machine
end

