-- ==== Sys2Proof/Machine/Sequencer.lean ====
section
/-! DEFINITION. The exposure sequencer and the merges: taking samples, the verdict, merge responses, attempt
ends, and the two job timers (chapters 2 and 3). -/
namespace Sys2Proof.Machine

/-- The ACTIVE slot and its record, unless a job end is due: then the sequencer takes nothing further (R65). -/
def running (s : State) : Option (Fin 4 × JobRecord) :=
  match activeSlot s with
  | some i =>
    let x := vget s.slots i
    match x.job with
    | some j => if x.endDue = none then some (i, j) else none
    | none => none
  | none => none

/-! ### Taking samples (R34 to R40) -/

/-- The largest attempt count of Table 3-1. -/
def countMax : Nat := 2 ^ 32 - 1

/-- The head of the pixel queue leaves it (R34). -/
def popPixel (s : State) : State := s.setMge { s.mge with pixels := s.mge.pixels.drop 1 }

/-- A stray sample is taken (R34): during an attempt it adds 1 to STRAY; past the largest count a free value
stands (log 11). -/
def takeStray (s : State) : State :=
  let q := s.mge.seq
  if q.att = .waiting then popPixel s
  else if q.stray < countMax then putSeq { q with stray := q.stray + 1 } (popPixel s)
  else
    putSeq { q with stray := (Config.strayPastMax s.freeIdx).toNat } ((popPixel s).setFreeIdx (s.freeIdx + 1))

/-- The sequencer as an attempt begins (R35): the attempt counters 0 and no measurement. The recorded reason, which R35 does not
name, is none until the attempt is DISCARDING (DESIGN CHOICE, log 52). -/
def Seq.begun (q : Seq) : Seq :=
  { q with att := .reference, count := 0, refSum := 0, refCount := 0, sat := false, recorded := none,
           meas := none, rejects := 0, dup := 0, stray := 0, memerr := 0 }

/-- A counted sample taken in WAITING begins an attempt, and every tile's attempt reject count is cleared (R35). -/
def beginAttempt (s : State) : State :=
  if s.mge.seq.att = .waiting then (putSeq s.mge.seq.begun s).setTsa { s.tsa with rejects := [] } else s

/-- A sample is counted (R34): the sample count and the last-sample time. -/
def countSample (j : JobRecord) (s : State) : State :=
  putSeq { s.mge.seq with count := s.mge.seq.count + 1, gap := Timer.startAt s.time j.frameGapMs } s

/-- The verdict point (R37): the measurement is applied and recorded, and the verdict taken. -/
def verdictPoint (j : JobRecord) (s : State) : State :=
  let q := s.mge.seq
  let m := measure s.mge.sensor q.refSum q.refCount q.sat (j.eAt q.k)
  let s := applyMeas m s
  let q := s.mge.seq
  if verdict m s then putSeq { q with meas := some m, att := .image } s
  else putSeq { q with meas := some m, att := .discarding, recorded := some .lamp } s

/-- A reference sample taken in REFERENCE (R36). -/
def takeReference (j : JobRecord) (v : Nat) (s : State) : State :=
  let q := s.mge.seq
  let s := putSeq { q with refSum := q.refSum + v, refCount := q.refCount + 1,
                           sat := q.sat || decide (s.mge.sensor.s ≤ v) } s
  if q.refCount + 1 = j.w * j.r then verdictPoint j s else s

/-- An image sample taken in REFERENCE is an ORDER fault (R36). -/
def orderFault (s : State) : State := putSeq { s.mge.seq with att := .discarding, recorded := some .order } s

/-- The merge of an admitted sample of a PLATE job: the parameters of R18 (log 16). -/
def mergeOf (i : Fin 4) (j : JobRecord) (pix v : Nat) (s : State) : Merge :=
  let q := s.mge.seq
  let tile := tileOf j.w pix
  { v := v, k := q.k, e := j.eAt q.k, w := j.wtAt q.k, c := j.spread,
    g := sget (vget s.fst.banks j.bankNo).gains tile, gen := (vget s.slots i).gen,
    retake := q.retakeMark, tile := tile, sensor := s.mge.sensor, live := true }

/-- The cell address of a pixel of a job (R1). -/
def cellAddr (s : State) (j : JobRecord) (pix : Nat) : Nat := areaBaseOf s j + 8 * pix

/-- An admitted sample of a PLATE job goes to the cell port, and its merge begins (R19, R34). -/
def admitPlate (i : Fin 4) (j : JobRecord) (pix v : Nat) (s : State) : State :=
  beginAccess (.merge (mergeOf i j pix v s)) (cellAddr s j pix) 8 s

/-- The flat value of a usable sample (R80). -/
def flatValue (v b e : Nat) : Nat := (v - b) * 1024 / e

/-- The tile statistics after a usable FLAT sample (R80): a tile whose count is 65535 takes no more. -/
def Tsa.addFlat (a : Tsa) (tile u : Nat) : Tsa :=
  if sget a.flatCount tile < 65535 then
    { a with flatSum := sput a.flatSum tile (sget a.flatSum tile + u),
             flatCount := sput a.flatCount tile (sget a.flatCount tile + 1) }
  else a

/-- The done count with one more pixel; it never exceeds W × H (R42). -/
def doneUp (j : JobRecord) (done : Nat) : Nat := min j.pixels (done + 1)

/-- An admitted sample of a FLAT job (R29, R80): done, and in its tile's statistics when usable. -/
def admitFlat (j : JobRecord) (pix v : Nat) (s : State) : State :=
  let q := s.mge.seq
  let s := putSeq { q with done := doneUp j q.done } s
  match classify v s.mge.sensor with
  | .usable => s.setTsa (s.tsa.addFlat (tileOf j.w pix) (flatValue v s.mge.sensor.b (j.eAt q.k)))
  | _ => s

/-- An image sample taken in IMAGE is admitted (R38). -/
def takeAdmitted (i : Fin 4) (j : JobRecord) (pix v : Nat) (s : State) : State :=
  match j.kind with
  | .plate => admitPlate i j pix v s
  | .flat => admitFlat j pix v s

/-- A counted sample handled by the attempt state (R36, R38, R39). -/
def handleSample (i : Fin 4) (j : JobRecord) (idx v : Nat) (s : State) : State :=
  let isRef := decide (idx < j.w * j.r)
  match s.mge.seq.att with
  | .reference => if isRef then takeReference j v s else orderFault s
  | .image => if isRef then s else takeAdmitted i j (idx - j.w * j.r) v s
  | .discarding => s
  | .waiting => s

/-- The sample count reaching W × (H + R) makes the attempt end due (R41). -/
def countTest (j : JobRecord) (s : State) : State :=
  if s.mge.seq.count = j.frame then putSeq { s.mge.seq with endDue := some .byCount } s else s

/-- A stray sample: a partial one, or one beyond the frame (R34). -/
def Sample.stray (p : Sample) (j : JobRecord) : Bool := p.part || decide (j.frame ≤ p.idx)

/-- A restart: a counted sample of index 0 during an attempt (R40). -/
def isRestart (p : Sample) (q : Seq) : Bool := decide (p.idx = 0) && (q.att != .waiting) && decide (0 < q.count)

/-- The head of the pixel queue is taken, or held for a restart (R34 to R41). -/
def takeHead (i : Fin 4) (j : JobRecord) (p : Sample) (s : State) : State :=
  if p.stray j then takeStray s
  else if isRestart p s.mge.seq then putSeq { s.mge.seq with endDue := some .restart } s
  else countTest j (handleSample i j p.idx (rawValue p.raw) (countSample j (beginAttempt (popPixel s))))

/-! ### The ends of merges (R28, R38) -/

/-- W × H of the ACTIVE job. -/
def activePixels (s : State) : Nat :=
  match activeSlot s with
  | some i => match (vget s.slots i).job with | some j => j.pixels | none => 0
  | none => 0

/-- The sequencer's counts after an outcome that Table 2-4 marks as done (R28, R38, R42). -/
def Seq.handDone (q : Seq) (pixels k : Nat) (o : MergeOutcome) (writeErr : Bool) : Seq :=
  { q with done := min pixels (q.done + 1),
           rejects := match o with | .rejected => q.rejects + 1 | _ => q.rejects,
           nlo0 := match o with
             | .clipped true => if k = 0 then min pixels (q.nlo0 + 1) else q.nlo0
             | _ => q.nlo0,
           memerr := if writeErr then q.memerr + 1 else q.memerr }

/-- The outcome of a merge that ends at its read is handed: DUPLICATE or READ_ERROR (Table 2-4). -/
def handRead (m : Merge) (readErr : Bool) (s : State) : State :=
  let q := s.mge.seq
  if m.live then
    putSeq (if readErr then { q with memerr := q.memerr + 1 } else { q with dup := q.dup + 1 }) s
  else s

/-- The outcome of a merge that wrote is handed (Table 2-4). -/
def handWrite (m : Merge) (o : MergeOutcome) (writeErr : Bool) (s : State) : State :=
  if m.live then putSeq (s.mge.seq.handDone (activePixels s) m.k o writeErr) s else s

/-- A merge has ended: its access is over, and a sweep that waited for it may begin (R4, R11). -/
def endMerge (n : Nat) (s : State) : State := sweepKick (endAccess n s)

/-- A computed rejection adds 1 to the tile's attempt reject count, which stops at 65535 (R26, log 17). -/
def noteReject (m : Merge) (o : MergeOutcome) (s : State) : State :=
  match o with
  | .rejected =>
    if m.live then
      s.setTsa { s.tsa with rejects := sput s.tsa.rejects m.tile (min 65535 (sget s.tsa.rejects m.tile + 1)) }
    else s
  | _ => s

/-- An access of the cell port whose read has been answered comes to its write. -/
def setWriting (n : Nat) (o : MergeOutcome) (s : State) : State :=
  setPort (s.mge.port.map fun a => if a.no == n && a.stage == .reading then { a with stage := .writing o } else a) s

/-- Step 4 of R19: the new cell is computed and its write requested. -/
def writeCell (a : CellAcc) (m : Merge) (j : Option Cell) (s : State) : State :=
  let r := mergeCell (Cell.judged j) m
  requestM (.cellWrite a.no) .cell true a.addr 8 r.1.bytes (setWriting a.no r.2 (noteReject m r.2 s))

/-- A merge's read is answered (R19 steps 1 to 4). -/
def mergeRead (a : CellAcc) (m : Merge) (d : RData) (s : State) : State :=
  if respErr d.resp then endMerge a.no (handRead m true (setLatch .memerrSeen s))
  else
    let j := judge (Cell.ofWord (cellWord a.addr d.data)) m.gen (some m.k)
    if isDuplicate j m.k then endMerge a.no (handRead m false s)
    else writeCell a m j s

/-! ### Attempt ends (R41, R44 to R48) -/

/-- The active job fails at an attempt end (R44, R47, R30). -/
def failJob (i : Fin 4) (j : JobRecord) (r : EndReason) (s : State) : State :=
  endJob i (JobEnd.without .failed r j) (dropAttempt s)

/-- WAITING after an attempt end, with the wait-since time set (R44, R47). -/
def waitAgain (j : JobRecord) (q : Seq) (s : State) : State :=
  putSeq { q with att := .waiting, wait := Timer.startAt s.time j.expWaitMs, endDue := none } s

/-- A failed attempt's failure is taken (R44). -/
def failAttempt (i : Fin 4) (j : JobRecord) (r : AttReason) (s : State) : State :=
  let q := { s.mge.seq with retakes := s.mge.seq.retakes + 1 }
  let s := pushReport i.1 j.tag (.attemptFailed q.k r q.retakes) (putSeq q s)
  let s := scoreUp 8 s
  if levelOf s.cec.value = .halted then failJob i j .halted s
  else if j.retakeLim < q.retakes then failJob i j .retakes s
  else waitAgain j { q with retakeMark := true } s

/-- U of the closing attempt (R46): 0 for a FLAT job. -/
def unsteady (j : JobRecord) (s : State) : Nat :=
  match j.kind with
  | .plate => unsteadyTiles s.tsa j.tileRejLim j.tiles
  | .flat => 0

/-- φ of a probe exposure (R48). -/
def probePhi (j : JobRecord) (q : Seq) : Nat := 256 * q.nlo0 / j.pixels

/-- The depth at a close (R47 step 2): a LADDER job's is chosen at the close of exposure 0 (R48). -/
def depthAtClose (j : JobRecord) (s : State) : Nat :=
  let q := s.mge.seq
  if j.dmode = .ladder ∧ q.k = 0 then ladderDepth s.mge.ladder (probePhi j q) else q.depth.getD 0

/-- The EXPOSURE_DONE report of a close (R47 step 3): λ, or the held mark for SAT. -/
def exposureDone (j : JobRecord) (s : State) : RepBody :=
  let q := s.mge.seq
  let lam := match q.meas with | some (.level l) => l | _ => 0
  .exposureDone q.k (depthAtClose j s) (q.meas == some .sat) q.done q.dup q.stray q.rejects (unsteady j s) q.memerr lam

/-- The score of a close (R47 step 4, R139). -/
def scoreClose (u memerr : Nat) (s : State) : State := if 0 < u ∨ 0 < memerr then scoreUp 2 s else scoreDown s

/-- An exposure closes (R47). -/
def closeExposure (i : Fin 4) (j : JobRecord) (s : State) : State :=
  let q := s.mge.seq
  let depth := depthAtClose j s
  let u := unsteady j s
  let s := scoreClose u q.memerr (pushReport i.1 j.tag (exposureDone j s) s)
  if levelOf s.cec.value = .halted then failJob i j .halted s
  else if q.k + 1 = depth then enterFinishing i j s
  else waitAgain j { q with k := q.k + 1, depth := some depth, done := 0, retakeMark := false } s

/-- A due attempt end is taken: it closes the exposure or fails the attempt (R40, R41, R43). -/
def takeEnd (i : Fin 4) (j : JobRecord) (e : AttEnd) (s : State) : State :=
  let q := s.mge.seq
  match e with
  | .restart => failAttempt i j .restart s
  | .gap => failAttempt i j .gap s
  | .byCount =>
    match q.att with
    | .image => if j.kind = .plate ∧ q.done < j.pixels then failAttempt i j .short s else closeExposure i j s
    | _ => failAttempt i j (q.recorded.getD .lamp) s

/-! ### Meanings -/

/-- The sequencer takes the head of the pixel queue (R34), unless an attempt end is due. -/
def execSampleTake (s : State) : Host.Outcome State Fault Refusal :=
  match running s, s.mge.pixels with
  | some (i, j), p :: _ => if s.mge.seq.endDue = none then .next (takeHead i j p s) else .next s
  | _, _ => .next s

/-- The response to a merge's read (R19 to R26). -/
def execMergeReadResponse (txn : Nat) (d : RData) (s : State) : Host.Outcome State Fault Refusal :=
  match grantedKind txn s with
  | some (.cellRead n) =>
    match access? n s with
    | some a =>
      match a.use, a.stage with
      | .merge m, .reading => .next (mergeRead a m d (answered txn s))
      | _, _ => .next s
    | none => .next s
  | _ => .next s

/-- The response to a merge's write ends the merge (R19 step 5, R28). -/
def execMergeWriteResponse (txn : Nat) (r : Resp) (s : State) : Host.Outcome State Fault Refusal :=
  match grantedKind txn s with
  | some (.cellWrite n) =>
    match access? n s with
    | some a =>
      match a.use, a.stage with
      | .merge m, .writing o =>
        .next (endMerge n (handWrite m o (respErr r) (memErr (respErr r) (answered txn s))))
      | _, _ => .next s
    | none => .next s
  | _ => .next s

/-- A due attempt end is taken, its merges ended and 2 report entries free (R41, R45). -/
def execAttemptEndTaken (s : State) : Host.Outcome State Fault Refusal :=
  match running s, s.mge.seq.endDue with
  | some (i, j), some e => if liveMerges s = false ∧ 2 ≤ s.free then .next (takeEnd i j e s) else .next s
  | _, _ => .next s

/-- The frame-gap timer expires (R43): the attempt is due to fail with GAP. -/
def execFrameGapExpiry (s : State) : Host.Outcome State Fault Refusal :=
  match running s with
  | some (_, j) =>
    let q := s.mge.seq
    if q.att ≠ .waiting ∧ q.endDue = none ∧ 0 < j.frameGapMs ∧ q.gap.held = true then
      .next (putSeq { q with endDue := some .gap } s)
    else .next s
  | none => .next s

/-- The exposure-wait timer expires (R50): the job is due to fail with TIMEOUT, its pixel queue discarded. -/
def execExposureWaitExpiry (s : State) : Host.Outcome State Fault Refusal :=
  match running s with
  | some (i, j) =>
    let q := s.mge.seq
    if q.att = .waiting ∧ q.endDue = none ∧ 0 < j.expWaitMs ∧ q.wait.held = true then
      .next (failDue i .timeout (dropAttempt s))
    else .next s
  | none => .next s

end Sys2Proof.Machine
end

