-- ==== Sys2Proof/Machine/Flat.lean ====
section
/-! DEFINITION. Flat images: FLAT_STORE and FLAT_FETCH after their take, burst by burst (section 5.5). -/
namespace Sys2Proof.Machine

/-! ### FLAT_STORE (R88, R89) -/

/-- The transaction is an image write of FLAT_STORE. -/
def isFlatWrite (t : MTxn) : Bool := t.kind == .flatWrite

/-- The store requests its next burst, if one is left and no response was an error (R89). -/
def storeNext (s : State) : State :=
  match s.cin.long with
  | some (.flatStore n bank addr done false) =>
    let b := vget s.fst.banks bank
    if done < imageLen b.tw b.th then
      let len := burstLen (addr + done) (imageLen b.tw b.th - done)
      requestM .flatWrite .bulk true (addr + done) len (imageBytes b done len)
        (setLong (some (.flatStore n bank addr (done + len) false)) s)
    else s
  | _ => s

/-- The store completes when nothing of it is outstanding and it is at its end or has met an error (R89). -/
def storeEnd (n : Fin 8) (b : Bank) (done : Nat) (err : Bool) (s : State) : State :=
  if s.mpa.has isFlatWrite then s
  else if err then complete n .memoryError (setLong none s)
  else if imageLen b.tw b.th ≤ done then complete n .ok (setLong none s)
  else s

/-! ### FLAT_FETCH (R90, R91) -/

/-- The transaction is a gain read of FLAT_FETCH. -/
def isFlatGain (t : MTxn) : Bool :=
  match t.kind with
  | .flatGain .. => true
  | _ => false

/-- The fetch requests its next burst of gains, if one is left and no response was an error (R91). -/
def fetchNext (s : State) : State :=
  match s.cin.long with
  | some (.flatGains n bank addr tw th t opn done false gains) =>
    if done < 2 * (tw * th) then
      let a := addr + 32 + done
      let len := burstLen a (2 * (tw * th) - done)
      requestM (.flatGain (done / 2) (len / 2)) .bulk false a len []
        (setLong (some (.flatGains n bank addr tw th t opn (done + len) false gains)) s)
    else s
  | _ => s

/-- The header of an image, field by field (Table 11-8). -/
structure FlatHeader where
  format : Nat
  tw     : Nat
  th     : Nat
  t      : Nat
  opn    : Nat
deriving DecidableEq, Repr

/-- The header its 32 bytes hold. -/
def FlatHeader.read (bs : List Byte) : FlatHeader :=
  { format := field bs 0 2, tw := field bs 2 2, th := field bs 4 2, t := field bs 8 4, opn := field bs 12 4 }

/-- Checks 5 to 8 of R90. -/
def FlatHeader.ok (h : FlatHeader) (addr : Nat) : Bool :=
  decide (h.format = 1) && decide (1 ≤ h.tw) && decide (h.tw ≤ 192) && decide (1 ≤ h.th) && decide (h.th ≤ 144) &&
  decide (32768 ≤ h.t) && decide (h.t ≤ 16776223) && decide (h.opn = h.t / 32) &&
  decide (addr + imageLen h.tw h.th ≤ Config.addressEnd)

/-- `n` gains of 2 bytes each, clamped as R91 stores them. -/
def gainsOf (bs : List Byte) (n : Nat) : List Nat := (List.range n).map fun i => clampGain (field bs (2 * i) 2)

/-- The fetch completes when none of its reads is outstanding (R91, R169, log 41): with MEMORY_ERROR after an error, else
with OK once every gain has been read, the bank VALID, and a start decision. -/
def fetchEnd (s : State) : State :=
  match s.cin.long with
  | some (.flatGains n bank _ tw th t opn done err gains) =>
    if s.mpa.has isFlatGain then s
    else if err then complete n .memoryError (setLong none s)
    else if done < 2 * (tw * th) then s
    else
      startDecision (complete n .ok (setLong none
        (putBank bank { state := .valid, tw := tw, th := th, t := t, opn := opn, gains := gains } s)))
  | _ => s

/-! ### Meanings -/

/-- The response to an image write of FLAT_STORE (R89): after an error no further burst is issued. -/
def execFlatStoreResponse (txn : Nat) (r : Resp) (s : State) : Host.Outcome State Fault Refusal :=
  match grantedKind txn s, s.cin.long with
  | some .flatWrite, some (.flatStore n bank addr done err) =>
    let err' := err || respErr r
    let s := memErr (respErr r) (answered txn s)
    let s := if err' then s.setMpa (s.mpa.withdraw isFlatWrite) else s
    .next (storeEnd n (vget s.fst.banks bank) done err' (setLong (some (.flatStore n bank addr done err')) s))
  | _, _ => .next s

/-- The response to the header read of FLAT_FETCH (R90). -/
def execFlatFetchHeaderResponse (txn : Nat) (beats : List RData) (s : State) : Host.Outcome State Fault Refusal :=
  match grantedKind txn s, s.cin.long with
  | some .flatHeader, some (.flatHeader n bank addr) =>
    if beats.length = 2 then
      let s := memErr (anyErr beats) (answered txn s)
      let h := FlatHeader.read (respBytes beats)
      if anyErr beats then .next (complete n .memoryError (setLong none s))
      else if h.ok addr then .next (fetchNext (setLong (some (.flatGains n bank addr h.tw h.th h.t h.opn 0 false [])) s))
      else .next (complete n .range (setLong none s))
    else .next s
  | _, _ => .next s

/-- The response to a gain read of FLAT_FETCH (R91): its gains are stored; after an error no further burst is issued,
the gains stored so far are discarded, and the responses outstanding are absorbed before the fetch completes. -/
def execFlatFetchGainResponse (txn : Nat) (beats : List RData) (s : State) : Host.Outcome State Fault Refusal :=
  match grantedKind txn s, s.cin.long with
  | some (.flatGain first n), some (.flatGains c bank addr tw th t opn done err gains) =>
    if beats.length = ceilDiv (2 * n) 16 then
      let err' := err || anyErr beats
      let gains := if err' then [] else sputAll gains first (gainsOf (respBytes beats) n)
      let s := memErr (anyErr beats) (answered txn s)
      let s := if err' then s.setMpa (s.mpa.withdraw isFlatGain) else s
      .next (fetchEnd (setLong (some (.flatGains c bank addr tw th t opn done err' gains)) s))
    else .next s
  | _, _ => .next s

end Sys2Proof.Machine
end

