-- ==== Sys2Proof/Machine/Reports.lean ====
section
/-! DEFINITION. The report unit: serving coalesce flags, draining the queue into the ring, the HEAD writes, and
SET_REPORTS' wait (sections 10.6 and 10.7). -/
namespace Sys2Proof.Machine

/-! ### Serving flags (R176) -/

/-- A due event transition waits for report room (R176): an ACTIVE transition or a job end, an attempt end whose merges
have ended, or the chosen command. -/
def transitionWaits (s : State) : Bool :=
  (match busySlot s with
   | some i => ((vget s.slots i).startDue || (vget s.slots i).endDue.isSome) && decide (s.free < 1)
   | none => false) ||
  ((running s).isSome && s.mge.seq.endDue.isSome && !liveMerges s && decide (s.free < 2)) || commandWaits s

/-- λ_base as reported: 0 outside STEADY (R187). -/
def lamBaseOut (s : State) : Nat := if s.lamp.state = .steady then s.lamp.base.getD 0 else 0

/-- The report of a flag, with the values current (R176). -/
def flagBody (f : CoalFlag) (s : State) : RepBody :=
  match f with
  | .lamp => .lamp s.lamp.state (lamBaseOut s)
  | .presence => .presence s.pdt.presence
  | .cecLevel => .cecLevel (levelOf s.cec.value) s.cec.value

/-- The SLOT byte of a coalesced report (R186). -/
def noSlot : Nat := 0xFF

/-- A set flag may be served (R176). -/
def canServe (f : CoalFlag) (s : State) : Bool := s.rpu.flag f && decide (3 ≤ s.free) && !transitionWaits s

/-! ### The drain (R178) -/

/-- SET_REPORTS has stopped the drain (R177). -/
def drainStopped (s : State) : Bool :=
  match s.cin.long with
  | some (.reportsWait ..) => true
  | some (.reportsHead _) => true
  | _ => false

/-- Records of the ring the part counts as unconsumed (section 10.7). -/
def ringCount (r : Rpu) : Nat := (r.head + Config.ringRecords - r.tail % Config.ringRecords) % Config.ringRecords

/-- The drain condition (R178), with the ring's base and the report it would write. -/
def drainable (s : State) : Option (Nat × Report) :=
  match s.rpu.ring, s.rpu.queue with
  | some base, r :: _ =>
    if ringCount s.rpu < Config.ringMost ∧ s.rpu.busy = none ∧ s.rpu.headWait = false ∧ drainStopped s = false then
      some (base, r)
    else none
  | _, _ => none

/-- The transaction is a record write or a HEAD write. -/
def isReportWrite (t : MTxn) : Bool :=
  match t.kind with
  | .record => true
  | .head .. => true
  | _ => false

/-- SET_REPORTS goes on once every record and HEAD write requested has been answered (R177): the new ring, HEAD 0,
TAIL 0, and the HEAD write of 0. -/
def reportsKick (s : State) : State :=
  match s.cin.long with
  | some (.reportsWait n base irqEn) =>
    if s.mpa.has isReportWrite then s
    else
      requestHead 0 true
        (setLong (some (.reportsHead n)) (s.setRpu { s.rpu with ringSet := true, ringBase := base, irqEn := irqEn, head := 0, tail := 0 }))
  | _ => s

/-- The drain's steps at a record's response (R178): the record leaves the queue if it is still there (R174), HEAD
advances, and the HEAD write is requested. -/
def advance (linked : Bool) (s : State) : State :=
  let head := (s.rpu.head + 1) % Config.ringRecords
  let queue := if linked then s.rpu.queue.drop 1 else s.rpu.queue
  requestHead head false (s.setRpu { s.rpu with queue := queue, head := head, busy := none, headWait := true })

/-- The posted HEAD is the value of the most recently requested HEAD write answered (R181). -/
def post (value seq : Nat) (s : State) : State :=
  if s.rpu.postedSeq < seq then s.setRpu { s.rpu with posted := value, postedSeq := seq } else s

/-! ### Meanings -/

/-- A set coalesce flag is served (R176). -/
def execCoalescedReportServed (f : CoalFlag) (s : State) : Host.Outcome State Fault Refusal :=
  if canServe f s then
    let s' := pushReport noSlot 0 (flagBody f s) s
    .next (s'.setRpu (s'.rpu.putFlag f false))
  else .next s

/-- The record at the head of the report queue is written to the ring (R178, R184, R186). -/
def execReportRecordWrite (s : State) : Host.Outcome State Fault Refusal :=
  match drainable s with
  | some (base, r) =>
    let s := requestM .record .note true (base + 64 * s.rpu.head) 64 r.bytes s
    .next (s.setRpu { s.rpu with busy := some true })
  | none => .next s

/-- The response to a record write (R178, R179): a freed entry is an event of the take and of the start decision (R168, R60,
R175). It is taken whenever the write has been granted, also where the data beats of a SYS write granted before it are not all
taken and it could not have come yet (DESIGN CHOICE, log 46). -/
def execReportRecordResponse (txn : Nat) (r : Resp) (s : State) : Host.Outcome State Fault Refusal :=
  match grantedKind txn s with
  | some .record =>
    let linked := s.rpu.busy.getD false
    let s := advance linked (noteErr r (answered txn s))
    .next (reportsKick (if linked then startDecision (takeEvent s) else s))
  | _ => .next s

/-- The response to a HEAD write of the drain (R179, R181). -/
def execHeadWriteResponse (txn : Nat) (r : Resp) (s : State) : Host.Outcome State Fault Refusal :=
  match grantedKind txn s with
  | some (.head value seq false) => .next (reportsKick (post value seq (noteErr r (answered txn s))))
  | _ => .next s

/-- The response to the HEAD write of SET_REPORTS (R177, R181): the posted HEAD is 0 and the command completes. -/
def execSetReportsHeadResponse (txn : Nat) (r : Resp) (s : State) : Host.Outcome State Fault Refusal :=
  match grantedKind txn s, s.cin.long with
  | some (.head _ seq true), some (.reportsHead n) =>
    let s := noteErr r (answered txn s)
    .next (complete n .ok (setLong none (s.setRpu { s.rpu with posted := 0, postedSeq := seq })))
  | _, _ => .next s

end Sys2Proof.Machine
end

