-- ==== Sys2Proof/Machine/Commands.lean ====
section
/-! DEFINITION. The commands of the command page, each executed at its take with the arguments the shadow holds
(R168, R169, Table 11-5), and the response to a job record read. -/
namespace Sys2Proof.Machine

/-- The result of checks made in order: the first that fails gives its result. -/
def checks : List (Bool × Result) → Result
  | [] => .ok
  | (b, r) :: cs => if b then checks cs else r

/-- A command that completes at its take: the effect of an OK result, or none (R169). -/
def answer (t : Taken) (r : Result) (effect : State → State) (s : State) : State :=
  complete t.slot r (if r = .ok then effect s else s)

/-- The device is in HOLD. -/
def inHold (s : State) : Bool := s.device == .hold

/-- 4 KiB aligned. -/
def pageAligned (n : Nat) : Bool := decide (n % 4096 = 0)

/-- A range ends within the address space. -/
def inSpace (base size : Nat) : Bool := decide (base + size ≤ Config.addressEnd)

/-! ### Configuration (R17, R133, R49, R153 to R155, R8, R177) -/

/-- The profile SET_SENSOR names (Table 11-5). -/
def sensorArg (t : Taken) : Sensor := { b := t.arg 12 2, f := t.arg 14 2, s := t.arg 16 2 }

/-- The checks of SET_SENSOR (R17). -/
def checkSensor (t : Taken) (s : State) : Result :=
  let p := sensorArg t
  checks [(inHold s, .notHeld),
    (decide (p.b ≤ 2047) && decide (p.f ≤ 1023) && decide (1 ≤ p.s) && decide (p.s ≤ 16383), .range),
    (decide (p.b + p.f < p.s), .range)]

/-- SET_SENSOR (R17). -/
def runSetSensor (t : Taken) (s : State) : State :=
  answer t (checkSensor t s) (fun s => s.setMge { s.mge with sensor := sensorArg t }) s

/-- The configuration SET_LAMP names (Table 11-5). -/
def lampArg (t : Taken) : LampCfg :=
  { band := t.arg 12 1, settleFrames := t.arg 13 1, settleMs := t.arg 14 2, darkLevel := t.arg 16 4,
    staleMs := t.arg 20 2, presLim := t.arg 22 1, guardMs := t.arg 24 2 }

/-- The ranges of Table 7-4; the 16-bit times take every value. -/
def LampCfg.inRange (c : LampCfg) : Bool :=
  decide (c.band ≤ 15) && decide (1 ≤ c.settleFrames) && decide (c.settleFrames ≤ 64) &&
  decide (c.settleMs ≤ 65535) && decide (c.darkLevel ≤ 16777215) && decide (c.staleMs ≤ 65535) &&
  decide (1 ≤ c.presLim) && decide (c.presLim ≤ 255) && decide (c.guardMs ≤ 65535)

/-- The checks of SET_LAMP (R133). -/
def checkLamp (t : Taken) (s : State) : Result := checks [(inHold s, .notHeld), ((lampArg t).inRange, .range)]

/-- SET_LAMP (R133). -/
def runSetLamp (t : Taken) (s : State) : State :=
  answer t (checkLamp t s) (fun s => s.setLamp { s.lamp with cfg := lampArg t }) s

/-- The ladder SET_LADDER names (Table 11-5). -/
def ladderArg (t : Taken) : Ladder :=
  { t1 := t.arg 12 1, t2 := t.arg 13 1, t3 := t.arg 14 1, t4 := t.arg 15 1,
    depth := Vector.ofFn fun i : Fin 5 => t.arg (16 + i.1) 1 }

/-- The checks of SET_LADDER (R49). -/
def checkLadder (t : Taken) (s : State) : Result :=
  let l := ladderArg t
  checks [(inHold s, .notHeld),
    (decide (l.t1 ≤ 255) && decide (l.t2 ≤ 255) && decide (l.t3 ≤ 255) && decide (l.t4 ≤ 255) &&
      l.depth.toList.all (fun d => decide (1 ≤ d) && decide (d ≤ 8)), .range),
    (decide (l.t2 ≤ l.t1) && decide (l.t3 ≤ l.t2) && decide (l.t4 ≤ l.t3), .order)]

/-- SET_LADDER (R49). -/
def runSetLadder (t : Taken) (s : State) : State :=
  answer t (checkLadder t s) (fun s => s.setMge { s.mge with ladder := ladderArg t }) s

/-- The format code of a window (Table 11-5). -/
def Fmt.ofCode : Nat → Option Fmt
  | 0 => some .d16
  | 1 => some .d8
  | _ => none

/-- A MONITOR window's fields are in range (R153). -/
def monitorInRange (w h r e : Nat) : Bool :=
  decide (64 ≤ w) && decide (w ≤ 12288) && decide (w % 8 = 0) && decide (64 ≤ h) && decide (h ≤ 9216) &&
  decide (2 ≤ r) && decide (r ≤ 16) && decide (1 ≤ e) && decide (e ≤ 1024)

/-- The kind SET_WINDOW names, with the fields of its kind where they are in range (R153 checks 3 and 6). -/
def winKindArg (t : Taken) : Option WinKind :=
  match t.arg 13 1 with
  | 1 => some .capture
  | 2 =>
    match toFin? 4 (t.arg 14 1), Fmt.ofCode (t.arg 15 1) with
    | some i, some f => some (.result i f)
    | _, _ => none
  | 3 =>
    let w := t.arg 32 2
    let h := t.arg 34 2
    let r := t.arg 36 1
    let e := t.arg 38 2
    if monitorInRange w h r e then some (.monitor w h r e) else none
  | _ => none

/-- The checks of SET_WINDOW (R153). -/
def checkWindow (t : Taken) (s : State) : Result :=
  let base := t.arg 16 8
  let size := t.arg 24 8
  checks [(inHold s, .notHeld),
    (decide (1 ≤ t.arg 12 1) && decide (t.arg 12 1 ≤ 15), .range),
    (decide (1 ≤ t.arg 13 1) && decide (t.arg 13 1 ≤ 3), .range),
    (pageAligned base && pageAligned size, .align),
    (decide (4096 ≤ size) && decide (size ≤ 64 * 2 ^ 30) && inSpace base size, .range),
    ((winKindArg t).isSome, .range),
    (!hitsWindow s (toFin? 16 (t.arg 12 1)) base size && !hitsArea s none base size && !hitsRing s base size, .overlap)]

/-- Replaces a window entry. -/
def putWindow (i : Fin 16) (w : Option Win) (s : State) : State :=
  s.setWmu { s.wmu with windows := vput s.wmu.windows i w }

/-- SET_WINDOW takes effect; the entry's monitor totals become 0 (R153). -/
def setWindowNow (t : Taken) (s : State) : State :=
  match toFin? 16 (t.arg 12 1), winKindArg t with
  | some i, some k =>
    putTotals i Totals.zero (putWindow i (some { kind := k, base := t.arg 16 8, size := t.arg 24 8 }) s)
  | _, _ => s

/-- SET_WINDOW (R153). -/
def runSetWindow (t : Taken) (s : State) : State := answer t (checkWindow t s) (setWindowNow t) s

/-- The checks of CLEAR_WINDOW (R154). -/
def checkClear (t : Taken) (s : State) : Result :=
  checks [(inHold s, .notHeld), (decide (1 ≤ t.arg 12 1) && decide (t.arg 12 1 ≤ 15), .range)]

/-- CLEAR_WINDOW takes effect (R154). -/
def clearWindowNow (t : Taken) (s : State) : State :=
  match toFin? 16 (t.arg 12 1) with
  | some i => putTotals i Totals.zero (putWindow i none s)
  | none => s

/-- CLEAR_WINDOW (R154). -/
def runClearWindow (t : Taken) (s : State) : State := answer t (checkClear t s) (clearWindowNow t) s

/-- The match mode a code names (Table 11-5). -/
def MatchMode.ofCode : Nat → Option MatchMode
  | 0 => some .active
  | 1 => some .bypass
  | _ => none

/-- The checks of SET_MATCH (R155). -/
def checkMatch (t : Taken) (s : State) : Result :=
  checks [(inHold s, .notHeld), ((MatchMode.ofCode (t.arg 12 1)).isSome, .range)]

/-- SET_MATCH takes effect (R155). -/
def setMatchNow (t : Taken) (s : State) : State :=
  match MatchMode.ofCode (t.arg 12 1) with
  | some m => s.setWmu { s.wmu with mode := m }
  | none => s

/-- SET_MATCH (R155). -/
def runSetMatch (t : Taken) (s : State) : State := answer t (checkMatch t s) (setMatchNow t) s

/-- Checks 3 to 6 of DEFINE_AREA (R8). -/
def checkArea (n : Fin 4) (base size : Nat) (s : State) : Result :=
  checks [(pageAligned base && pageAligned size, .align),
    (decide (size ≤ 2 ^ 30) && inSpace base size, .range),
    ((vget s.atb.areas n).owner.isNone, .busy),
    (!hitsArea s (some n) base size && !hitsWindow s none base size && !hitsRing s base size, .overlap)]

/-- DEFINE_AREA (R8): a size of 0 undefines the area, any other assigns its range. -/
def runDefineArea (t : Taken) (s : State) : State :=
  let base := t.arg 16 8
  let size := t.arg 24 8
  if inHold s then
    match toFin? 4 (t.arg 12 1) with
    | some n =>
      let a := vget s.atb.areas n
      if size = 0 then answer t (checks [(a.owner.isNone, .busy)]) (putArea n Area.reset) s
      else
        answer t (checkArea n base size s)
          (putArea n { state := .needsClear, base := base, size := size, gen := 0, owner := none }) s
    | none => answer t .range id s
  else answer t .notHeld id s

/-- The checks of SET_REPORTS (R177). -/
def checkReports (t : Taken) (s : State) : Result :=
  let base := t.arg 16 8
  checks [(inHold s, .notHeld),
    (decide (t.arg 12 1 ≤ 1), .range),
    (pageAligned base, .align),
    (inSpace base Config.ringBytes, .range),
    (!hitsWindow s none base Config.ringBytes && !hitsArea s none base Config.ringBytes, .overlap)]

/-- SET_REPORTS (R177): refused, or it stays in execution and waits for the report unit's writes. Where none is outstanding, the
intake's TAKEN write and the report unit's HEAD write of 0 are requested together, which by R161 may take either order: the
TAKEN write is queued first (DESIGN CHOICE, log 49). -/
def runSetReports (t : Taken) (s : State) : State :=
  let r := checkReports t s
  if r = .ok then reportsKick (setLong (some (.reportsWait t.slot (t.arg 16 8) (decide (t.arg 12 1 = 1)))) s)
  else complete t.slot r s

/-! ### Flat banks (R88, R90, R92) -/

/-- The bank a flat command names (Table 11-5). -/
def bankArg (t : Taken) : Option (Fin 2) := toFin? 2 (t.arg 12 1)

/-- The checks of FLAT_STORE (R88). -/
def checkStore (t : Taken) (b : Bank) (s : State) : Result :=
  let addr := t.arg 16 8
  let len := imageLen b.tw b.th
  checks [(inHold s, .notHeld),
    ((bankArg t).isSome, .range),
    (decide (addr % 64 = 0), .align),
    (b.state == .valid, .state),
    (decide (addr + len ≤ Config.addressEnd), .range),
    (!overlaps addr len (pageBase s) 4096 && !hitsRing s addr len, .overlap)]

/-- FLAT_STORE (R88): refused, or it stays in execution and requests its first burst. -/
def runFlatStore (t : Taken) (s : State) : State :=
  let n := (bankArg t).getD 0
  let r := checkStore t (vget s.fst.banks n) s
  if r = .ok then storeNext (setLong (some (.flatStore t.slot n (t.arg 16 8) 0 false)) s)
  else complete t.slot r s

/-- Checks 1 to 4 of FLAT_FETCH (R90). -/
def checkFetch (t : Taken) (s : State) : Result :=
  let addr := t.arg 16 8
  checks [(inHold s, .notHeld),
    ((bankArg t).isSome, .range),
    (decide (addr % 64 = 0), .align),
    (decide (addr + 32 ≤ Config.addressEnd), .range)]

/-- FLAT_FETCH (R90): refused, or the bank becomes INVALID and the header read is requested. -/
def runFlatFetch (t : Taken) (s : State) : State :=
  let n := (bankArg t).getD 0
  let r := checkFetch t s
  if r = .ok then
    requestM .flatHeader .bulk false (t.arg 16 8) 32 []
      (setLong (some (.flatHeader t.slot n (t.arg 16 8))) (putBank n Bank.invalid s))
  else complete t.slot r s

/-- FLAT_DROP (R92). -/
def runFlatDrop (t : Taken) (s : State) : State :=
  answer t (checks [(inHold s, .notHeld), ((bankArg t).isSome, .range)]) (putBank ((bankArg t).getD 0) Bank.invalid) s

/-! ### Device commands (R171 to R174, R143) -/

/-- RUN (R171). -/
def runRun (t : Taken) (s : State) : State :=
  answer t (checks [(inHold s, .state), (s.rpu.ring.isSome, .state)]) runEntry s

/-- A slot is FINISHING. -/
def someFinishing (s : State) : Bool := four.any fun i => (vget s.slots i).state == .finishing

/-- HOLD (R172, R72): HOLD entry at the take, or after the FINISHING slot's end. -/
def runHold (t : Taken) (s : State) : State :=
  if inHold s then complete t.slot .state s
  else
    let s := setLong (some (.hold t.slot)) s
    if someFinishing s then s else finishHold t.slot s

/-- RESUME takes effect (R143): recovery is armed, its count 0 unless it was armed already. -/
def arm (s : State) : State :=
  if s.cec.armed then s
  else (s.setCec { s.cec with armed := true }).setLamp { s.lamp with recovery := 0 }

/-- RESUME (R143). -/
def runResume (t : Taken) (s : State) : State :=
  answer t (checks [(!inHold s, .state), (levelOf s.cec.value == .halted, .state)]) arm s

/-- A generation as reported: 0 where it is not meaningful (R7). -/
def genOut (a : Area) : Nat := if a.state = .ready then a.gen else 0

/-- The values a SNAPSHOT holds (R173). -/
def snapValues (s : State) : SnapValues :=
  let q := if (activeSlot s).isSome then s.mge.seq else Seq.idle
  { device := s.device, mode := s.wmu.mode, lamp := s.lamp.state, presence := s.pdt.presence,
    lamBase := lamBaseOut s, cecValue := s.cec.value, cecLevel := levelOf s.cec.value,
    recovery := s.lamp.recovery, slots := s.slots.map JobSlot.state, k := q.k, att := q.att,
    ahead := s.rpu.queue.length, latches := s.rpu.latches, done := q.done,
    areas := s.atb.areas.map Area.state, gens := s.atb.areas.map genOut,
    banks := s.fst.banks.map Bank.state, head := s.rpu.head, tail := s.rpu.tail }

/-- SNAPSHOT takes effect (R173): its report is queued and every latch is cleared. -/
def snapNow (t : Taken) (s : State) : State :=
  let s := pushReport t.slot.1 t.tag (.snapshot (snapValues s)) s
  s.setRpu s.rpu.clearLatches

/-- SNAPSHOT (R173). -/
def runSnapshot (t : Taken) (s : State) : State := answer t .ok (snapNow t) s

/-! ### RESET_PART (R174 and the rules it names) -/

/-- The transaction is a job record fetch. -/
def isJobFetch (t : MTxn) : Bool := t.kind == .jobFetch

/-- An area at soft reset (R14). -/
def Area.softReset (a : Area) : Area :=
  { a with state := (match a.state with | .undefined => .undefined | _ => .needsClear), gen := 0, owner := none }

/-- A bank at soft reset (R93): BUILDING becomes INVALID. -/
def Bank.softReset (b : Bank) : Bank := if b.state = .building then Bank.invalid else b

/-- The report unit at soft reset (R174): the queue empty, a record write in progress unlinked, flags and latches
clear. -/
def Rpu.softReset (r : Rpu) : Rpu :=
  { r.clearLatches with queue := [], busy := r.busy.map fun _ => false, fLamp := false, fPresence := false, fCecLevel := false }

/-- Slots, areas, banks, the sequencer, the monitors and the counter at soft reset (R14, R30, R52, R58, R74, R93,
R99, R136, R146). -/
def softBlocks (s : State) : State :=
  let areas := s.atb.areas.map Area.softReset
  let s := stopIssuer isJobFetch (stopFinishing (stopSweep s))
  let s := s.setAtb { s.atb with areas := areas }
  let s := s.setSlots (Vector.replicate 4 JobSlot.empty)
  let s := s.setFst { s.fst with banks := s.fst.banks.map Bank.softReset }
  let s := putSeq Seq.idle (dropAttempt s)
  let s := (s.setLamp (Lamp.off s.lamp.cfg)).setPdt Pdt.off
  let s := s.setCec { value := 0, armed := false }
  (s.setRpu s.rpu.softReset).setDevice .hold

/-- The command slot whose LOAD_JOB is in execution (R58). -/
def loadingSlot (s : State) : Option (Fin 8) :=
  match s.cin.long with
  | some (.loadJob n _) => some n
  | _ => none

/-- The slots are open with no TAKEN write (R174). -/
def openAll : List (Fin 8) → State → State
  | [], s => s
  | n :: ns, s => openAll ns (putCmdSlot n { opened := true, late := false, takenWait := false } s)

/-- The command slots a soft reset completes with RESET (R174): a LOAD_JOB in execution, then the queue's in order. -/
def resetSlots (s : State) : List (Fin 8) := (loadingSlot s).toList ++ s.cin.queue

/-- The intake at soft reset (R174): those slots complete with RESET, and the RESET_PART with OK behind them. -/
def softIntake (n : Fin 8) (s : State) : State :=
  let rs := resetSlots s
  let ds := rs.map fun m => { slot := m, res := Result.reset, after := [] }
  let s := openAll s.cin.queue s
  let s := s.setCin { s.cin with queue := [], long := if (loadingSlot s).isSome then none else s.cin.long }
  pumpDone (setWaits (s.cin.waits ++ ds ++ [{ slot := n, res := .ok, after := rs }]) s)

/-- RESET_PART (R174). -/
def runResetPart (t : Taken) (s : State) : State := softIntake t.slot (softBlocks s)

/-! ### Job commands (R56, R57, R68, R70) -/

/-- The checks of LOAD_JOB (R56). -/
def checkLoad (t : Taken) (s : State) : Result :=
  let addr := t.arg 16 8
  checks [((toFin? 4 (t.arg 12 1)).isSome, .range),
    (decide (addr % 128 = 0), .align),
    (decide (addr + 128 ≤ Config.addressEnd), .range),
    ((match toFin? 4 (t.arg 12 1) with | some i => (vget s.slots i).state == .empty | none => false), .busy)]

/-- LOAD_JOB (R56): refused, or the slot enters FETCHING and its record's read is requested. The commands that R168 lets be
taken beside it may then be due, at the same event (log 42). -/
def runLoadJob (t : Taken) (s : State) : State :=
  let i := (toFin? 4 (t.arg 12 1)).getD 0
  let r := checkLoad t s
  if r = .ok then
    takeEvent (requestM .jobFetch .bulk false (t.arg 16 8) 128 []
      (setLong (some (.loadJob t.slot i)) (putSlot i { JobSlot.empty with state := .fetching } s)))
  else complete t.slot r s

/-- The slot that holds a valid record (R55). Table 4-2 has it hold a generation and a recorded OPEN only later: until the
generation step their fields are 0 (DESIGN CHOICE, log 51). -/
def JobSlot.loaded (j : JobRecord) : JobSlot :=
  { JobSlot.empty with state := .pending, job := some j, dlo := j.dlo, dhi := j.dhi }

/-- ABORT_JOB acts on slots PENDING to FINISHING (R68). -/
def SlotState.abortable : SlotState → Bool
  | .pending => true
  | .starting => true
  | .active => true
  | .finishing => true
  | _ => false

/-- RELEASE_JOB acts on DONE, FAILED and ABORTED (R70). -/
def SlotState.releasable : SlotState → Bool
  | .done => true
  | .failed => true
  | .aborted => true
  | _ => false

/-- ABORT_JOB (R68): the JOB_ENDED report is queued before the DONE write is requested. -/
def runAbortJob (t : Taken) (s : State) : State :=
  match toFin? 4 (t.arg 12 1) with
  | some i => answer t (checks [((vget s.slots i).state.abortable, .state)]) (abortSlot i .abort) s
  | none => answer t .range id s

/-- The areas after slot `i`'s ownership has ended (R9, R70). -/
def disown (i : Fin 4) (s : State) : State :=
  s.setAtb { s.atb with areas := s.atb.areas.map fun a => if a.owner = some i then { a with owner := none } else a }

/-- RELEASE_JOB takes effect (R70): the slot EMPTY, its area unowned, and a start decision. -/
def releaseNow (i : Fin 4) (s : State) : State := startDecision (disown i (putSlot i JobSlot.empty s))

/-- RELEASE_JOB (R70). -/
def runReleaseJob (t : Taken) (s : State) : State :=
  match toFin? 4 (t.arg 12 1) with
  | some i => answer t (checks [((vget s.slots i).state.releasable, .state)]) (releaseNow i) s
  | none => answer t .range id s

/-! ### The take (R168) -/

/-- The command a slot's CODE names is executed; a CODE that names none completes with UNKNOWN (R168). -/
def runCmd (c : Option Cmd) (t : Taken) (s : State) : State :=
  match c with
  | some .setSensor => runSetSensor t s
  | some .setLamp => runSetLamp t s
  | some .setLadder => runSetLadder t s
  | some .setWindow => runSetWindow t s
  | some .clearWindow => runClearWindow t s
  | some .setMatch => runSetMatch t s
  | some .defineArea => runDefineArea t s
  | some .setReports => runSetReports t s
  | some .flatStore => runFlatStore t s
  | some .flatFetch => runFlatFetch t s
  | some .flatDrop => runFlatDrop t s
  | some .run => runRun t s
  | some .hold => runHold t s
  | some .resume => runResume t s
  | some .snapshot => runSnapshot t s
  | some .resetPart => runResetPart t s
  | some .loadJob => runLoadJob t s
  | some .abortJob => runAbortJob t s
  | some .releaseJob => runReleaseJob t s
  | none => complete t.slot .unknown s

/-- The take of slot `n` (R168): it opens, its TAKEN write is requested, and the command its CODE names is executed. -/
def takeNow (n : Fin 8) (s : State) : State := runCmd (cmdOf s n) (takenOf s n) (openSlot n s)

/-- At most `k` takes that are due, each at once after the one before it (R168, R169). -/
def makeTakes : Nat → State → State
  | 0, s => s
  | k + 1, s =>
    match takes s with
    | some n => makeTakes k (takeNow n s)
    | none => s

/-- No take is due: what is queued waits for the next event of R168. -/
def noTakeDue (s : State) : State := s.setCin { s.cin with takeDue := false }

/-- Every take that is due is made (R168), and what is queued then waits for the next event. -/
def dueTakes (s : State) : State := noTakeDue (makeTakes s.cin.queue.length s)

/-- The take of a chosen slot whose CODE names `c` (R168): the slot opens, its TAKEN write is requested, and the
command is executed. Where the intake takes no such slot now, nothing happens. -/
def takeCmd (c : Option Cmd) (body : Taken → State → State) (s : State) : State :=
  match takes s with
  | some n => if cmdOf s n = c then body (takenOf s n) (openSlot n s) else s
  | none => s

/-! ### Meanings -/

/-- The take of the chosen slot, whatever its CODE (R168). -/
def execCommandTake (s : State) : Host.Outcome State Fault Refusal :=
  match takes s with
  | some n => .next (takeNow n s)
  | none => .next s

/-- The take of a slot whose CODE names no command (R168). -/
def execUnknownCode (s : State) : Host.Outcome State Fault Refusal :=
  .next (takeCmd none (fun t s => complete t.slot .unknown s) s)

/-- SET_SENSOR is taken (R17). -/
def execSetSensor (s : State) : Host.Outcome State Fault Refusal := .next (takeCmd (some .setSensor) runSetSensor s)

/-- SET_LAMP is taken (R133). -/
def execSetLamp (s : State) : Host.Outcome State Fault Refusal := .next (takeCmd (some .setLamp) runSetLamp s)

/-- SET_LADDER is taken (R49). -/
def execSetLadder (s : State) : Host.Outcome State Fault Refusal := .next (takeCmd (some .setLadder) runSetLadder s)

/-- SET_WINDOW is taken (R153). -/
def execSetWindow (s : State) : Host.Outcome State Fault Refusal := .next (takeCmd (some .setWindow) runSetWindow s)

/-- CLEAR_WINDOW is taken (R154). -/
def execClearWindow (s : State) : Host.Outcome State Fault Refusal := .next (takeCmd (some .clearWindow) runClearWindow s)

/-- SET_MATCH is taken (R155). -/
def execSetMatch (s : State) : Host.Outcome State Fault Refusal := .next (takeCmd (some .setMatch) runSetMatch s)

/-- DEFINE_AREA is taken (R8). -/
def execDefineArea (s : State) : Host.Outcome State Fault Refusal := .next (takeCmd (some .defineArea) runDefineArea s)

/-- SET_REPORTS is taken (R177). -/
def execSetReports (s : State) : Host.Outcome State Fault Refusal := .next (takeCmd (some .setReports) runSetReports s)

/-- FLAT_STORE is taken (R88). -/
def execFlatStore (s : State) : Host.Outcome State Fault Refusal := .next (takeCmd (some .flatStore) runFlatStore s)

/-- FLAT_FETCH is taken (R90). -/
def execFlatFetch (s : State) : Host.Outcome State Fault Refusal := .next (takeCmd (some .flatFetch) runFlatFetch s)

/-- FLAT_DROP is taken (R92). -/
def execFlatDrop (s : State) : Host.Outcome State Fault Refusal := .next (takeCmd (some .flatDrop) runFlatDrop s)

/-- RUN is taken (R171). -/
def execRun (s : State) : Host.Outcome State Fault Refusal := .next (takeCmd (some .run) runRun s)

/-- HOLD is taken (R172). -/
def execHold (s : State) : Host.Outcome State Fault Refusal := .next (takeCmd (some .hold) runHold s)

/-- RESUME is taken (R143). -/
def execResume (s : State) : Host.Outcome State Fault Refusal := .next (takeCmd (some .resume) runResume s)

/-- SNAPSHOT is taken (R173). -/
def execSnapshot (s : State) : Host.Outcome State Fault Refusal := .next (takeCmd (some .snapshot) runSnapshot s)

/-- RESET_PART is taken (R174). -/
def execResetPart (s : State) : Host.Outcome State Fault Refusal := .next (takeCmd (some .resetPart) runResetPart s)

/-- LOAD_JOB is taken (R56). -/
def execLoadJob (s : State) : Host.Outcome State Fault Refusal := .next (takeCmd (some .loadJob) runLoadJob s)

/-- ABORT_JOB is taken (R68). -/
def execAbortJob (s : State) : Host.Outcome State Fault Refusal := .next (takeCmd (some .abortJob) runAbortJob s)

/-- RELEASE_JOB is taken (R70). -/
def execReleaseJob (s : State) : Host.Outcome State Fault Refusal := .next (takeCmd (some .releaseJob) runReleaseJob s)

/-- The response to a job record read (R57): an error or an invalid record leaves the slot EMPTY, a valid record
makes it PENDING, a start decision event. -/
def execJobRecordResponse (txn : Nat) (beats : List RData) (s : State) : Host.Outcome State Fault Refusal :=
  match grantedKind txn s, s.cin.long with
  | some .jobFetch, some (.loadJob n i) =>
    if beats.length = 8 then
      let s := setLong none (memErr (anyErr beats) (answered txn s))
      if anyErr beats then .next (complete n .fetchError (putSlot i JobSlot.empty s))
      else
        match JobRecord.ofBytes (respBytes beats) with
        | some j => .next (startDecision (complete n .ok (putSlot i (JobSlot.loaded j) s)))
        | none => .next (complete n .range (putSlot i JobSlot.empty s))
    else .next s
  | _, _ => .next s

end Sys2Proof.Machine
end

