-- ==== Sys2Proof/Machine/Bus.lean ====
section
/-! DEFINITION. The S-port: writes by path, the capture hold, the release of responses in identifier order,
pass-through and illegal transactions, and the responses of SYS traffic (chapter 9). -/
namespace Sys2Proof.Machine

/-! ### Releasing responses (R148) -/

/-- The ready part of a read: the beats from `sent` on that may be returned now. -/
def SRead.ready (r : SRead) (pixelBeat : Capt → RenderBeat → RData) : List RData :=
  match r.path with
  | .memory (some beats) => beats.drop r.sent
  | .memory none => []
  | .part beats => beats.drop r.sent
  | .render c beats => ((beats.drop r.sent).takeWhile fun b => b.waits.isEmpty).map (pixelBeat c)

/-- Beats a read has in all. -/
def SRead.total (r : SRead) : Nat := r.hdr.beats

/-- Numbers the beats of a read from `k` on as outputs. -/
def readOuts (id no : Nat) : Nat → List RData → List SOut
  | _, [] => []
  | k, d :: ds => .readBeat id no k d :: readOuts id no (k + 1) ds

/-- The bytes of a rendered pixel's output (R109). -/
def pixelBytes (f : Fmt) (o : Nat) : List Byte :=
  match f with
  | .d16 => leBytes 2 o
  | .d8 => leBytes 1 o

/-- Pixels of a beat (R109). -/
def Fmt.perBeat : Fmt → Nat
  | .d16 => 8
  | .d8 => 16

/-- The bytes of a rendered beat, pixel after pixel; a pixel with no output is 0 (R109). -/
def renderBytes (f : Fmt) (b : RenderBeat) : List Byte :=
  (List.range f.perBeat).flatMap fun i => pixelBytes f (sget b.outs (b.first + i))

/-- A rendered beat as returned (R109, R111): an error beat carries data 0. -/
def renderBeat (no : Nat) (c : Capt) (b : RenderBeat) : RData :=
  if b.err then { data := 0, resp := partError no } else { data := beatOf (renderBytes c.fmt b), resp := .okay }

/-- Reads in the order their addresses were accepted: each returns its ready beats unless an earlier read of its
identifier is not fully returned (R148). `busy` are the identifiers that wait; the result is the reads that
remain and what was returned. -/
def releaseReadList : List Nat → List SRead → List SRead × List SOut
  | _, [] => ([], [])
  | busy, r :: rs =>
    if busy.contains r.hdr.id then
      let p := releaseReadList busy rs
      (r :: p.1, p.2)
    else
      let ds := r.ready (renderBeat r.no)
      let outs := readOuts r.hdr.id r.no r.sent ds
      if r.total ≤ r.sent + ds.length then
        let p := releaseReadList busy rs
        (p.1, outs ++ p.2)
      else
        let p := releaseReadList (r.hdr.id :: busy) rs
        ({ r with sent := r.sent + ds.length } :: p.1, outs ++ p.2)

/-- Returns every read beat that may be returned. -/
def releaseReads (s : State) : State :=
  let p := releaseReadList [] s.wmu.reads
  s.setWmu { s.wmu with reads := p.1, out := s.wmu.out ++ p.2 }

/-- A write is over: answered, and no M-port response is awaited for it. -/
def SWrite.isOver (w : SWrite) : Bool := w.sent && (!w.mReq || w.mDone.isSome)

/-- Writes in the order their addresses were accepted: each answer is given unless an earlier write of its
identifier has not been given its own (R148). -/
def releaseWriteList : List Nat → List SWrite → List SWrite × List SOut
  | _, [] => ([], [])
  | busy, w :: ws =>
    match w.sent, w.answer with
    | true, _ =>
      let p := releaseWriteList busy ws
      (w :: p.1, p.2)
    | false, some r =>
      if busy.contains w.hdr.id then
        let p := releaseWriteList busy ws
        (w :: p.1, p.2)
      else
        let p := releaseWriteList busy ws
        ({ w with sent := true } :: p.1, .writeResp w.hdr.id w.no r :: p.2)
    | false, none =>
      let p := releaseWriteList (w.hdr.id :: busy) ws
      (w :: p.1, p.2)

/-- Gives every write answer that may be given, and forgets the writes that are over. -/
def releaseWrites (s : State) : State :=
  let p := releaseWriteList [] s.wmu.writes
  s.setWmu { s.wmu with writes := p.1.filter fun w => !w.isOver, out := s.wmu.out ++ p.2 }

/-! ### S-port writes -/

/-- The S-port write of a number. -/
def sWrite? (no : Nat) (s : State) : Option SWrite := s.wmu.writes.find? fun w => w.no == no

/-- Replaces the S-port write of a number. -/
def putSWrite (no : Nat) (x : SWrite) (s : State) : State :=
  s.setWmu { s.wmu with writes := s.wmu.writes.map fun w => if w.no == no then x else w }

/-- Every data beat of a write has been taken. -/
def SWrite.full (w : SWrite) : Bool := decide (w.hdr.beats ≤ w.data.length)

/-- The S-port accepts a write's address on a path (R148, R156), numbered afresh. -/
def openWrite (h : TxnHdr) (path : WritePath) (s : State) : State :=
  let w : SWrite := { no := s.serial, hdr := h, path := path, data := [], mReq := false, mLock := false,
                      mDone := none, passed := false, answer := none, sent := false }
  (s.setSerial (s.serial + 1)).setWmu { s.wmu with writes := s.wmu.writes ++ [w] }

/-- Whose response the M-port write of an S-port write is: that of a capture window is a copy of its own kind. -/
def sysKind (w : SWrite) : MKind :=
  match w.path with
  | .capture _ => .capWrite w.no
  | _ => .sysWrite w.no

/-- The M-port write of an S-port write is requested as SYS traffic (R158, R159), with its exclusive attribute
where its beat is pass-through traffic (R148, log 27). -/
def requestSys (w : SWrite) (s : State) : State :=
  requestM (sysKind w) .sys true w.hdr.addr.toNat (w.hdr.beats * w.hdr.bytes) [] s

/-- A beat is forwarded with its strobes: the M-port write is requested at the first such beat (R157, R158). -/
def forwardBeat (w : SWrite) (d : WData) (pass : Bool) (s : State) : State :=
  let s := if w.mReq then s else requestSys w s
  putSWrite w.no { w with data := w.data ++ [d], mReq := true,
                          mLock := if w.mReq then w.mLock else pass && w.hdr.lock,
                          passed := w.passed || pass } s

/-- A captured beat of a TEE 0 job: its data go nowhere, and its M-port strobes are none (R158). -/
def swallowBeat (w : SWrite) (d : WData) (s : State) : State :=
  putSWrite w.no { w with data := w.data ++ [{ d with strb := 0 }] } s

/-- A write all of whose beats were captured is answered OKAY once its last beat is queued (R32, R158). -/
def answerCaptured (no : Nat) (s : State) : State :=
  match sWrite? no s with
  | some w => if w.full = true ∧ w.passed = false then putSWrite no { w with answer := some .okay } s else s
  | none => s

/-! ### Taking beats by path (R32, R33, R127, R157, R158) -/

/-- The TEE of the ACTIVE job. -/
def teeOn (s : State) : Bool :=
  match activeSlot s with
  | some i => match (vget s.slots i).job with | some j => decide (j.tee = 1) | none => false
  | none => false

/-- No job end is due for the ACTIVE slot (R65, log 19). -/
def noEndDue (s : State) : Bool :=
  match activeSlot s with
  | some i => (vget s.slots i).endDue.isNone
  | none => true

/-- The room a capture beat of `n` sample positions needs (R33). -/
def captureRoom (n : Nat) (s : State) : Bool :=
  decide (s.mge.pixels.length + n ≤ Config.pixelQueueDepth) && decide (2 ≤ s.free) && noEndDue s

/-- Samples enter the pixel queue in order (R32). -/
def enqueuePixels (ps : List Sample) (s : State) : State := s.setMge { s.mge with pixels := s.mge.pixels ++ ps }

/-- A CAPTURE window beat is taken: captured, or passed as plain memory (R32, R158). `base` is the window's base as the write
was classified, also where the entry has been set anew or cleared since (R156; DESIGN CHOICE, log 47). -/
def takeCapture (w : SWrite) (base : Nat) (b : WBeat) (s : State) : State :=
  if capturing s then
    let s := enqueuePixels (captureSamples (b.hdr.beatPos b.beat - base) b.w) s
    let s := if teeOn s then forwardBeat w b.w false s else swallowBeat w b.w s
    answerCaptured w.no s
  else forwardBeat w b.w true s

/-- A window 0 beat is taken: a command take that is due comes before it (R168, R188, log 42), then the beat is forwarded
and its strobed bytes are handed to the intake (R157). -/
def takePage (w : SWrite) (b : WBeat) (s : State) : State :=
  handBytes (strobedBytes (b.hdr.beatPos b.beat - pageBase s) b.w) (forwardBeat w b.w false (dueTakes s))

/-- A looked-at beat's samples go to the window's totals (R127 to R129), under the window's entry as it stands at the beat's
take: where that entry was set anew or cleared since the write was classified, R156 does not say which counts (DESIGN CHOICE,
log 47). -/
def lookAt (n : Fin 16) (b : WBeat) (s : State) : State :=
  match vget s.wmu.windows n with
  | some { kind := .monitor w h r e, base := base, size := _ } =>
    monitorAll n w h r e (monitorSamples (b.hdr.beatPos b.beat - base) b.w) s
  | _ => s

/-- A MONITOR window beat is taken: forwarded, and looked at in RUN under ACTIVE mode (R127). -/
def takeMonitor (w : SWrite) (n : Fin 16) (b : WBeat) (s : State) : State :=
  if lookedAt s then lookAt n b (forwardBeat w b.w false s) else forwardBeat w b.w true s

/-- A whole pass-through write's data are taken: it is forwarded unchanged (R159). -/
def takeWhole (w : SWrite) (ds : List WData) (s : State) : State :=
  putSWrite w.no { w with data := ds, mReq := true, mLock := w.hdr.lock, passed := true } (requestSys w s)

/-- An illegal write's beats are taken and discarded, and it is answered with an error (R148). -/
def takeIllegal (w : SWrite) (s : State) : State := putSWrite w.no { w with answer := some (partError w.no) } s

/-- The sample positions a capture beat yields (R32). -/
def beatPositions (base : Nat) (b : WBeat) : Nat := (captureSamples (b.hdr.beatPos b.beat - base) b.w).length

/-- A beat of a write is taken by the write's path. -/
def takeBeat (w : SWrite) (b : WBeat) (s : State) : State :=
  match w.path with
  | .capture base => takeCapture w base b s
  | .page => takePage w b s
  | .monitor n => takeMonitor w n b s
  | .pass => forwardBeat w b.w true s
  | .illegal => s

/-- What waits on the write data channel is taken. -/
def takeItem (it : HeldItem) (s : State) : State :=
  match it with
  | .hand off b => handBytes [(off, b)] (dueTakes s)
  | .beat no b => match sWrite? no s with | some w => takeBeat w b s | none => s
  | .whole no ds => match sWrite? no s with | some w => takeWhole w ds s | none => s
  | .illegal no => match sWrite? no s with | some w => takeIllegal w s | none => s

/-- The sample positions of an item that is a beat of a CAPTURE window; none for any other item. -/
def positions? (it : HeldItem) (s : State) : Option Nat :=
  match it with
  | .beat no b =>
    match sWrite? no s with
    | some w => match w.path with | .capture base => some (beatPositions base b) | _ => none
    | none => none
  | _ => none

/-- An item is held: a capture beat taken for capture that lacks room (R33). -/
def mustHold (it : HeldItem) (s : State) : Bool :=
  match positions? it s with
  | some n => capturing s && !captureRoom n s
  | none => false

/-- Replaces what waits on the write data channel. -/
def setHeld (l : List HeldItem) (s : State) : State := s.setWmu { s.wmu with held := l }

/-- Items wait on the write data channel, the first of them a held capture beat: CAPTURE_STALLED is set (R33, R150). -/
def stall (l : List HeldItem) (s : State) : State := setLatch .captureStalled (setHeld l s)

/-- The items behind a held beat are taken in order until one must be held; that one and those behind it wait (R33, R150,
R151). A command take that is due at an item is made before it (R168, R188, log 42). -/
def drain : List HeldItem → State → State
  | [], s => setHeld [] s
  | it :: its, s =>
    let s := dueTakes s
    if mustHold it s then stall (it :: its) s else drain its (takeItem it s)

/-- An item reaches the write data channel: behind a held one it waits, else it is taken or held (R33, R150). -/
def offer (it : HeldItem) (s : State) : State :=
  if s.wmu.held.isEmpty then releaseWrites (if mustHold it s then stall [it] s else setHeld [] (takeItem it s))
  else setHeld (s.wmu.held ++ [it]) s

/-- A byte of a window 0 write, handed alone (log 4): behind a held beat it waits with its write (R150). -/
def handAlone (off : Nat) (v : Byte) (s : State) : State :=
  if s.wmu.held.isEmpty then takeItem (.hand off v) s else setHeld (s.wmu.held ++ [.hand off v]) s

/-- The held capture beat's condition has cleared: room in both queues (R33). -/
def holdCleared (s : State) : Bool :=
  match s.wmu.held with
  | it :: _ =>
    match positions? it s with
    | some n => captureRoom n s
    | none => true
  | [] => false

/-! ### Presenting beats -/

/-- The path of a write by its address (Table 9-2, R156). -/
def writePathOf (s : State) (h : TxnHdr) : WritePath :=
  match windowAt s h.addr.toNat with
  | some n =>
    match vget s.wmu.windows n with
    | some w =>
      match w.kind with
      | .command => .page
      | .capture => .capture w.base
      | .result _ _ => .pass
      | .monitor .. => .monitor n
    | none => .pass
  | none => .pass

/-- Beats of a write that have been presented: those taken and those that wait. -/
def presented (w : SWrite) (s : State) : Nat :=
  w.data.length + (s.wmu.held.filter fun it => match it with | .beat no _ => no == w.no | _ => false).length

/-- The write data cursor after beat `j` of a write: none once its last beat has been presented. -/
def cursorAfter (no j : Nat) (h : TxnHdr) : Option Nat := if j + 1 < h.beats then some no else none

/-- Replaces the write data cursor. -/
def setCur (c : Option Nat) (s : State) : State := s.setWmu { s.wmu with cur := c }

/-- A beat is presented on the write data channel: beat 0 opens its write (log 8), a later beat must be the next of
the write being presented. The answer is the write's number; none where the bus cannot present this beat now. -/
def present (b : WBeat) (ours : WritePath → Bool) (s : State) : Option (Nat × State) :=
  if b.hdr.illegal = true ∨ b.hdr.beats ≤ b.beat then none
  else
    match b.beat, s.wmu.cur with
    | 0, none =>
      let p := writePathOf s b.hdr
      if ours p then some (s.serial, setCur (cursorAfter s.serial 0 b.hdr) (openWrite b.hdr p s)) else none
    | j + 1, some no =>
      match sWrite? no s with
      | some w =>
        if ours w.path = true ∧ w.hdr = b.hdr ∧ presented w s = j + 1 then
          some (no, setCur (cursorAfter no (j + 1) b.hdr) s)
        else none
      | none => none
    | _, _ => none

/-- A beat of a path is presented, and taken or held. -/
def beatStep (b : WBeat) (ours : WritePath → Bool) (s : State) : State :=
  match present b ours s with
  | some (no, s') => offer (.beat no b) s'
  | none => s

/-- The path is window 0's. -/
def WritePath.isPage : WritePath → Bool
  | .page => true
  | _ => false

/-- The path is a CAPTURE window's. -/
def WritePath.isCapture : WritePath → Bool
  | .capture _ => true
  | _ => false

/-- The path is a MONITOR window's. -/
def WritePath.isMonitor : WritePath → Bool
  | .monitor _ => true
  | _ => false

/-! ### Reads -/

/-- The S-port accepts a read on a path, numbered afresh. -/
def openRead (h : TxnHdr) (p : ReadPath) (s : State) : State :=
  let r : SRead := { no := s.serial, hdr := h, path := p, sent := 0 }
  (s.setSerial (s.serial + 1)).setWmu { s.wmu with reads := s.wmu.reads ++ [r] }

/-- The S-port read of a number. -/
def sRead? (no : Nat) (s : State) : Option SRead := s.wmu.reads.find? fun r => r.no == no

/-- Replaces the path of the S-port read of a number. -/
def putReadPath (no : Nat) (p : ReadPath) (s : State) : State :=
  s.setWmu { s.wmu with reads := s.wmu.reads.map fun r => if r.no == no then { r with path := p } else r }

/-- A pass-through read is taken and forwarded (R159). -/
def passRead (h : TxnHdr) (s : State) : State :=
  requestM (.sysRead s.serial) .sys false h.addr.toNat (h.beats * h.bytes) [] (openRead h (.memory none) s)

/-- An illegal read is answered with an error on every beat, data 0 (R148). -/
def illegalRead (h : TxnHdr) (s : State) : State :=
  releaseReads (openRead h (.part (List.replicate h.beats { data := 0, resp := partError s.serial })) s)

/-- A whole write is presented: pass-through or illegal. -/
def wholeWrite (h : TxnHdr) (p : WritePath) (it : Nat → HeldItem) (s : State) : State :=
  offer (it s.serial) (openWrite h p s)

/-- A whole write is pass-through traffic when presented: always outside the CAPTURE and MONITOR windows and
window 0, and in those two while nothing waits ahead of it (Table 9-2). -/
def wholePasses (s : State) (h : TxnHdr) : Bool :=
  match writePathOf s h with
  | .pass => true
  | _ => writePasses s h && s.wmu.held.isEmpty

/-! ### Meanings -/

/-- ISSUED handed for a slot (R166): the byte enters the shadow and is judged. -/
def execIssued (n : Fin 8) (s : State) : Host.Outcome State Fault Refusal := .next (handAlone (64 * n.1) 1 s)

/-- WITHDRAWN handed for a slot (R167). -/
def execWithdrawn (n : Fin 8) (s : State) : Host.Outcome State Fault Refusal := .next (handAlone (64 * n.1) 3 s)

/-- A byte of the REPORT_TAIL word handed (R180). -/
def execReportTail (off : Fin 4) (v : Byte) (s : State) : Host.Outcome State Fault Refusal :=
  .next (handAlone (tailOffset + off.1) v s)

/-- A write beat into window 0 (R157). -/
def execCommandPageWrite (b : WBeat) (s : State) : Host.Outcome State Fault Refusal :=
  .next (beatStep b WritePath.isPage s)

/-- A write beat into a CAPTURE window (R32, R33, R158). -/
def execCaptureBeat (b : WBeat) (s : State) : Host.Outcome State Fault Refusal :=
  .next (beatStep b WritePath.isCapture s)

/-- A write beat into a MONITOR window (R127). -/
def execMonitorBeat (b : WBeat) (s : State) : Host.Outcome State Fault Refusal :=
  .next (beatStep b WritePath.isMonitor s)

/-- The held capture beat is taken when both its conditions hold, judged again by R32, and the writes behind it
are taken in their order (R33, R150). -/
def execHeldCaptureBeatTaken (s : State) : Host.Outcome State Fault Refusal :=
  match s.wmu.held with
  | it :: its => if holdCleared s then .next (releaseWrites (drain its (takeItem it s))) else .next s
  | [] => .next s

/-- A pass-through transaction (R159), its write data with it (log 8). -/
def execPassThrough (t : Txn) (s : State) : Host.Outcome State Fault Refusal :=
  match t with
  | .read h => if h.illegal = false ∧ readPasses s h = true then .next (passRead h s) else .next s
  | .write h ds =>
    if h.illegal = false ∧ ds.length = h.beats ∧ s.wmu.cur = none ∧ wholePasses s h = true then
      .next (wholeWrite h .pass (fun no => .whole no ds) s)
    else .next s

/-- An illegal transaction (R148). -/
def execIllegalTransaction (write : Bool) (h : TxnHdr) (s : State) : Host.Outcome State Fault Refusal :=
  if h.illegal then
    if write then
      if s.wmu.cur = none then .next (wholeWrite h .illegal .illegal s) else .next s
    else .next (illegalRead h s)
  else .next s

/-- The M-port's response to a SYS write that returns it to the S-port (R158, R159). -/
def returnWrite (txn no : Nat) (r : Resp) (s : State) : State :=
  match sWrite? no s with
  | some w => releaseWrites (putSWrite no { w with mDone := some r, answer := some r } (answered txn s))
  | none => s

/-- An S-port write whose data are all taken: only then can memory have answered it. -/
def fullWrite (no : Nat) (s : State) : Bool :=
  match sWrite? no s with
  | some w => w.full
  | none => false

/-- Some beat of the write passed as plain memory: then its response is the M-port's (R158). -/
def mixedWrite (no : Nat) (s : State) : Bool :=
  match sWrite? no s with
  | some w => w.passed
  | none => false

/-- The M-port response to pass-through traffic, command page and monitor writes, and capture writes with a passed
beat: returned to the S-port as it is (R158, R159). -/
def execPassThroughResponse (txn : Nat) (m : MResp) (s : State) : Host.Outcome State Fault Refusal :=
  match grantedKind txn s, m with
  | some (.sysRead no), .read beats =>
    match sRead? no s with
    | some r =>
      if beats.length = r.total then
        .next (releaseReads (putReadPath no (.memory (some beats)) (answered txn s)))
      else .next s
    | none => .next s
  | some (.sysWrite no), .write r => if fullWrite no s then .next (returnWrite txn no r s) else .next s
  | some (.capWrite no), .write r =>
    if fullWrite no s && mixedWrite no s then .next (returnWrite txn no r s) else .next s
  | _, _ => .next s

/-- The response to the teed copy of a write all of whose beats were captured: absorbed; an error sets
MEMERR_SEEN (R158, R163). -/
def execTeedCopyResponse (txn : Nat) (r : Resp) (s : State) : Host.Outcome State Fault Refusal :=
  match grantedKind txn s with
  | some (.capWrite no) =>
    match sWrite? no s with
    | some w =>
      if w.full = true ∧ w.passed = false then
        .next (releaseWrites (putSWrite no { w with mDone := some r } (memErr (respErr r) (answered txn s))))
      else .next s
    | none => .next s
  | _ => .next s

/-- The response to a transaction whose issuer has stopped is absorbed; an error in it sets MEMERR_SEEN (R163). -/
def execStoppedIssuerResponse (txn : Nat) (m : MResp) (s : State) : Host.Outcome State Fault Refusal :=
  match grantedKind txn s with
  | some (.stopped latches) => .next (memErr (latches && mrespErr m) (answered txn s))
  | _ => .next s

end Sys2Proof.Machine
end

