-- ==== Sys2Proof/Machine/Render.lean ====
section
/-! DEFINITION. Rendered reads of result windows (sections 6.4 and 6.5). -/
namespace Sys2Proof.Machine

/-- The values a render captures at its take (R108). -/
def captureOf (s : State) (i : Fin 4) (j : JobRecord) (winBase : Nat) (f : Fmt) : Capt :=
  let x := vget s.slots i
  { gen := x.gen, opn := x.opn, w := j.w, h := j.h, render := j.render, areaBase := areaBaseOf s j,
    winBase := winBase, fmt := f, dlo := x.dlo, dhi := x.dhi }

/-- The first pixel of the beat at an aligned position (R109). -/
def firstPixel (c : Capt) (pos : Nat) : Nat :=
  match c.fmt with
  | .d16 => (pos - c.winBase) / 2
  | .d8 => pos - c.winBase

/-- The pixels of a beat that lie inside the image (R109). -/
def insidePixels (c : Capt) (first : Nat) : List Nat :=
  ((List.range c.fmt.perBeat).map fun i => first + i).filter fun p => decide (p < c.w * c.h)

/-- Beat `b` of a rendered read, its pixels' cells awaited. -/
def startBeat (c : Capt) (h : TxnHdr) (b : Nat) : RenderBeat :=
  let first := firstPixel c (h.beatPos b)
  { first := first, waits := insidePixels c first, outs := [], err := false }

/-- The cell reads of a beat's pixels reach the cell port, in ascending pixel order (R110, log 40). -/
def readCells (c : Capt) (no b : Nat) : List Nat → State → State
  | [], s => s
  | p :: ps, s => readCells c no b ps (beginAccess (.render no b p) (c.areaBase + 8 * p) 8 s)

/-- The cell reads of every beat, beat after beat from `b` on (log 40). -/
def readBeats (c : Capt) (no : Nat) : Nat → List RenderBeat → State → State
  | _, [], s => s
  | b, x :: xs, s => readBeats c no (b + 1) xs (readCells c no b x.waits s)

/-- A rendered read is taken (R108 to R110). That the cell reads of every pixel of every beat reach the cell port at the
take, beat after beat, is the model's choice: the spec does not say when they do (log 40). -/
def renderRead (c : Capt) (h : TxnHdr) (s : State) : State :=
  let beats := (List.range h.beats).map (startBeat c h)
  releaseReads (readBeats c s.serial 0 beats (openRead h (.render c beats) s))

/-- A beat after the answer to one of its cells (R110, R111). -/
def RenderBeat.answer (b : RenderBeat) (c : Capt) (pix : Nat) (word : BitVec 64) (err : Bool) : RenderBeat :=
  { b with waits := b.waits.filter fun p => p != pix,
           outs := if err then b.outs else sput b.outs pix (renderOut c word),
           err := b.err || err }

/-- The list with entry `n` changed. -/
def mapAt {α : Type} (f : α → α) : Nat → List α → List α
  | _, [] => []
  | 0, x :: xs => f x :: xs
  | n + 1, x :: xs => x :: mapAt f n xs

/-- The answer to a render's cell read goes to its beat (R110, R111). -/
def answerCell (no b pix : Nat) (word : BitVec 64) (err : Bool) (s : State) : State :=
  match sRead? no s with
  | some r =>
    match r.path with
    | .render c beats => putReadPath no (.render c (mapAt (fun x => x.answer c pix word err) b beats)) s
    | _ => s
  | none => s

/-- A read of a RESULT window that is rendered (R107 to R110). -/
def execResultRead (h : TxnHdr) (s : State) : Host.Outcome State Fault Refusal :=
  match windowOf s h with
  | some { kind := .result i f, base := base, size := _ } =>
    match (vget s.slots i).job with
    | some j =>
      if h.illegal = false ∧ renders s i = true then .next (renderRead (captureOf s i j base f) h s) else .next s
    | none => .next s
  | _ => .next s

/-- The response to a render's cell read (R110, R111). -/
def execRenderCellResponse (txn : Nat) (d : RData) (s : State) : Host.Outcome State Fault Refusal :=
  match grantedKind txn s with
  | some (.cellRead n) =>
    match access? n s with
    | some a =>
      match a.use with
      | .render no b pix =>
        let err := respErr d.resp
        let s := memErr err (answered txn s)
        .next (releaseReads (endAccess n (answerCell no b pix (cellWord a.addr d.data) err s)))
      | _ => .next s
    | none => .next s
  | _ => .next s

end Sys2Proof.Machine
end

