-- ==== Sys2Proof/Machine/Arbiter.lean ====
section
/-! DEFINITION. The memory port arbiter's grants and the timebase's tick (sections 9.6 and 7.1). -/
namespace Sys2Proof.Machine

/-! ### Choosing (R162) -/

/-- The channel a transaction needs can accept it. -/
def MTxn.channelReady (t : MTxn) (rd wr : Bool) : Bool := if t.write then wr else rd

/-- The queue of a class. -/
def Mpa.queueOf (m : Mpa) : MClass → List MTxn
  | .note => m.note
  | .sys => m.sys
  | .cell => m.cell
  | .bulk => m.bulk

/-- The candidate of a class, where its channel can accept it: the head of its queue (R161, R162). -/
def Mpa.candidate (m : Mpa) (rd wr : Bool) (c : MClass) : Option MTxn :=
  match m.queueOf c with
  | t :: _ => if t.channelReady rd wr then some t else none
  | [] => none

/-- The rotation's order from the class last granted (R162); SYS follows BULK. -/
def rotation : MClass → List MClass
  | .sys => [.cell, .bulk, .sys]
  | .cell => [.bulk, .sys, .cell]
  | .bulk => [.sys, .cell, .bulk]
  | .note => [.sys, .cell, .bulk]

/-- The class granted (R162): NOTE first, else the first of the rotation with a candidate. -/
def Mpa.choose (m : Mpa) (rd wr : Bool) : Option MClass :=
  (.note :: rotation m.last).find? fun c => (m.candidate rd wr c).isSome

/-- A class's candidate leaves its queue. -/
def Mpa.dequeue (m : Mpa) : MClass → Mpa
  | .note => { m with note := m.note.drop 1 }
  | .sys => { m with sys := m.sys.drop 1 }
  | .cell => { m with cell := m.cell.drop 1 }
  | .bulk => { m with bulk := m.bulk.drop 1 }

/-- The class last granted after a grant: a grant to NOTE leaves the rotation where it stood (R162). -/
def lastAfter (last c : MClass) : MClass :=
  match c with
  | .note => last
  | _ => c

/-- The arbiter after granting `t` of class `c`. -/
def Mpa.grant (m : Mpa) (c : MClass) (t : MTxn) : Mpa :=
  { m.dequeue c with granted := m.granted ++ [t], last := lastAfter m.last c }

/-! ### What follows a grant -/

/-- A transaction as it is issued: a DONE write carries the mark as it stands at its grant (R167, R169, log 24). -/
def issuedAs (s : State) (t : MTxn) : MTxn :=
  match t.kind with
  | .done n res _ =>
    let late := (vget s.cin.slots n).late
    { t with kind := .done n res late, bytes := doneBytes res late }
  | _ => t

/-- The sweep requests its next burst, if one is left (R11). -/
def sweepNext (s : State) : State :=
  match s.atb.sweep with
  | some w =>
    let a := vget s.atb.areas w.area
    if sweepBurst * w.requested < a.size then
      setSweep (some { w with requested := w.requested + 1 }) (requestSweep a w.requested s)
    else s
  | none => s

/-- A granted cell read of the scan lets it request its next burst (R95). -/
def scanGranted (n : Nat) (s : State) : State :=
  match access? n s with
  | some a => if a.isScan then scanRequest s else s
  | none => s

/-- What a grant lets its issuer do next (R11, R89, R91, R95, R178). -/
def afterGrant (t : MTxn) (s : State) : State :=
  match t.kind with
  | .head _ _ false => s.setRpu { s.rpu with headWait := false }
  | .sweep => sweepNext s
  | .flatWrite => storeNext s
  | .flatGain _ _ => fetchNext s
  | .cellRead n => scanGranted n s
  | _ => s

/-- A class's candidate is granted (R162). -/
def grantTo (c : MClass) (t : MTxn) (s : State) : State :=
  afterGrant t (s.setMpa (s.mpa.grant c (issuedAs s t)))

/-! ### The timebase (R114) -/

/-- The active job's two timers at a tick (R43, R50). -/
def tickJob (now : Time) (s : State) : State :=
  match running s with
  | some (_, j) =>
    let q := s.mge.seq
    putSeq { q with gap := q.gap.tick now j.frameGapMs, wait := q.wait.tick now j.expWaitMs } s
  | none => s

/-- The lamp's three timers at a tick (R61, R120, R122); the guard time is noted when its condition first holds in
STEADY. -/
def Lamp.tick (l : Lamp) (now : Time) : Lamp :=
  let g := l.steady.tick now l.cfg.guardMs
  { l with settle := l.settle.tick now l.cfg.settleMs, last := l.last.tick now l.cfg.staleMs, steady := g,
           guardDue := l.guardDue || (l.state == .steady && g.held && !l.steady.held) }

/-! ### Meanings -/

/-- The arbiter grants the M-port (R162). The operands say which address channels can accept a transaction. -/
def execMpaGrant (rdReady wrReady : Bool) (s : State) : Host.Outcome State Fault Refusal :=
  match s.mpa.choose rdReady wrReady with
  | some c =>
    match s.mpa.candidate rdReady wrReady c with
    | some t => .next (grantTo c t s)
    | none => .next s
  | none => .next s

/-- A millisecond passes (R114): the timebase advances by 1, wrapping, and conditions that now hold are kept. -/
def execTimebaseTick (s : State) : Host.Outcome State Fault Refusal :=
  let s := s.setTime (s.time + 1)
  .next (tickJob s.time (s.setLamp (s.lamp.tick s.time)))

end Sys2Proof.Machine
end

