-- ==== Sys2Proof/Machine/Resets.lean ====
section
/-! DEFINITION. Pin reset and the release of RESET_N (R75, R152, R164, R183). -/
namespace Sys2Proof.Machine

/-- An error in the response to an abandoned transaction sets MEMERR_SEEN: it is of class NOTE, CELL or BULK, or a
teed copy (R163, log 15). -/
def latchesWhenAbandoned (s : State) (t : MTxn) : Bool :=
  match t.kind with
  | .stopped l => l
  | .sysRead _ => false
  | .sysWrite _ => false
  | .capWrite no => !mixedWrite no s
  | _ => true

/-- A granted transaction after pin reset: abandoned, its response to be absorbed (R164). -/
def abandon (s : State) (t : MTxn) : MTxn := { t with kind := .stopped (latchesWhenAbandoned s t) }

/-- The part at pin reset: every block at its pin reset value. What is not the part's stays: the transactions the DRAM
controller still has to answer, the numbers given out, and the responses returned before. -/
def pinResetState (s : State) : State :=
  { State.reset with
    mpa := { Mpa.reset with granted := s.mpa.granted.map (abandon s) }
    wmu := { Wmu.reset with out := s.wmu.out }
    serial := s.serial, freeIdx := s.freeIdx, pending := s.pending }

/-- Pin reset: RESET_N is asserted (R75, R164, R183). -/
def execPinReset (s : State) : Host.Outcome State Fault Refusal := .next (pinResetState s)

/-- The release of RESET_N samples CPSEL, and with it window 0's base (R152). -/
def execResetNRelease (cpsel : BitVec 16) (s : State) : Host.Outcome State Fault Refusal :=
  if s.resetN then .next s
  else
    .next ((s.setResetN true).setWmu
      { s.wmu with windows := vput s.wmu.windows 0 (some (Win.page (cpsel.toNat * 2 ^ 24))) })

end Sys2Proof.Machine
end

