-- ==== Sys2Proof/Machine/Dispatch.lean ====
section
/-! DEFINITION. The dispatch: one arm per command, each a direct call of its meaning. -/
namespace Sys2Proof.Machine

def exec (i : Instr) (s : State) : Host.Outcome State Fault Refusal :=
  match i with
  | .pinReset => Sys2Proof.Machine.execPinReset s
  | .resetNRelease cpsel => Sys2Proof.Machine.execResetNRelease cpsel s
  | .commandPageWrite b => Sys2Proof.Machine.execCommandPageWrite b s
  | .issued slot => Sys2Proof.Machine.execIssued slot s
  | .withdrawn slot => Sys2Proof.Machine.execWithdrawn slot s
  | .reportTail off value => Sys2Proof.Machine.execReportTail off value s
  | .commandTake => Sys2Proof.Machine.execCommandTake s
  | .unknownCode => Sys2Proof.Machine.execUnknownCode s
  | .takenWriteResponse txn r => Sys2Proof.Machine.execTakenWriteResponse txn r s
  | .doneWriteResponse txn r => Sys2Proof.Machine.execDoneWriteResponse txn r s
  | .setSensor => Sys2Proof.Machine.execSetSensor s
  | .setLamp => Sys2Proof.Machine.execSetLamp s
  | .setLadder => Sys2Proof.Machine.execSetLadder s
  | .setWindow => Sys2Proof.Machine.execSetWindow s
  | .clearWindow => Sys2Proof.Machine.execClearWindow s
  | .setMatch => Sys2Proof.Machine.execSetMatch s
  | .defineArea => Sys2Proof.Machine.execDefineArea s
  | .setReports => Sys2Proof.Machine.execSetReports s
  | .setReportsHeadResponse txn r => Sys2Proof.Machine.execSetReportsHeadResponse txn r s
  | .flatStore => Sys2Proof.Machine.execFlatStore s
  | .flatStoreResponse txn r => Sys2Proof.Machine.execFlatStoreResponse txn r s
  | .flatFetch => Sys2Proof.Machine.execFlatFetch s
  | .flatFetchHeaderResponse txn beats => Sys2Proof.Machine.execFlatFetchHeaderResponse txn beats s
  | .flatFetchGainResponse txn beats => Sys2Proof.Machine.execFlatFetchGainResponse txn beats s
  | .flatDrop => Sys2Proof.Machine.execFlatDrop s
  | .run => Sys2Proof.Machine.execRun s
  | .hold => Sys2Proof.Machine.execHold s
  | .resume => Sys2Proof.Machine.execResume s
  | .snapshot => Sys2Proof.Machine.execSnapshot s
  | .resetPart => Sys2Proof.Machine.execResetPart s
  | .loadJob => Sys2Proof.Machine.execLoadJob s
  | .jobRecordResponse txn beats => Sys2Proof.Machine.execJobRecordResponse txn beats s
  | .abortJob => Sys2Proof.Machine.execAbortJob s
  | .releaseJob => Sys2Proof.Machine.execReleaseJob s
  | .jobStarted => Sys2Proof.Machine.execJobStarted s
  | .jobEnded => Sys2Proof.Machine.execJobEnded s
  | .sweepBurstResponse txn r => Sys2Proof.Machine.execSweepBurstResponse txn r s
  | .stoppedIssuerResponse txn m => Sys2Proof.Machine.execStoppedIssuerResponse txn m s
  | .captureBeat b => Sys2Proof.Machine.execCaptureBeat b s
  | .heldCaptureBeatTaken => Sys2Proof.Machine.execHeldCaptureBeatTaken s
  | .teedCopyResponse txn r => Sys2Proof.Machine.execTeedCopyResponse txn r s
  | .sampleTake => Sys2Proof.Machine.execSampleTake s
  | .mergeReadResponse txn d => Sys2Proof.Machine.execMergeReadResponse txn d s
  | .mergeWriteResponse txn r => Sys2Proof.Machine.execMergeWriteResponse txn r s
  | .attemptEndTaken => Sys2Proof.Machine.execAttemptEndTaken s
  | .frameGapExpiry => Sys2Proof.Machine.execFrameGapExpiry s
  | .exposureWaitExpiry => Sys2Proof.Machine.execExposureWaitExpiry s
  | .finishScanResponse txn beats => Sys2Proof.Machine.execFinishScanResponse txn beats s
  | .limitTest => Sys2Proof.Machine.execLimitTest s
  | .gainComputationComplete => Sys2Proof.Machine.execGainComputationComplete s
  | .resultRead h => Sys2Proof.Machine.execResultRead h s
  | .renderCellResponse txn d => Sys2Proof.Machine.execRenderCellResponse txn d s
  | .monitorBeat b => Sys2Proof.Machine.execMonitorBeat b s
  | .presenceChange v => Sys2Proof.Machine.execPresenceChange v s
  | .stalenessExpiry => Sys2Proof.Machine.execStalenessExpiry s
  | .guardTime => Sys2Proof.Machine.execGuardTime s
  | .recoveryComplete => Sys2Proof.Machine.execRecoveryComplete s
  | .coalescedReportServed f => Sys2Proof.Machine.execCoalescedReportServed f s
  | .reportRecordWrite => Sys2Proof.Machine.execReportRecordWrite s
  | .reportRecordResponse txn r => Sys2Proof.Machine.execReportRecordResponse txn r s
  | .headWriteResponse txn r => Sys2Proof.Machine.execHeadWriteResponse txn r s
  | .passThrough t => Sys2Proof.Machine.execPassThrough t s
  | .passThroughResponse txn m => Sys2Proof.Machine.execPassThroughResponse txn m s
  | .illegalTransaction write h => Sys2Proof.Machine.execIllegalTransaction write h s
  | .mpaGrant rdReady wrReady => Sys2Proof.Machine.execMpaGrant rdReady wrReady s
  | .timebaseTick => Sys2Proof.Machine.execTimebaseTick s

end Sys2Proof.Machine
end

