-- ==== Sys2Proof/Safety.lean ====
section
/-! DEFINITION. What a run of the part keeps and what a step leaves alone, in the terms the statements use. -/
namespace Sys2Proof.Machine

/-! ### Frames -/

/-- The fields of the state, as names. -/
inductive Field where
  | resetN | device | time | atb | mge | tsa | fst | scan | slots | lamp | pdt | cec | wmu | mpa | cin | rpu
  | serial | freeIdx | pending
deriving DecidableEq, Repr

/-- Two states agree on a field. -/
def Same (f : Field) (s t : State) : Prop :=
  match f with
  | .resetN => t.resetN = s.resetN
  | .device => t.device = s.device
  | .time => t.time = s.time
  | .atb => t.atb = s.atb
  | .mge => t.mge = s.mge
  | .tsa => t.tsa = s.tsa
  | .fst => t.fst = s.fst
  | .scan => t.scan = s.scan
  | .slots => t.slots = s.slots
  | .lamp => t.lamp = s.lamp
  | .pdt => t.pdt = s.pdt
  | .cec => t.cec = s.cec
  | .wmu => t.wmu = s.wmu
  | .mpa => t.mpa = s.mpa
  | .cin => t.cin = s.cin
  | .rpu => t.rpu = s.rpu
  | .serial => t.serial = s.serial
  | .freeIdx => t.freeIdx = s.freeIdx
  | .pending => t.pending = s.pending

/-- Every field but those listed is unchanged. -/
def Frame (changed : List Field) (s t : State) : Prop := ∀ f, f ∉ changed → Same f s t

/-! ### Commands of the command page -/

/-- An event of R168 has just been judged: a take is due exactly when a queued command meets its conditions. -/
def TakeJudged (t : State) : Prop := t.cin.takeDue = (takable t).isSome

/-- The command slot `n` has been taken (R168): it has left the queue and is open, its TAKEN write is requested, and the
shadow and the other slots stand. -/
def TakenNow (n : Fin 8) (s t : State) : Prop :=
  t.cin.queue = s.cin.queue.filter (fun m => m != n) ∧
  t.cin.shadow = s.cin.shadow ∧
  cmdSlot t n = { opened := true, late := false, takenWait := true } ∧
  (∀ m, m ≠ n → cmdSlot t m = cmdSlot s m) ∧
  { id := s.serial, kind := .taken n, cls := .note, write := true, addr := pageBase s + 64 * n.1, len := 4,
    bytes := takenBytes } ∈ t.mpa.note

/-- The arbiter has gained requests at the tails of its queues, and nothing else of it has changed (R161). -/
def OnlyRequests (s t : State) : Prop :=
  ∃ a b c d, t.mpa = { s.mpa with note := s.mpa.note ++ a, sys := s.mpa.sys ++ b, cell := s.mpa.cell ++ c,
                                  bulk := s.mpa.bulk ++ d }

/-- The command in slot `n` has been taken and has completed with a result: its DONE write waits for the answer to its
TAKEN write, and the next take is due if its conditions are met (R168, R169). -/
def Completes (n : Fin 8) (r : Result) (s t : State) : Prop :=
  TakenNow n s t ∧ t.cin.long = s.cin.long ∧ { slot := n, res := r, after := [] } ∈ t.cin.waits ∧ TakeJudged t

/-- A command that has been in execution completes with a result (R169): no command is in execution, and the slot's DONE
write waits for the answer to its TAKEN write, or is requested at once where that has come; and the next take is due if its
conditions are met (R168). -/
def DoneFollows (n : Fin 8) (r : Result) (s t : State) : Prop :=
  t.cin.long = none ∧ TakeJudged t ∧
  ((cmdSlot s n).takenWait = true → { slot := n, res := r, after := [] } ∈ t.cin.waits) ∧
  ((cmdSlot s n).takenWait = false → ∃ x ∈ t.mpa.note, x.kind = .done n r (cmdSlot s n).late ∧ x.write = true ∧
    x.addr = pageBase s + 64 * n.1 ∧ x.len = 8 ∧ x.bytes = doneBytes r (cmdSlot s n).late)

/-- The row of the table for a command of the command page. -/
def Cmd.row : Cmd → Instr
  | .setSensor => .setSensor
  | .setLamp => .setLamp
  | .setLadder => .setLadder
  | .setWindow => .setWindow
  | .clearWindow => .clearWindow
  | .setMatch => .setMatch
  | .defineArea => .defineArea
  | .setReports => .setReports
  | .flatStore => .flatStore
  | .flatFetch => .flatFetch
  | .flatDrop => .flatDrop
  | .run => .run
  | .hold => .hold
  | .resume => .resume
  | .snapshot => .snapshot
  | .resetPart => .resetPart
  | .loadJob => .loadJob
  | .abortJob => .abortJob
  | .releaseJob => .releaseJob

/-- A range meets no window in use but perhaps window `e` (R8, R153, R177). -/
def ClearOfWindows (s : State) (e : Option (Fin 16)) (base size : Nat) : Prop :=
  ∀ i w, e ≠ some i → vget s.wmu.windows i = some w → ¬ (base < w.base + w.size ∧ w.base < base + size)

/-- A range meets no defined area but perhaps area `e` (R8, R153, R177). -/
def ClearOfAreas (s : State) (e : Option (Fin 4)) (base size : Nat) : Prop :=
  ∀ i, e ≠ some i → (vget s.atb.areas i).state ≠ .undefined →
    ¬ (base < (vget s.atb.areas i).base + (vget s.atb.areas i).size ∧ (vget s.atb.areas i).base < base + size)

/-- A range does not meet the report ring (R8, R88, R153). -/
def ClearOfRing (s : State) (base size : Nat) : Prop :=
  ∀ r, s.rpu.ring = some r → ¬ (base < r + 4096 ∧ r < base + size)

/-- A write of the S-port that has not been answered. -/
def SWrite.Unanswered (w : SWrite) : Prop := w.answer = none ∧ w.sent = false

/-! ### The cell port and the stopped issuers -/

/-- An access of the cell port waits, and no access that began before it shares a byte with it, one of the two a merge: its
read may go (R4). -/
def CellAcc.mayGo (before : List CellAcc) (a : CellAcc) : Bool :=
  decide (a.stage = .waiting ∧ ∀ d ∈ before,
    ¬ ((d.isMerge = true ∨ a.isMerge = true) ∧ d.addr < a.addr + a.len ∧ a.addr < d.addr + d.len))

/-- The accesses of a port whose reads may go, in the order they began, those before them given. -/
def goersFrom : List CellAcc → List CellAcc → List CellAcc
  | _, [] => []
  | before, a :: as => (if a.mayGo before then [a] else []) ++ goersFrom (before ++ [a]) as

/-- The port with each access whose read may go come to its read, those before them given. -/
def portFrom : List CellAcc → List CellAcc → List CellAcc
  | _, [] => []
  | before, a :: as => (if a.mayGo before then { a with stage := .reading } else a) :: portFrom (before ++ [a]) as

/-- The port with each access whose read may go come to its read (R4). -/
def portOn (p : List CellAcc) : List CellAcc := portFrom [] p

/-- The CELL reads of a port's accesses that may go, numbered from `n`: each at its own address, of its own length. -/
def readsOf (n : Nat) (p : List CellAcc) : List MTxn :=
  (goersFrom [] p).mapIdx fun k a => ⟨n + k, .cellRead a.no, .cell, false, a.addr, a.len, []⟩

/-- From a port, an arbiter and a next number, every access that waits for nothing has come to its read, and that read has
been requested of class CELL; nothing else of the arbiter has changed (R4, R161). -/
def PortGoesOn (p : List CellAcc) (m : Mpa) (n : Nat) (t : State) : Prop :=
  t.mge.port = portOn p ∧ t.mpa = { m with cell := m.cell ++ readsOf n p } ∧ t.serial = n + (readsOf n p).length

/-- A merge that goes on unhanded (R30). -/
def CellAcc.unhanded (a : CellAcc) : CellAcc :=
  match a.use with
  | .merge m => { a with use := .merge { m with live := false } }
  | _ => a

/-- Two arbiters agree but for NOTE requests added at the tail. -/
def NotesAdded (m m' : Mpa) : Prop := ∃ l, m' = { m with note := m.note ++ l }

/-- An arbiter with an issuer stopped: its requests are gone, and its granted transactions are those of a stopped issuer, whose
responses are absorbed (R163, R164). -/
def Mpa.issuerStopped (m : Mpa) (p : MTxn → Bool) : Mpa :=
  { m with cell := m.cell.filter (fun x => !p x), bulk := m.bulk.filter (fun x => !p x)
           granted := m.granted.map fun x => if p x then { x with kind := .stopped true } else x }

/-- A sweep in progress has stopped: its area is NEEDS_CLEAR with generation 0 (log 50) and the same range and owner, every other area
stands, its requests are withdrawn, and its granted bursts are left to be absorbed (R13, R163). With no sweep in progress
the areas stand and nothing is withdrawn. NOTE requests may have been added. -/
def SweepStopped (s t : State) : Prop :=
  (∀ w, s.atb.sweep = some w →
    t.atb = { areas := vput s.atb.areas w.area { vget s.atb.areas w.area with state := .needsClear, gen := 0 },
              sweep := none } ∧
    NotesAdded (s.mpa.issuerStopped fun x => decide (x.kind = .sweep)) t.mpa) ∧
  (s.atb.sweep = none → t.atb = s.atb ∧ NotesAdded s.mpa t.mpa)

/-- The accesses of the cell port that are not the finish scan's. -/
def notScan (p : List CellAcc) : List CellAcc := p.filter fun a => decide (a.use ≠ .scan)

/-- A transaction is a read of an access of the finish scan. -/
def scanRead (p : List CellAcc) (x : MTxn) : Bool := p.any fun a => decide (a.use = .scan ∧ x.kind = .cellRead a.no)

/-- The finish scan has stopped: IDLE, its accesses gone from the cell port, its requests withdrawn and its granted reads left to
be absorbed (R99, R163), and those that waited for it go on. NOTE requests may have been added. -/
def ScanStopped (s t : State) : Prop :=
  t.scan = Scan.idle ∧ t.mge.port = portOn (notScan s.mge.port) ∧
  ∃ n, let m := s.mpa.issuerStopped (scanRead s.mge.port)
    NotesAdded { m with cell := m.cell ++ readsOf n (notScan s.mge.port) } t.mpa

/-! ### Windows and records -/

/-- An address lies in a window (R156). -/
def Win.Holds (w : Win) (a : Nat) : Prop := w.base ≤ a ∧ a < w.base + w.size

/-- Window `i` is in use as `w`, and a transaction's address lies in it. -/
def FallsIn (s : State) (h : TxnHdr) (i : Fin 16) (w : Win) : Prop :=
  vget s.wmu.windows i = some w ∧ w.Holds h.addr.toNat

/-- A transaction's address lies in no window in use. -/
def FallsInNone (s : State) (h : TxnHdr) : Prop := ∀ i w, ¬ FallsIn s h i w

/-- A structure in memory holds the fields listed as offset, width and value, each little-endian at its width, and 0 in every
byte of no field (chapter 11). -/
def RecordHolds (bs : List Byte) (len : Nat) (fs : List (Nat × Nat × Nat)) : Prop :=
  bs.length = len ∧ (∀ o w v, (o, w, v) ∈ fs → field bs o w = v % 256 ^ w) ∧
  ∀ i, i < len → (∀ o w v, (o, w, v) ∈ fs → ¬ (o ≤ i ∧ i < o + w)) → bs[i]? = some 0

/-- The record's fields stand in its bytes at the offsets and widths of Table 11-7. -/
def JobRecord.LaidIn (j : JobRecord) (bs : List Byte) : Prop :=
  ((field bs 0 1 = 1 ∧ j.kind = .plate) ∨ (field bs 0 1 = 2 ∧ j.kind = .flat)) ∧
  ((field bs 1 1 = 0 ∧ j.dmode = .fixed) ∨ (field bs 1 1 = 1 ∧ j.dmode = .ladder)) ∧
  ((field bs 2 1 = 0 ∧ j.render = .positive) ∨ (field bs 2 1 = 1 ∧ j.render = .linear)) ∧
  ((field bs 3 1 = 0 ∧ j.range = .fixed) ∨ (field bs 3 1 = 1 ∧ j.range = .auto)) ∧
  j.tag = field bs 4 4 ∧ j.prio = field bs 8 1 ∧ j.area = field bs 9 1 ∧ j.bank = field bs 10 1 ∧ j.r = field bs 11 1 ∧
  j.w = field bs 12 2 ∧ j.h = field bs 14 2 ∧ j.depth = field bs 16 1 ∧ j.spread = field bs 17 1 ∧
  j.retakeLim = field bs 18 1 ∧ j.tee = field bs 19 1 ∧ j.tileRejLim = field bs 20 2 ∧ j.expWaitMs = field bs 22 2 ∧
  j.frameGapMs = field bs 24 2 ∧ j.dlo = field bs 26 2 ∧ j.dhi = field bs 28 2 ∧ j.plo = field bs 30 2 ∧ j.phi = field bs 32 2 ∧
  (∀ i : Fin 8, vget j.e i = field bs (34 + 2 * i.1) 2) ∧ ∀ i : Fin 8, vget j.wt i = field bs (50 + i.1) 1

/-! ### Laws the part keeps -/

/-- No two windows in use share a byte (R152). -/
def WindowsDisjoint (s : State) : Prop :=
  ∀ i j v w, i ≠ j → vget s.wmu.windows i = some v → vget s.wmu.windows j = some w →
    ¬ (v.base < w.base + w.size ∧ w.base < v.base + v.size)

/-- The cell port keeps updates indivisible (R4): an access waits exactly while an earlier one that shares a byte with it is
not over and one of the two is a merge. So of two accesses that share a byte, one of them a merge, the later is not issued. -/
def PortInOrder (s : State) : Prop :=
  ∀ ds a as, s.mge.port = ds ++ a :: as →
    (a.stage = .waiting ↔
      ∃ d ∈ ds, (d.isMerge = true ∨ a.isMerge = true) ∧ d.addr < a.addr + a.len ∧ a.addr < d.addr + d.len)

/-- Every access of the cell port that a step has brought to its read has had that read requested of class CELL, at its own
address and of its own length (R4, R161). -/
def ReadsRequested (s t : State) : Prop :=
  ∀ a ∈ t.mge.port, a.stage = .reading → (∃ d ∈ s.mge.port, d.no = a.no ∧ d.stage = .reading) ∨
    ∃ x ∈ t.mpa.cell, x.kind = .cellRead a.no ∧ x.write = false ∧ x.addr = a.addr ∧ x.len = a.len

/-- The S-port's reads and its writes stand in the order in which it accepted their addresses, and the cell port's accesses in
the order in which they began, each under a number of its own below the next (R148, R4, log 7). -/
def PortsNumbered (s : State) : Prop :=
  (s.wmu.reads.map SRead.no).Pairwise (· < ·) ∧ (s.wmu.writes.map SWrite.no).Pairwise (· < ·) ∧
  (s.mge.port.map CellAcc.no).Pairwise (· < ·) ∧
  (∀ r ∈ s.wmu.reads, r.no < s.serial) ∧ (∀ w ∈ s.wmu.writes, w.no < s.serial) ∧ ∀ a ∈ s.mge.port, a.no < s.serial

/-- The report queue holds at most 8 reports (R175), the counter lies in 0..256 (R138), and the pixel queue holds at
most 256 entries (R33). -/
def Bounded (s : State) : Prop :=
  s.rpu.queue.length ≤ 8 ∧ s.cec.value ≤ 256 ∧ s.mge.pixels.length ≤ 256

/-- The sensor profile satisfies S > B + F (R16). -/
def SensorLawful (s : State) : Prop := s.mge.sensor.b + s.mge.sensor.f < s.mge.sensor.s

/-- The intake queue never holds one slot number twice (R166). -/
def IntakeDistinct (s : State) : Prop := s.cin.queue.Nodup

/-- At most one job slot is STARTING, ACTIVE or FINISHING (R53). -/
def OneBusy (s : State) : Prop :=
  ∀ i j : Fin 4, (vget s.slots i).state.busy = true → (vget s.slots j).state.busy = true → i = j

/-- An undefined area holds no range, and no two areas share a byte (R8). -/
def AreasDisjoint (s : State) : Prop :=
  (∀ i : Fin 4, (vget s.atb.areas i).state = .undefined → (vget s.atb.areas i).size = 0 ∧ (vget s.atb.areas i).base = 0) ∧
  ∀ i j : Fin 4, i ≠ j →
    ¬ ((vget s.atb.areas i).base < (vget s.atb.areas j).base + (vget s.atb.areas j).size ∧
       (vget s.atb.areas j).base < (vget s.atb.areas i).base + (vget s.atb.areas i).size)

/-- The gains a FLAT_FETCH in execution has gathered. -/
def fetchedGains (s : State) : Sparse :=
  match s.cin.long with
  | some (.flatGains _ _ _ _ _ _ _ _ _ g) => g
  | _ => []

/-- Every sparse table is in its canonical form: the shadow, the tile statistics, the histogram, and the gains of the
banks and of a fetch in execution. -/
def TablesCanonical (s : State) : Prop :=
  swf s.cin.shadow = true ∧ swf s.tsa.flatSum = true ∧ swf s.tsa.flatCount = true ∧ swf s.tsa.rejects = true ∧
  swf s.scan.hist = true ∧ (∀ i, swf (vget s.fst.banks i).gains = true) ∧ swf (fetchedGains s) = true

end Sys2Proof.Machine
end

