-- ==== Sys2Proof/WellFormed.lean ====
section
/-! DEFINITION. Which commands are well formed: bus operands an AXI master or slave can present. The meanings
are total and do not rest on this. -/
namespace Sys2Proof

/-- The strobes of a write beat lie within the byte lanes of its transfer (R148). -/
def strobesInLanes (h : TxnHdr) (j : Nat) (w : WData) : Bool :=
  (List.range 16).all fun i =>
    !w.strb.getLsbD i || (decide ((h.lanes j).1 ≤ i) && decide (i ≤ (h.lanes j).2))

/-- A write beat is one of its transaction's, its strobes within its lanes, and the transaction is legal. -/
def WBeat.wf (b : WBeat) : Bool :=
  !b.hdr.illegal && decide (b.beat < b.hdr.beats) && strobesInLanes b.hdr b.beat b.w

/-- Every beat's strobes lie in its lanes, from beat `j` on. -/
def beatsInLanes (h : TxnHdr) : Nat → List WData → Bool
  | _, [] => true
  | j, w :: ws => strobesInLanes h j w && beatsInLanes h (j + 1) ws

/-- A whole transaction is legal and carries as many data beats as its length says. -/
def Txn.wf : Txn → Bool
  | .read h => !h.illegal
  | .write h beats => !h.illegal && decide (beats.length = h.beats) && beatsInLanes h 0 beats

/-- A read response has beats, at most 16 of them. -/
def respBeatsWf (beats : List RData) : Bool := decide (0 < beats.length) && decide (beats.length ≤ 16)

/-- A response is one an M-port transaction can have. -/
def MResp.wf : MResp → Bool
  | .read beats => respBeatsWf beats
  | .write _ => true

/-- Well-formed commands. -/
def Instr.wf : Instr → Bool
  | .pinReset => true
  | .resetNRelease _ => true
  | .commandPageWrite b => b.wf
  | .issued _ => true
  | .withdrawn _ => true
  | .reportTail _ _ => true
  | .commandTake => true
  | .unknownCode => true
  | .takenWriteResponse _ _ => true
  | .doneWriteResponse _ _ => true
  | .setSensor => true
  | .setLamp => true
  | .setLadder => true
  | .setWindow => true
  | .clearWindow => true
  | .setMatch => true
  | .defineArea => true
  | .setReports => true
  | .setReportsHeadResponse _ _ => true
  | .flatStore => true
  | .flatStoreResponse _ _ => true
  | .flatFetch => true
  | .flatFetchHeaderResponse _ beats => decide (beats.length = 2)
  | .flatFetchGainResponse _ beats => respBeatsWf beats
  | .flatDrop => true
  | .run => true
  | .hold => true
  | .resume => true
  | .snapshot => true
  | .resetPart => true
  | .loadJob => true
  | .jobRecordResponse _ beats => decide (beats.length = 8)
  | .abortJob => true
  | .releaseJob => true
  | .jobStarted => true
  | .jobEnded => true
  | .sweepBurstResponse _ _ => true
  | .stoppedIssuerResponse _ m => m.wf
  | .captureBeat b => b.wf
  | .heldCaptureBeatTaken => true
  | .teedCopyResponse _ _ => true
  | .sampleTake => true
  | .mergeReadResponse _ _ => true
  | .mergeWriteResponse _ _ => true
  | .attemptEndTaken => true
  | .frameGapExpiry => true
  | .exposureWaitExpiry => true
  | .finishScanResponse _ beats => respBeatsWf beats
  | .limitTest => true
  | .gainComputationComplete => true
  | .resultRead h => !h.illegal
  | .renderCellResponse _ _ => true
  | .monitorBeat b => b.wf
  | .presenceChange v => decide (v ≠ .unknown)
  | .stalenessExpiry => true
  | .guardTime => true
  | .recoveryComplete => true
  | .coalescedReportServed _ => true
  | .reportRecordWrite => true
  | .reportRecordResponse _ _ => true
  | .headWriteResponse _ _ => true
  | .passThrough t => t.wf
  | .passThroughResponse _ m => m.wf
  | .illegalTransaction _ h => h.illegal
  | .mpaGrant _ _ => true
  | .timebaseTick => true

end Sys2Proof
end

