-- ==== Sys2Proof/Certificates/Slice0/Obligations.lean ====
section
/-! DEFINITION. The statements for the provers. -/
open Sys2Proof Sys2Proof.Machine

/-! ### The step and the resets -/

/-- A step runs the command at the front of the queue on the state with the queue's rest; on an empty queue the block
idles, which is the model's choice (log 1). -/
def Obligations.StepRunsFrontCommand : Prop :=
  ∀ s : State, (∀ c rest, s.pending = c :: rest → step s = exec c (s.setPending rest)) ∧
    (s.pending = [] → step s = .next s)

/-- The values the spec gives for pin reset, block by block (R7, R16, R49, R53, R77, R80, R94, R114, R115, R131, R133,
R138, R152, R155, R162, R165, R166, R175 to R183). Window 0 is in use from reset; its base comes with the release (R152). -/
def Obligations.ResetLeavesSpecValues : Prop :=
  let s := State.reset
  s.device = .hold ∧ s.time = 0 ∧
  (∀ i, vget s.atb.areas i = { state := .undefined, base := 0, size := 0, gen := 0, owner := none }) ∧
  s.mge.sensor = { b := 256, f := 32, s := 16200 } ∧
  s.mge.ladder = { t1 := 192, t2 := 128, t3 := 64, t4 := 16, depth := #v[2, 3, 4, 6, 8] } ∧
  s.mge.pixels = [] ∧
  s.tsa.flatSum = [] ∧ s.tsa.flatCount = [] ∧ s.tsa.rejects = [] ∧
  (∀ i, (vget s.fst.banks i).state = .invalid) ∧
  s.scan.scanning = false ∧ s.scan.nData = 0 ∧ s.scan.nGap = 0 ∧ s.scan.nReject = 0 ∧ s.scan.nRetake = 0 ∧
  s.scan.nNodata = 0 ∧ s.scan.nUnread = 0 ∧ s.scan.hist = [] ∧
  (∀ i, (vget s.slots i).state = .empty ∧ (vget s.slots i).job = none ∧ (vget s.slots i).ended = none) ∧
  s.lamp.state = .offline ∧ s.lamp.cand = none ∧ s.lamp.settleCount = 0 ∧ s.lamp.base = none ∧
  s.lamp.recovery = 0 ∧ s.lamp.settle.start = 0 ∧ s.lamp.steady.start = 0 ∧ s.lamp.last.start = 0 ∧
  s.lamp.cfg = { band := 3, settleFrames := 8, settleMs := 2000, darkLevel := 65536, staleMs := 30000,
                 presLim := 160, guardMs := 10000 } ∧
  s.pdt.presence = .unknown ∧ s.pdt.debounce = 0 ∧
  (∀ i, vget s.pdt.totals i = { count := 0, refSum := 0, refCount := 0, sat := false, cSum := 0, cCount := 0 }) ∧
  s.cec.value = 0 ∧ levelOf s.cec.value = .normal ∧ s.cec.armed = false ∧
  (∃ base, vget s.wmu.windows 0 = some { kind := .command, base := base, size := 4096 }) ∧
  (∀ i : Fin 16, i ≠ 0 → vget s.wmu.windows i = none) ∧ s.wmu.mode = .active ∧
  s.mpa.note = [] ∧ s.mpa.sys = [] ∧ s.mpa.cell = [] ∧ s.mpa.bulk = [] ∧ s.mpa.last = .bulk ∧
  s.cin.shadow = [] ∧ s.cin.queue = [] ∧ s.cin.long = none ∧ (∀ n, (cmdSlot s n).opened = false) ∧
  s.rpu.queue = [] ∧ s.rpu.ringSet = false ∧ s.rpu.ringBase = 0 ∧ s.rpu.ring = none ∧ s.rpu.head = 0 ∧ s.rpu.tail = 0 ∧ s.rpu.posted = 0 ∧
  s.rpu.irqEn = false ∧ irqAsserted s = false ∧
  s.rpu.fLamp = false ∧ s.rpu.fPresence = false ∧ s.rpu.fCecLevel = false ∧
  s.rpu.latches = #v[false, false, false, false, false]

/-- Pin reset (R75, R164, R183): every block at its reset value, every queue of the arbiter empty, and what was granted
left for the DRAM controller to answer, to be absorbed. The model's choices are the base of window 0 until the release (log
13), the values the spec does not give (log 14), what becomes of the transactions granted (log 15), and that the responses
returned and the model's own counters and queue are kept (logs 7, 15, 29, 30). -/
def Obligations.PinResetAbandonsAllTraffic : Prop :=
  ∀ s : State, ∃ t, exec .pinReset s = .next t ∧
    (∀ f, f ∉ [Field.wmu, .mpa, .serial, .freeIdx, .pending] → Same f State.reset t) ∧
    t.wmu = { State.reset.wmu with out := s.wmu.out } ∧
    t.mpa.note = [] ∧ t.mpa.sys = [] ∧ t.mpa.cell = [] ∧ t.mpa.bulk = [] ∧ t.mpa.last = .bulk ∧
    t.mpa.granted.map MTxn.id = s.mpa.granted.map MTxn.id ∧
    (∀ x ∈ t.mpa.granted, ∃ l, x.kind = .stopped l) ∧
    t.serial = s.serial ∧ t.freeIdx = s.freeIdx ∧ t.pending = s.pending

/-- The release of RESET_N gives window 0 its base, CPSEL × 16 MiB (R152); RESET_N released already, nothing changes, which is
the model's choice (log 2). -/
def Obligations.ResetReleaseSetsCommandPage : Prop :=
  ∀ (s : State) (cpsel : BitVec 16),
    (s.resetN = false → ∃ t, exec (.resetNRelease cpsel) s = .next t ∧ t.resetN = true ∧
      vget t.wmu.windows 0 = some { kind := .command, base := cpsel.toNat * 16777216, size := 4096 } ∧
      (∀ i, i ≠ 0 → vget t.wmu.windows i = vget s.wmu.windows i) ∧
      t.wmu = { s.wmu with windows := t.wmu.windows } ∧ Frame [.resetN, .wmu] s t) ∧
    (s.resetN = true → exec (.resetNRelease cpsel) s = .next s)

/-! ### The intake -/

/-- Bytes handed from one beat replace the shadow bytes at their offsets, the last handed of an offset standing, and
no byte outside the shadow is kept: the shadow is the eight slots' 512 bytes and the 4 of the REPORT_TAIL word (R165, R188). -/
def Obligations.HandedBytesReplaceShadow : Prop :=
  (∀ off, inShadow off = true ↔ off < 512 ∨ (0x204 ≤ off ∧ off < 0x208)) ∧
  ∀ (bs : List (Nat × Byte)) (s : State) (off : Nat), swf s.cin.shadow = true →
    sget (handBytes bs s).cin.shadow off =
      match bs.reverse.find? fun p => p.1 == off with
      | some p => if inShadow off then p.2.toNat else sget s.cin.shadow off
      | none => sget s.cin.shadow off

/-- A beat into window 0 behind a held beat waits (R150). With nothing held, a command take that is due comes first (log 42, the
model's reading), and then the beat is forwarded with its strobes and its strobed bytes are handed to the intake at its take
(R157). Beat 0 of a legal write opens it on the path that Table 9-2 gives its address, and a later beat is the next of the
write being presented (R148, R156); that the address comes with beat 0 is the model's choice (log 8). Presenting a beat changes
the cursor and the writes alone, and its take what the write and the responses given become. -/
def Obligations.PageBeatForwardedAndHanded : Prop :=
  (∀ (s : State) (w : Win), vget s.wmu.windows 0 = some w → pageBase s = w.base) ∧
  (∀ (b : WBeat) (s s' : State) (no : Nat) (w : SWrite),
    present b WritePath.isPage s = some (no, s') → sWrite? no s' = some w → w.path = .page →
    s'.wmu = { s.wmu with cur := s'.wmu.cur, writes := s'.wmu.writes } ∧
    (s.wmu.held ≠ [] → ∃ t, exec (.commandPageWrite b) s = .next t ∧
      t.wmu = { s'.wmu with held := s.wmu.held ++ [.beat no b] } ∧ Frame [.wmu, .serial] s t) ∧
    (s.wmu.held = [] → w.Unanswered →
      let u := dueTakes s'
      let bytes := strobedBytes (b.hdr.beatPos b.beat - pageBase s) b.w
      Frame [.wmu, .serial] s s' ∧ ∃ t, exec (.commandPageWrite b) s = .next t ∧
        t.cin = (handBytes bytes u).cin ∧ t.rpu = (handBytes bytes u).rpu ∧
        (∃ v ∈ t.wmu.writes, v.no = no ∧ v.data = w.data ++ [b.w] ∧ v.mReq = true ∧ v.answer = none) ∧
        (w.mReq = false → t.mpa = { u.mpa with sys := u.mpa.sys ++
          [⟨u.serial, .sysWrite no, .sys, true, w.hdr.addr.toNat, w.hdr.beats * w.hdr.bytes, []⟩] }) ∧
        (w.mReq = true → t.mpa = u.mpa) ∧
        t.wmu = { u.wmu with held := [], writes := t.wmu.writes, out := t.wmu.out } ∧
        Frame [.wmu, .mpa, .cin, .rpu, .serial] u t)) ∧
  (∀ off (w : WData) (p : Nat × Byte), p ∈ strobedBytes off w ↔
    ∃ i, i < 16 ∧ w.strb.getLsbD i = true ∧ p = (off + i, w.data.extractLsb' (8 * i) 8)) ∧
  (∀ (b : WBeat) (ours : WritePath → Bool) (s : State),
    (b.hdr.illegal = true ∨ b.hdr.beats ≤ b.beat → present b ours s = none) ∧
    (b.beat = 0 → s.wmu.cur ≠ none → present b ours s = none) ∧
    (b.beat ≠ 0 → s.wmu.cur = none → present b ours s = none) ∧
    (b.hdr.illegal = false → b.beat = 0 → s.wmu.cur = none →
      let p := writePathOf s b.hdr
      let w : SWrite := { no := s.serial, hdr := b.hdr, path := p, data := [], mReq := false, mLock := false, mDone := none,
                          passed := false, answer := none, sent := false }
      (ours p = false → present b ours s = none) ∧
      (ours p = true → present b ours s = some (s.serial, { s with
        serial := s.serial + 1
        wmu := { s.wmu with writes := s.wmu.writes ++ [w],
                            cur := if 1 < b.hdr.beats then some s.serial else none } }))) ∧
    (∀ j no w, b.hdr.illegal = false → b.beat = j + 1 → j + 1 < b.hdr.beats → s.wmu.cur = some no → sWrite? no s = some w →
      ours w.path = true → w.hdr = b.hdr → presented w s = j + 1 →
      present b ours s =
        some (no, { s with wmu := { s.wmu with cur := if j + 2 < b.hdr.beats then some no else none } }))) ∧
  (∀ (s : State) (h : TxnHdr), (FallsInNone s h → writePathOf s h = .pass) ∧
    (∀ i w, WindowsDisjoint s → FallsIn s h i w →
      (w.kind = .command → writePathOf s h = .page) ∧ (w.kind = .capture → writePathOf s h = .capture w.base) ∧
      (∀ k f, w.kind = .result k f → writePathOf s h = .pass) ∧
      (∀ W H R E, w.kind = .monitor W H R E → writePathOf s h = .monitor i)))

/-- Behind a held beat an ISSUED or WITHDRAWN byte waits with its write (R150). With nothing held, a command take that is due comes
first (log 42, the model's reading). Then ISSUED handed for a slot appends it to the intake queue unless it is queued or open
(R166). WITHDRAWN handed for a queued slot takes it out, for an open one marks it for LATE_WITHDRAW, and for any other
changes nothing (R167). Either hand-over is an event of R168, whatever it changed: a take is due after it exactly when a
queued command meets the conditions. Each row stands for the hand-over of its one byte (log 4). -/
def Obligations.IssuedAppendsAndWithdrawnLeaves : Prop :=
  ∀ (n : Fin 8) (s : State),
    (s.wmu.held ≠ [] →
      exec (.issued n) s = .next { s with wmu := { s.wmu with held := s.wmu.held ++ [.hand (64 * n.1) 1] } } ∧
      exec (.withdrawn n) s = .next { s with wmu := { s.wmu with held := s.wmu.held ++ [.hand (64 * n.1) 3] } }) ∧
    (s.wmu.held = [] → swf s.cin.shadow = true →
      let u := dueTakes s
      (∃ t, exec (.issued n) s = .next t ∧
        t.cin = { u.cin with shadow := t.cin.shadow, queue := t.cin.queue, takeDue := t.cin.takeDue } ∧ TakeJudged t ∧
        (n ∈ u.cin.queue ∨ (cmdSlot u n).opened = true → t.cin.queue = u.cin.queue) ∧
        (n ∉ u.cin.queue → (cmdSlot u n).opened = false → t.cin.queue = u.cin.queue ++ [n]) ∧
        sget t.cin.shadow (64 * n.1) = 1 ∧ (∀ off, off ≠ 64 * n.1 → sget t.cin.shadow off = sget s.cin.shadow off) ∧
        Frame [.cin] u t) ∧
      (∃ t, exec (.withdrawn n) s = .next t ∧
        (n ∈ u.cin.queue → t.cin.queue = u.cin.queue.filter (fun m => m != n) ∧ t.cin.slots = u.cin.slots) ∧
        (n ∉ u.cin.queue → t.cin.queue = u.cin.queue ∧
          cmdSlot t n = { cmdSlot u n with late := (cmdSlot u n).late || (cmdSlot u n).opened } ∧
          ∀ m, m ≠ n → cmdSlot t m = cmdSlot u m) ∧
        t.cin.long = u.cin.long ∧ t.cin.waits = u.cin.waits ∧ TakeJudged t ∧
        sget t.cin.shadow (64 * n.1) = 3 ∧ (∀ off, off ≠ 64 * n.1 → sget t.cin.shadow off = sget s.cin.shadow off) ∧
        Frame [.cin] u t))

/-- Behind a held beat a byte of the REPORT_TAIL word waits with its write (R150). With nothing held, a command take that is due
comes first (log 42, the model's reading), and the handed byte sets TAIL to the shadowed word modulo 64 (R180). IRQ_N is
asserted exactly when IRQ_EN is 1 and the posted HEAD differs from TAIL (R181). -/
def Obligations.ReportTailTakenModulo64 : Prop :=
  (∀ (off : Fin 4) (v : Byte) (s : State),
    (s.wmu.held ≠ [] → exec (.reportTail off v) s =
      .next { s with wmu := { s.wmu with held := s.wmu.held ++ [.hand (0x204 + off.1) v] } }) ∧
    (s.wmu.held = [] → swf s.cin.shadow = true →
      let u := dueTakes s
      ∃ t, exec (.reportTail off v) s = .next t ∧
        sget t.cin.shadow (0x204 + off.1) = v.toNat ∧
        (∀ o, o ≠ 0x204 + off.1 → sget t.cin.shadow o = sget s.cin.shadow o) ∧
        t.cin = { u.cin with shadow := t.cin.shadow } ∧
        t.rpu = { u.rpu with tail := leNat (shadowBytes t.cin.shadow 0x204 4) % 64 } ∧ Frame [.cin, .rpu] u t)) ∧
  (∀ s : State, irqAsserted s = true ↔ s.rpu.irqEn = true ∧ s.rpu.posted ≠ s.rpu.tail)

/-- The chosen slot: the oldest queued slot whose CODE is RESET_PART, else the oldest queued slot; it may be taken when no
command is in execution and its report room is there, one entry for ABORT_JOB, HOLD and SNAPSHOT and none for every other.
Beside a LOAD_JOB a RESET_PART may, and as the oldest a SNAPSHOT, ABORT_JOB or RELEASE_JOB with its room, and no other.
While a HOLD, FLAT_STORE, FLAT_FETCH or SET_REPORTS is in execution nothing is taken, RESET_PART included. A slot that may be
taken is taken only where an event of R168 has made a take due: handed bytes among which no STATE byte is ISSUED or WITHDRAWN
make none due, not even where they rewrite the CODE of a queued slot (R168). -/
def Obligations.ResetPartChosenFirst : Prop :=
  roomFor none = 0 ∧ (∀ c, roomFor (some c) = if c = .abortJob ∨ c = .hold ∨ c = .snapshot then 1 else 0) ∧
  (∀ s : State, s.free = 8 - s.rpu.queue.length ∧ (s.cin.queue = [] → takable s = none) ∧
    (∀ l, s.cin.long = some l → (∀ c i, l ≠ .loadJob c i) → takable s = none) ∧
    (s.cin.takeDue = true → takes s = takable s) ∧ (s.cin.takeDue = false → takes s = none)) ∧
  (∀ (bs : List (Nat × Byte)) (s : State),
    (∀ p ∈ bs, p.1 < 512 → p.1 % 64 = 0 → p.2 ≠ 1 ∧ p.2 ≠ 3) → (handBytes bs s).cin.takeDue = s.cin.takeDue) ∧
  (∀ (s : State) (before after : List (Fin 8)) (n : Fin 8),
    s.cin.queue = before ++ n :: after → (∀ m ∈ before, cmdOf s m ≠ some .resetPart) →
    (cmdOf s n = some .resetPart → chosen s = some n ∧
      (s.cin.long = none ∨ (∃ c i, s.cin.long = some (.loadJob c i)) → takable s = some n)) ∧
    (before = [] → (∀ m ∈ after, cmdOf s m ≠ some .resetPart) → cmdOf s n ≠ some .resetPart →
      chosen s = some n ∧ (s.cin.long = none → roomFor (cmdOf s n) ≤ s.free → takable s = some n) ∧
      (s.free < roomFor (cmdOf s n) → takable s = none) ∧
      (∀ c i, s.cin.long = some (.loadJob c i) →
        let beside := cmdOf s n = some .snapshot ∨ cmdOf s n = some .abortJob ∨ cmdOf s n = some .releaseJob
        (beside → roomFor (cmdOf s n) ≤ s.free → takable s = some n) ∧ (¬ beside → takable s = none))))

/-- A take of a CODE that names no command completes with UNKNOWN; of a CODE that names one by Table 11-3, COMMAND_TAKE is that
command's own row; and the arguments are the shadow's bytes at the slot's offsets (R168). The takes that are due before a
hand-over are COMMAND_TAKE made until no slot is taken, and what is queued then waits for the next event (log 42); of the S-port
they change the windows and the match mode alone. -/
def Obligations.CommandTakeRunsNamedCommand : Prop :=
  (∀ (s : State) (n : Fin 8), takes s = some n →
    (cmdOf s n = none → ∃ t, exec .commandTake s = .next t ∧ exec .unknownCode s = .next t ∧
      Completes n .unknown s t ∧ OnlyRequests s t ∧ Frame [.cin, .mpa, .serial] s t) ∧
    (∀ c, cmdOf s n = some c → exec .commandTake s = exec c.row s) ∧
    (∃ t, exec .commandTake s = .next t ∧ dueTakes s = dueTakes t)) ∧
  (∀ s : State, (takes s = none → dueTakes s = { s with cin := { s.cin with takeDue := false } }) ∧
    takes (dueTakes s) = none ∧
    (dueTakes s).wmu = { s.wmu with windows := (dueTakes s).wmu.windows, mode := (dueTakes s).wmu.mode }) ∧
  (∀ (s : State) (n : Fin 8), cmdOf s n = Cmd.ofCode (leNat (shadowBytes s.cin.shadow (64 * n.1 + 8) 2))) ∧
  (∀ v c, Cmd.ofCode v = some c ↔ (v, c) ∈ [(0x0101, Cmd.setSensor), (0x0102, .setLamp), (0x0103, .setLadder),
    (0x0104, .setWindow), (0x0105, .clearWindow), (0x0106, .setMatch), (0x0107, .defineArea), (0x0108, .setReports),
    (0x0201, .flatStore), (0x0202, .flatFetch), (0x0203, .flatDrop), (0x0301, .run), (0x0302, .hold), (0x0303, .resume),
    (0x0304, .snapshot), (0x03FF, .resetPart), (0x0401, .loadJob), (0x0402, .abortJob), (0x0403, .releaseJob)]) ∧
  (∀ (s : State) (n : Fin 8) (off len : Nat), 12 ≤ off → off + len ≤ 64 →
    (takenOf s n).arg off len = leNat (shadowBytes s.cin.shadow (64 * n.1 + off) len))

/-- The answer to a TAKEN write lets the slot's DONE write go: of the commands that wait, those whose TAKEN write has been
answered request their DONE writes in the order they completed (log 38), but one that follows other DONE writes only when
none of them still waits, however many such wait (R174, log 25). The answer to a DONE write closes the slot, whatever it is. An error in either sets
NOTE_LOST and MEMERR_SEEN (R169, R170). The TAKEN and DONE writes carry the bytes of Tables 11-2 and 11-4.
A DONE write takes its place in the NOTE queue at that answer, not at its command's completion, which is the model's choice (log
54). -/
def Obligations.StatusAnswersReleaseAndClose : Prop :=
  (∀ (txn : Nat) (r : Resp) (s : State) (n : Fin 8),
    (grantedKind txn s = some (.taken n) →
      let waiting (d : DoneWait) : Bool := d.slot != n && (cmdSlot s d.slot).takenWait
      let asked (go : List DoneWait) : List MTxn := go.mapIdx fun k e =>
        ⟨s.serial + k, .done e.slot e.res (cmdSlot s e.slot).late, .note, true, pageBase s + 64 * e.slot.1, 8,
          doneBytes e.res (cmdSlot s e.slot).late⟩
      ∃ t, exec (.takenWriteResponse txn r) s = .next t ∧
        cmdSlot t n = { cmdSlot s n with takenWait := false } ∧ (∀ m, m ≠ n → cmdSlot t m = cmdSlot s m) ∧
        t.cin.queue = s.cin.queue ∧ t.cin.shadow = s.cin.shadow ∧ t.cin.long = s.cin.long ∧
        t.cin.takeDue = s.cin.takeDue ∧
        t.mpa = { s.mpa with granted := s.mpa.granted.filter (fun x => x.id != txn), note := t.mpa.note } ∧
        t.rpu = { s.rpu with noteLost := s.rpu.noteLost || respErr r, memerrSeen := s.rpu.memerrSeen || respErr r } ∧
        (∃ keep : List Bool, keep.length = s.cin.waits.length ∧
          (∀ i d, s.cin.waits[i]? = some d → (keep[i]? = some true ↔ waiting d = true ∨
            ∃ (j : Nat) (e : DoneWait), j < i ∧ s.cin.waits[j]? = some e ∧ keep[j]? = some true ∧ e.slot ∈ d.after)) ∧
          t.cin.waits = ((s.cin.waits.zip keep).filter Prod.snd).map Prod.fst ∧
          t.mpa.note = s.mpa.note ++ asked (((s.cin.waits.zip keep).filter fun p => !p.2).map Prod.fst)) ∧
        Frame [.mpa, .cin, .rpu, .serial] s t) ∧
    (∀ res late, grantedKind txn s = some (.done n res late) →
      ∃ t, exec (.doneWriteResponse txn r) s = .next t ∧
        t.cin = { s.cin with slots := vput s.cin.slots n { opened := false, late := false, takenWait := false } } ∧
        t.mpa = { s.mpa with granted := s.mpa.granted.filter (fun x => x.id != txn) } ∧
        t.rpu = { s.rpu with noteLost := s.rpu.noteLost || respErr r, memerrSeen := s.rpu.memerrSeen || respErr r } ∧
        Frame [.mpa, .cin, .rpu] s t)) ∧
  RecordHolds takenBytes 4 [(0, 1, 2)] ∧
  (∀ r late, RecordHolds (doneBytes r late) 8 [(0, 1, 4), (4, 1, r.code), (5, 1, if late then 1 else 0)]) ∧
  [Result.ok, .busy, .state, .range, .order, .overlap, .align, .notHeld, .unknown, .fetchError, .memoryError, .reset].map
    Result.code = List.range 12

/-! ### Configuration commands -/

/-- SET_SENSOR: its checks in order, and all three fields together or none (R17). -/
def Obligations.SetSensorSetsWholeProfile : Prop :=
  ∀ (s : State) (n : Fin 8), takes s = some n → cmdOf s n = some .setSensor →
    let a := (takenOf s n).arg
    let p : Sensor := { b := a 12 2, f := a 14 2, s := a 16 2 }
    let r : Result :=
      if s.device ≠ .hold then .notHeld
      else if p.b ≤ 2047 ∧ p.f ≤ 1023 ∧ 1 ≤ p.s ∧ p.s ≤ 16383 then (if p.b + p.f < p.s then .ok else .range)
      else .range
    ∃ t, exec .setSensor s = .next t ∧ Completes n r s t ∧ OnlyRequests s t ∧
      t.mge = { s.mge with sensor := if r = .ok then p else s.mge.sensor } ∧ Frame [.mge, .cin, .mpa, .serial] s t

/-- SET_LAMP sets all seven fields together or none (R133), and SET_LADDER all nine values (R49), each after its checks
in order. -/
def Obligations.SetLampAndLadderSetWhole : Prop :=
  ∀ (s : State) (n : Fin 8), takes s = some n →
    let a := (takenOf s n).arg
    (cmdOf s n = some .setLamp →
      let c : LampCfg := { band := a 12 1, settleFrames := a 13 1, settleMs := a 14 2, darkLevel := a 16 4,
                           staleMs := a 20 2, presLim := a 22 1, guardMs := a 24 2 }
      let r : Result :=
        if s.device ≠ .hold then .notHeld
        else if c.band ≤ 15 ∧ 1 ≤ c.settleFrames ∧ c.settleFrames ≤ 64 ∧ c.darkLevel ≤ 16777215 ∧ 1 ≤ c.presLim then .ok
        else .range
      ∃ t, exec .setLamp s = .next t ∧ Completes n r s t ∧ OnlyRequests s t ∧
        t.lamp = { s.lamp with cfg := if r = .ok then c else s.lamp.cfg } ∧ Frame [.lamp, .cin, .mpa, .serial] s t) ∧
    (cmdOf s n = some .setLadder →
      let l : Ladder := { t1 := a 12 1, t2 := a 13 1, t3 := a 14 1, t4 := a 15 1,
                          depth := #v[a 16 1, a 17 1, a 18 1, a 19 1, a 20 1] }
      let r : Result :=
        if s.device ≠ .hold then .notHeld
        else if ∀ d ∈ l.depth.toList, 1 ≤ d ∧ d ≤ 8 then
          (if l.t2 ≤ l.t1 ∧ l.t3 ≤ l.t2 ∧ l.t4 ≤ l.t3 then .ok else .order)
        else .range
      ∃ t, exec .setLadder s = .next t ∧ Completes n r s t ∧ OnlyRequests s t ∧
        t.mge = { s.mge with ladder := if r = .ok then l else s.mge.ladder } ∧ Frame [.mge, .cin, .mpa, .serial] s t)

/-- SET_WINDOW: its checks in order, and the entry with its new kind and fields, its totals 0; and the kinds it accepts,
each with the fields of its kind in their ranges (R153, Table 11-5). -/
def Obligations.SetWindowChecksThenSets : Prop :=
  (∀ (s : State) (n : Fin 8), takes s = some n → cmdOf s n = some .setWindow →
    let a := (takenOf s n).arg
    let base := a 16 8
    let size := a 24 8
    let numberOk := 1 ≤ a 12 1 ∧ a 12 1 ≤ 15
    let kindOk := 1 ≤ a 13 1 ∧ a 13 1 ≤ 3
    let aligned := base % 4096 = 0 ∧ size % 4096 = 0
    let sized := 4096 ≤ size ∧ size ≤ 68719476736 ∧ base + size ≤ 2 ^ 40
    let fieldsOk := (winKindArg (takenOf s n)).isSome = true
    let free := ClearOfWindows s (toFin? 16 (a 12 1)) base size ∧ ClearOfAreas s none base size ∧ ClearOfRing s base size
    ∃ t r, exec .setWindow s = .next t ∧ Completes n r s t ∧ OnlyRequests s t ∧
      (s.device ≠ .hold → r = .notHeld) ∧
      (s.device = .hold → ¬ (numberOk ∧ kindOk) → r = .range) ∧
      (s.device = .hold → numberOk ∧ kindOk → ¬ aligned → r = .align) ∧
      (s.device = .hold → numberOk ∧ kindOk → aligned → ¬ (sized ∧ fieldsOk) → r = .range) ∧
      (s.device = .hold → numberOk ∧ kindOk → aligned → sized ∧ fieldsOk → ¬ free → r = .overlap) ∧
      (s.device = .hold → numberOk ∧ kindOk → aligned → sized ∧ fieldsOk → free → r = .ok ∧
        ∃ i k, i.1 = a 12 1 ∧ winKindArg (takenOf s n) = some k ∧
          t.wmu = { s.wmu with windows := vput s.wmu.windows i (some { kind := k, base := base, size := size }) } ∧
          t.pdt = { s.pdt with totals := vput s.pdt.totals i Totals.zero }) ∧
      (r ≠ .ok → t.wmu = s.wmu ∧ t.pdt = s.pdt) ∧
      Frame [.wmu, .pdt, .cin, .mpa, .serial] s t) ∧
  (∀ t : Taken,
    (t.arg 13 1 = 1 → winKindArg t = some .capture) ∧
    (t.arg 13 1 = 2 → ∀ i : Fin 4, t.arg 14 1 = i.1 →
      (t.arg 15 1 = 0 → winKindArg t = some (.result i .d16)) ∧
      (t.arg 15 1 = 1 → winKindArg t = some (.result i .d8)) ∧ (1 < t.arg 15 1 → winKindArg t = none)) ∧
    (t.arg 13 1 = 2 → 3 < t.arg 14 1 → winKindArg t = none) ∧
    (t.arg 13 1 = 3 →
      (64 ≤ t.arg 32 2 ∧ t.arg 32 2 ≤ 12288 ∧ t.arg 32 2 % 8 = 0 ∧ 64 ≤ t.arg 34 2 ∧ t.arg 34 2 ≤ 9216 ∧
        2 ≤ t.arg 36 1 ∧ t.arg 36 1 ≤ 16 ∧ 1 ≤ t.arg 38 2 ∧ t.arg 38 2 ≤ 1024 →
        winKindArg t = some (.monitor (t.arg 32 2) (t.arg 34 2) (t.arg 36 1) (t.arg 38 2))) ∧
      (¬ (64 ≤ t.arg 32 2 ∧ t.arg 32 2 ≤ 12288 ∧ t.arg 32 2 % 8 = 0 ∧ 64 ≤ t.arg 34 2 ∧ t.arg 34 2 ≤ 9216 ∧
        2 ≤ t.arg 36 1 ∧ t.arg 36 1 ≤ 16 ∧ 1 ≤ t.arg 38 2 ∧ t.arg 38 2 ≤ 1024) → winKindArg t = none)))

/-- CLEAR_WINDOW frees the entry and its totals, SET_MATCH sets the mode, FLAT_DROP makes the bank INVALID; in RUN each
is refused with NOT_HELD, and a number or mode that is none with RANGE (R154, R155, R92). The values that the fields of the
INVALID bank then hold are the model's choice (logs 14 and 44): R92 discards what it held. -/
def Obligations.ClearMatchAndDrop : Prop :=
  ∀ (s : State) (n : Fin 8), takes s = some n →
    let a := (takenOf s n).arg 12 1
    (cmdOf s n = some .clearWindow → ∃ t r, exec .clearWindow s = .next t ∧ Completes n r s t ∧ OnlyRequests s t ∧
      r = (if s.device ≠ .hold then .notHeld else if 1 ≤ a ∧ a ≤ 15 then .ok else .range) ∧
      (∀ i : Fin 16, r = .ok → i.1 = a →
        t.wmu = { s.wmu with windows := vput s.wmu.windows i none } ∧
        t.pdt = { s.pdt with totals := vput s.pdt.totals i Totals.zero }) ∧
      (r ≠ .ok → t.wmu = s.wmu ∧ t.pdt = s.pdt) ∧ Frame [.wmu, .pdt, .cin, .mpa, .serial] s t) ∧
    (cmdOf s n = some .setMatch → ∃ t, exec .setMatch s = .next t ∧
      Completes n (if s.device ≠ .hold then .notHeld else if a ≤ 1 then .ok else .range) s t ∧ OnlyRequests s t ∧
      t.wmu = { s.wmu with mode := if s.device ≠ .hold then s.wmu.mode else if a = 0 then .active
                                   else if a = 1 then .bypass else s.wmu.mode } ∧
      Frame [.wmu, .cin, .mpa, .serial] s t) ∧
    (cmdOf s n = some .flatDrop → ∃ t r, exec .flatDrop s = .next t ∧ Completes n r s t ∧ OnlyRequests s t ∧
      r = (if s.device ≠ .hold then .notHeld else if a ≤ 1 then .ok else .range) ∧
      (∀ b : Fin 2, r = .ok → b.1 = a →
        t.fst = { s.fst with banks := vput s.fst.banks b { state := .invalid, tw := 0, th := 0, t := 0, opn := 0, gains := [] } }) ∧
      (r ≠ .ok → t.fst = s.fst) ∧ Frame [.fst, .cin, .mpa, .serial] s t)

/-- DEFINE_AREA: its checks in order; size 0 undefines an unowned area, any other range makes it NEEDS_CLEAR with
generation 0 (R8). -/
def Obligations.DefineAreaChecksThenDefines : Prop :=
  ∀ (s : State) (n : Fin 8), takes s = some n → cmdOf s n = some .defineArea →
    let a := (takenOf s n).arg
    let base := a 16 8
    let size := a 24 8
    let aligned := base % 4096 = 0 ∧ size % 4096 = 0
    let sized := size ≤ 1073741824 ∧ base + size ≤ 2 ^ 40
    ∃ t r, exec .defineArea s = .next t ∧ Completes n r s t ∧ OnlyRequests s t ∧
      (s.device ≠ .hold → r = .notHeld) ∧ (s.device = .hold → 3 < a 12 1 → r = .range) ∧
      (∀ i : Fin 4, s.device = .hold → i.1 = a 12 1 →
        let x := vget s.atb.areas i
        let free := ClearOfAreas s (some i) base size ∧ ClearOfWindows s none base size ∧ ClearOfRing s base size
        (size = 0 → x.owner ≠ none → r = .busy) ∧
        (size = 0 → x.owner = none → r = .ok ∧
          t.atb = { s.atb with areas := vput s.atb.areas i Area.reset }) ∧
        (size ≠ 0 → ¬ aligned → r = .align) ∧
        (size ≠ 0 → aligned → ¬ sized → r = .range) ∧
        (size ≠ 0 → aligned → sized → x.owner ≠ none → r = .busy) ∧
        (size ≠ 0 → aligned → sized → x.owner = none → ¬ free → r = .overlap) ∧
        (size ≠ 0 → aligned → sized → x.owner = none → free → r = .ok ∧
          t.atb.areas = vput s.atb.areas i { state := .needsClear, base := base, size := size, gen := 0, owner := none } ∧
          t.atb.sweep = s.atb.sweep)) ∧
      (r ≠ .ok → t.atb = s.atb) ∧ Frame [.atb, .cin, .mpa, .serial] s t

/-- SET_REPORTS: its checks in order; with no record or HEAD write outstanding it sets the ring, HEAD 0 and TAIL 0 and
requests the HEAD write of 0, and it completes with OK at that write's answer, the posted HEAD then 0 (R177, R181). Of the TAKEN
write and that HEAD write, requested together, no order is said (R161, log 49). -/
def Obligations.SetReportsSetsRing : Prop :=
  (∀ (r : Rpu) (b : Nat), r.ring = some b ↔ r.ringSet = true ∧ r.ringBase = b) ∧
  ∀ (s : State) (n : Fin 8),
    (takes s = some n → cmdOf s n = some .setReports →
      let a := (takenOf s n).arg
      let base := a 16 8
      let clear := ClearOfWindows s none base 4096 ∧ ClearOfAreas s none base 4096
      let ok := a 12 1 ≤ 1 ∧ base % 4096 = 0 ∧ base + 4096 ≤ 2 ^ 40 ∧ clear
      (s.device = .hold → ok → s.mpa.has isReportWrite = false → ∃ t, exec .setReports s = .next t ∧ TakenNow n s t ∧
        OnlyRequests s t ∧ t.cin.long = some (.reportsHead n) ∧ t.cin.takeDue = false ∧
        t.rpu = { s.rpu with ringSet := true, ringBase := base, irqEn := decide (a 12 1 = 1), head := 0, tail := 0,
                             headSeq := s.rpu.headSeq + 1 } ∧
        (∃ x ∈ t.mpa.note, x.kind = .head 0 (s.rpu.headSeq + 1) true ∧ x.addr = pageBase s + 0x200 ∧
          x.bytes = [0, 0, 0, 0]) ∧
        Frame [.cin, .rpu, .mpa, .serial] s t) ∧
      (s.device = .hold → ok → s.mpa.has isReportWrite = true → ∃ t, exec .setReports s = .next t ∧ TakenNow n s t ∧
        OnlyRequests s t ∧ t.cin.long = some (.reportsWait n base (decide (a 12 1 = 1))) ∧ t.cin.takeDue = false ∧
        Frame [.cin, .mpa, .serial] s t) ∧
      (¬ (s.device = .hold ∧ ok) → ∃ t, exec .setReports s = .next t ∧
        Completes n (if s.device ≠ .hold then .notHeld else if 1 < a 12 1 then .range
          else if base % 4096 ≠ 0 then .align else if 2 ^ 40 < base + 4096 then .range else .overlap) s t ∧
        OnlyRequests s t ∧ Frame [.cin, .mpa, .serial] s t)) ∧
    (∀ txn r v seq, grantedKind txn s = some (.head v seq true) → s.cin.long = some (.reportsHead n) →
      ∃ t, exec (.setReportsHeadResponse txn r) s = .next t ∧ DoneFollows n .ok s t ∧
        NotesAdded { s.mpa with granted := s.mpa.granted.filter (fun x => x.id != txn) } t.mpa ∧
        t.rpu = { s.rpu with posted := 0, postedSeq := seq, noteLost := s.rpu.noteLost || respErr r,
                             memerrSeen := s.rpu.memerrSeen || respErr r } ∧
        Frame [.cin, .rpu, .mpa, .serial] s t)

/-! ### Flat banks -/

/-- FLAT_STORE: its checks in order; accepted, it stays in execution and requests its first burst of the image (R88,
R89). An answer to a burst ends the store with MEMORY_ERROR after an error and with OK at the image's end, once no other
burst is outstanding (R89). The image is the header of Table 11-8 and 2 bytes for each gain (R87). That one burst is
requested, and how long it is, is the model's choice (log 21).
That its bursts requested and not granted are withdrawn after an error is the model's reading (log 55). -/
def Obligations.FlatStoreWritesImage : Prop :=
  (∀ k : Bank, RecordHolds ((List.range 32).map (imageByte k)) 32
      [(0, 2, 1), (2, 2, k.tw), (4, 2, k.th), (8, 4, k.t), (12, 4, k.opn)] ∧
    ∀ tile, field ((List.range 2).map fun i => imageByte k (32 + 2 * tile + i)) 0 2 = sget k.gains tile % 65536) ∧
  ∀ (s : State) (n : Fin 8),
    (takes s = some n → cmdOf s n = some .flatStore →
      let a := (takenOf s n).arg
      let addr := a 16 8
      ∃ t r, exec .flatStore s = .next t ∧ TakenNow n s t ∧ OnlyRequests s t ∧ (r ≠ .ok → Completes n r s t) ∧
        (s.device ≠ .hold → r = .notHeld) ∧ (s.device = .hold → 1 < a 12 1 → r = .range) ∧
        (∀ b : Fin 2, s.device = .hold → b.1 = a 12 1 →
          let k := vget s.fst.banks b
          let len := 32 + 2 * (k.tw * k.th)
          let first := min (min 256 (4096 - addr % 4096)) len
          let free := ¬ (addr < pageBase s + 4096 ∧ pageBase s < addr + len) ∧ ClearOfRing s addr len
          (addr % 64 ≠ 0 → r = .align) ∧
          (addr % 64 = 0 → k.state ≠ .valid → r = .state) ∧
          (addr % 64 = 0 → k.state = .valid → 2 ^ 40 < addr + len → r = .range) ∧
          (addr % 64 = 0 → k.state = .valid → addr + len ≤ 2 ^ 40 → ¬ free → r = .overlap) ∧
          (addr % 64 = 0 → k.state = .valid → addr + len ≤ 2 ^ 40 → free → r = .ok ∧
            t.cin.long = some (.flatStore n b addr first false) ∧ t.cin.waits = s.cin.waits ∧ t.cin.takeDue = false ∧
            ∃ x ∈ t.mpa.bulk, x.kind = .flatWrite ∧ x.write = true ∧ x.addr = addr ∧ x.len = first ∧
              x.bytes = (List.range first).map (imageByte k))) ∧
        Frame [.cin, .mpa, .serial] s t) ∧
    (∀ txn r b addr done err, grantedKind txn s = some .flatWrite →
      s.cin.long = some (.flatStore n b addr done err) →
      let e := err || respErr r
      let m : Mpa := { s.mpa with granted := s.mpa.granted.filter (fun x => x.id != txn),
                                  bulk := s.mpa.bulk.filter (fun x => !(e && isFlatWrite x)),
                                  cell := s.mpa.cell.filter (fun x => !(e && isFlatWrite x)) }
      let len := 32 + 2 * ((vget s.fst.banks b).tw * (vget s.fst.banks b).th)
      ∃ t, exec (.flatStoreResponse txn r) s = .next t ∧
        t.rpu = { s.rpu with memerrSeen := s.rpu.memerrSeen || respErr r } ∧
        (m.has isFlatWrite = true ∨ (e = false ∧ done < len) →
          t.cin = { s.cin with long := some (.flatStore n b addr done e) } ∧ t.mpa = m) ∧
        (m.has isFlatWrite = false → e = true → DoneFollows n .memoryError s t ∧ t.mpa = { m with note := t.mpa.note }) ∧
        (m.has isFlatWrite = false → e = false → len ≤ done →
          DoneFollows n .ok s t ∧ t.mpa = { m with note := t.mpa.note }) ∧
        Frame [.cin, .mpa, .rpu, .serial] s t)

/-- FLAT_FETCH: its checks in order; accepted, the bank becomes INVALID and the 32 header bytes are read. The header's
answer ends the fetch with MEMORY_ERROR or RANGE, or lets it read its first burst of gains (R90, R91). The length of that
burst is the model's choice (log 21), and so is what the fields of the INVALID bank hold (logs 14 and 44). The bytes of an
answer are those of its beats, lane after lane. -/
def Obligations.FlatFetchReadsHeader : Prop :=
  (∀ (beats : List RData) (k i : Nat) (d : RData), beats[k]? = some d → i < 16 →
    (respBytes beats)[16 * k + i]? = some (d.data.extractLsb' (8 * i) 8)) ∧
  ∀ (s : State) (n : Fin 8),
    (takes s = some n → cmdOf s n = some .flatFetch →
      let a := (takenOf s n).arg
      let addr := a 16 8
      ∃ t r, exec .flatFetch s = .next t ∧ TakenNow n s t ∧ OnlyRequests s t ∧
        (r ≠ .ok → Completes n r s t ∧ t.fst = s.fst) ∧
        (s.device ≠ .hold → r = .notHeld) ∧ (s.device = .hold → 1 < a 12 1 → r = .range) ∧
        (s.device = .hold → a 12 1 ≤ 1 → addr % 64 ≠ 0 → r = .align) ∧
        (s.device = .hold → a 12 1 ≤ 1 → addr % 64 = 0 → 2 ^ 40 < addr + 32 → r = .range) ∧
        (∀ b : Fin 2, s.device = .hold → b.1 = a 12 1 → addr % 64 = 0 → addr + 32 ≤ 2 ^ 40 → r = .ok ∧
          t.fst = { s.fst with banks := vput s.fst.banks b Bank.invalid } ∧
          t.cin.long = some (.flatHeader n b addr) ∧ t.cin.waits = s.cin.waits ∧ t.cin.takeDue = false ∧
          ∃ x ∈ t.mpa.bulk, x.kind = .flatHeader ∧ x.write = false ∧ x.addr = addr ∧ x.len = 32) ∧
        Frame [.fst, .cin, .mpa, .serial] s t) ∧
    (∀ txn beats b addr, grantedKind txn s = some .flatHeader → s.cin.long = some (.flatHeader n b addr) →
      beats.length = 2 →
      let bs := respBytes beats
      let tw := field bs 2 2
      let th := field bs 4 2
      let target := field bs 8 4
      let opn := field bs 12 4
      let ok := field bs 0 2 = 1 ∧ (1 ≤ tw ∧ tw ≤ 192) ∧ (1 ≤ th ∧ th ≤ 144) ∧
        (32768 ≤ target ∧ target ≤ 16776223 ∧ opn = target / 32) ∧ addr + (32 + 2 * (tw * th)) ≤ 2 ^ 40
      let first := min (min 256 (4096 - (addr + 32) % 4096)) (2 * (tw * th))
      let m : Mpa := { s.mpa with granted := s.mpa.granted.filter (fun x => x.id != txn) }
      ∃ t, exec (.flatFetchHeaderResponse txn beats) s = .next t ∧
        t.rpu = { s.rpu with memerrSeen := s.rpu.memerrSeen || anyErr beats } ∧
        (anyErr beats = true → DoneFollows n .memoryError s t ∧ t.mpa = { m with note := t.mpa.note }) ∧
        (anyErr beats = false → ¬ ok → DoneFollows n .range s t ∧ t.mpa = { m with note := t.mpa.note }) ∧
        (anyErr beats = false → ok → t.cin = { s.cin with long := some (.flatGains n b addr tw th target opn first false []) } ∧
          t.mpa = { m with bulk := m.bulk ++ [⟨s.serial, .flatGain 0 (first / 2), .bulk, false, addr + 32, first, []⟩] }) ∧
        Frame [.cin, .mpa, .rpu, .serial] s t)

/-- The answer to a gain read: its gains are stored, each clamped to 8192..32767, and with the last of them the bank becomes VALID
with OK, a start decision event (R91, R60). After an error no further burst is requested, the gains stored are discarded, and
the fetch waits for the gain reads already granted before it ends with MEMORY_ERROR, the bank INVALID (R91, R169, log 41).
How many bursts are granted together follows log 21.
That its bursts requested and not granted are withdrawn after an error is the model's reading (log 55). -/
def Obligations.FlatFetchStoresGains : Prop :=
  ∀ (s : State) (n : Fin 8) (txn : Nat) (beats : List RData) (first m : Nat) (b : Fin 2)
    (addr tw th target opn done : Nat) (err : Bool) (g : Sparse),
    grantedKind txn s = some (.flatGain first m) →
    s.cin.long = some (.flatGains n b addr tw th target opn done err g) → beats.length = ceilDiv (2 * m) 16 →
    let e := err || anyErr beats
    let g' := if e then [] else
      sputAll g first ((List.range m).map fun i => clamp (field (respBytes beats) (2 * i) 2) 8192 32767)
    let mpa : Mpa := { s.mpa with granted := s.mpa.granted.filter (fun x => x.id != txn),
                                  cell := s.mpa.cell.filter (fun x => !(e && isFlatGain x)),
                                  bulk := s.mpa.bulk.filter (fun x => !(e && isFlatGain x)) }
    let rpu := { s.rpu with memerrSeen := s.rpu.memerrSeen || anyErr beats }
    (mpa.has isFlatGain = true ∨ (e = false ∧ done < 2 * (tw * th)) →
      exec (.flatFetchGainResponse txn beats) s =
        .next { s with cin := { s.cin with long := some (.flatGains n b addr tw th target opn done e g') },
                       mpa := mpa, rpu := rpu }) ∧
    (mpa.has isFlatGain = false → e = true → ∃ t, exec (.flatFetchGainResponse txn beats) s = .next t ∧
      DoneFollows n .memoryError s t ∧ t.mpa = { mpa with note := t.mpa.note } ∧ t.rpu = rpu ∧
      Frame [.cin, .mpa, .rpu, .serial] s t) ∧
    (mpa.has isFlatGain = false → e = false → 2 * (tw * th) ≤ done →
      ∃ u, exec (.flatFetchGainResponse txn beats) s = .next (startDecision u) ∧ DoneFollows n .ok s u ∧
        u.fst = { s.fst with banks := vput s.fst.banks b ⟨.valid, tw, th, target, opn, g'⟩ } ∧
        u.mpa = { mpa with note := u.mpa.note } ∧
        Frame [.fst, .cin, .mpa, .serial] s u)

/-! ### Device commands -/

/-- RUN: STATE in RUN or without a ring; else the device enters RUN, the lamp SETTLING with no candidate and the LAMP
flag set (R171, R135). Under a SETTLING lamp the start decision it makes finds no job (R59). -/
def Obligations.RunEntersRun : Prop :=
  ∀ (s : State) (n : Fin 8), takes s = some n → cmdOf s n = some .run →
    (s.device = .run ∨ s.rpu.ring = none → ∃ t, exec .run s = .next t ∧ Completes n .state s t ∧ OnlyRequests s t ∧
      Frame [.cin, .mpa, .serial] s t) ∧
    (s.device = .hold → s.rpu.ring ≠ none → ∃ t, exec .run s = .next t ∧ Completes n .ok s t ∧ OnlyRequests s t ∧
      t.device = .run ∧
      t.lamp = { s.lamp with state := .settling, cand := none, settleCount := 0, base := none, guardDue := false } ∧
      t.rpu = { s.rpu with fLamp := true } ∧ Frame [.device, .lamp, .rpu, .cin, .mpa, .serial] s t)

/-- RESUME needs no report room; it is refused with STATE in HOLD, and with STATE unless HALTED; else recovery becomes or
stays armed, its count 0 where it was disarmed. Neither value nor level changes (R143). -/
def Obligations.ResumeArmsRecovery : Prop :=
  ∀ (s : State) (n : Fin 8), cmdOf s n = some .resume →
    (s.cin.queue = [n] → s.cin.long = none → s.cin.takeDue = true → takes s = some n) ∧
    (takes s = some n →
      let r : Result := if s.device ≠ .run then .state else if levelOf s.cec.value ≠ .halted then .state else .ok
      ∃ t, exec .resume s = .next t ∧ Completes n r s t ∧ OnlyRequests s t ∧
        t.cec = { s.cec with armed := s.cec.armed || decide (r = .ok) } ∧
        t.lamp = { s.lamp with recovery := if r = .ok ∧ s.cec.armed = false then 0 else s.lamp.recovery } ∧
        Frame [.cec, .lamp, .cin, .mpa, .serial] s t)

/-- HOLD: STATE in HOLD; in RUN it waits for a FINISHING slot's end, else HOLD entry is made: the monitors off and their
flags set, recovery disarmed, the value kept, and the STARTING or ACTIVE job ended, by its due end or ABORTED with reason
HOLD (R172, R72, R134, R145). The sweep of a job aborted in STARTING stops: its area NEEDS_CLEAR with generation 0 (log 50), every other
area kept, its requests withdrawn and its granted bursts left to be absorbed (R13, R163); the merges of a job aborted in ACTIVE
go on unhanded (R30). The values that the monitors' fields of no meaning then hold are the model's choice (logs 14 and 44). -/
def Obligations.HoldEntryEndsJob : Prop :=
  ∀ (s : State) (n : Fin 8), takes s = some n → cmdOf s n = some .hold →
    (s.device = .hold → ∃ t, exec .hold s = .next t ∧ Completes n .state s t ∧ OnlyRequests s t ∧
      Frame [.cin, .mpa, .serial] s t) ∧
    (s.device = .run → (∃ i, (vget s.slots i).state = .finishing) → ∃ t, exec .hold s = .next t ∧ TakenNow n s t ∧
      OnlyRequests s t ∧ t.cin.long = some (.hold n) ∧ t.cin.waits = s.cin.waits ∧ t.cin.takeDue = false ∧
      Frame [.cin, .mpa, .serial] s t) ∧
    (s.device = .run → (∀ i, (vget s.slots i).state ≠ .finishing) → ∃ t, exec .hold s = .next t ∧
      Completes n .ok s t ∧ t.device = .hold ∧ t.lamp = Lamp.off s.lamp.cfg ∧ t.pdt = Pdt.off ∧
      t.cec = { s.cec with armed := false } ∧
      t.rpu = { s.rpu with queue := t.rpu.queue, fLamp := s.rpu.fLamp || decide (s.lamp.state ≠ .offline),
                           fPresence := s.rpu.fPresence || decide (s.pdt.presence ≠ .unknown) } ∧
      (busySlot s = none → OnlyRequests s t ∧ t.rpu.queue = s.rpu.queue ∧
        Frame [.device, .lamp, .pdt, .cec, .rpu, .cin, .mpa, .serial] s t) ∧
      (∀ i j, busySlot s = some i → (vget s.slots i).job = some j →
        let e := (vget s.slots i).endDue.getD (JobEnd.without .aborted .hold j)
        t.slots = vput s.slots i ((vget s.slots i).endedAs e) ∧
        t.rpu.queue = s.rpu.queue ++ [⟨i.1, s.time, j.tag, .jobEnded e.outcome e.reason e.kept j.kind e.dlo e.dhi e.counts⟩] ∧
        ((vget s.slots i).endDue ≠ none →
          t.mge = { s.mge with seq := Seq.idle } ∧ t.atb = s.atb ∧ NotesAdded s.mpa t.mpa) ∧
        ((vget s.slots i).endDue = none → (vget s.slots i).state = .active →
          t.mge = { s.mge with pixels := [], seq := Seq.idle, port := s.mge.port.map CellAcc.unhanded } ∧
          liveMerges t = false ∧ t.atb = s.atb ∧ NotesAdded s.mpa t.mpa) ∧
        ((vget s.slots i).endDue = none → (vget s.slots i).state = .starting →
          t.mge = { s.mge with seq := Seq.idle } ∧ SweepStopped s t) ∧
        (j.kind = .plate → t.fst = s.fst) ∧
        (j.kind = .flat → e.outcome ≠ .done → t.fst = { s.fst with banks := vput s.fst.banks j.bankNo Bank.invalid }) ∧
        Frame [.device, .lamp, .pdt, .cec, .rpu, .mge, .slots, .atb, .fst, .mpa, .cin, .serial] s t))

/-- SNAPSHOT queues one report of the values as they stand, and then every latch is cleared (R173). -/
def Obligations.SnapshotReportsAndClears : Prop :=
  ∀ (s : State) (n : Fin 8), takes s = some n → cmdOf s n = some .snapshot →
    ∃ t v, exec .snapshot s = .next t ∧ Completes n .ok s t ∧ OnlyRequests s t ∧
      t.rpu = { s.rpu with
        queue := s.rpu.queue ++ [⟨n.1, s.time, (takenOf s n).tag, .snapshot v⟩],
        lampLeftSteady := false, presenceChanged := false, captureStalled := false, memerrSeen := false,
        noteLost := false } ∧
      v.device = s.device ∧ v.mode = s.wmu.mode ∧ v.lamp = s.lamp.state ∧ v.presence = s.pdt.presence ∧
      v.lamBase = (if s.lamp.state = .steady then s.lamp.base.getD 0 else 0) ∧ v.cecValue = s.cec.value ∧
      v.cecLevel = levelOf s.cec.value ∧ v.recovery = s.lamp.recovery ∧
      (∀ i : Fin 4, vget v.slots i = (vget s.slots i).state ∧ vget v.areas i = (vget s.atb.areas i).state ∧
        vget v.gens i = if (vget s.atb.areas i).state = .ready then (vget s.atb.areas i).gen else 0) ∧
      (∀ b : Fin 2, vget v.banks b = (vget s.fst.banks b).state) ∧
      ((∃ i, (vget s.slots i).state = .active) →
        v.k = s.mge.seq.k ∧ v.att = s.mge.seq.att ∧ v.done = s.mge.seq.done) ∧
      ((∀ i, (vget s.slots i).state ≠ .active) → v.k = 0 ∧ v.att = .waiting ∧ v.done = 0) ∧
      v.ahead = s.rpu.queue.length ∧ v.head = s.rpu.head ∧ v.tail = s.rpu.tail ∧
      v.latches = #v[s.rpu.lampLeftSteady, s.rpu.presenceChanged, s.rpu.captureStalled, s.rpu.memerrSeen,
        s.rpu.noteLost] ∧
      Frame [.cin, .mpa, .rpu, .serial] s t

/-- RESET_PART: every slot EMPTY, no area owned, UNDEFINED ones kept and every other NEEDS_CLEAR with generation 0, no bank
BUILDING, the attempt, the finish scan and the monitors off, the counter 0, the report queue, flags and latches clear, the
ring, HEAD and TAIL kept, and every queued command and a LOAD_JOB in execution completed with RESET, the queue's DONE writes
in queue order and the RESET_PART's own behind them (R174, R14, R30, R52, R58, R74, R93, R99, R136, R146); that it waits for
all of them is log 25. The sweep, the finish scan and a record read stop, and the merges go on unhanded (R14, R30, R58, R99,
R163). The values that fields of no meaning then hold are the model's choice (logs 14 and 44). -/
def Obligations.ResetPartClearsAndCompletes : Prop :=
  ∀ (s : State) (n : Fin 8), takes s = some n → cmdOf s n = some .resetPart →
    ∃ t, exec .resetPart s = .next t ∧ t.device = .hold ∧
      (∀ i, vget t.slots i = JobSlot.empty ∧ (vget t.slots i).state = .empty ∧ (vget t.slots i).job = none) ∧
      (∀ i, vget t.atb.areas i = { vget s.atb.areas i with
        state := if (vget s.atb.areas i).state = .undefined then .undefined else .needsClear, gen := 0, owner := none }) ∧
      t.atb.sweep = none ∧
      (∀ b, vget t.fst.banks b =
        if (vget s.fst.banks b).state = .building then Bank.invalid else vget s.fst.banks b) ∧
      t.fst.comp = none ∧ t.scan = Scan.idle ∧
      liveMerges t = false ∧
      t.mge = { s.mge with pixels := [], seq := Seq.idle, port := (portOn (notScan s.mge.port)).map CellAcc.unhanded } ∧
      (let m := s.mpa.issuerStopped fun x =>
         decide (x.kind = .sweep ∧ s.atb.sweep ≠ none) || scanRead s.mge.port x || decide (x.kind = .jobFetch)
       ∃ n, t.mpa = { m with note := t.mpa.note, cell := m.cell ++ readsOf n (notScan s.mge.port) }) ∧
      t.lamp = Lamp.off s.lamp.cfg ∧ t.pdt = Pdt.off ∧ t.cec = { value := 0, armed := false } ∧
      t.rpu = { s.rpu with queue := [], busy := s.rpu.busy.map (fun _ => false), fLamp := false, fPresence := false,
                           fCecLevel := false, lampLeftSteady := false, presenceChanged := false,
                           captureStalled := false, memerrSeen := false, noteLost := false } ∧
      t.cin.shadow = s.cin.shadow ∧ t.cin.queue = [] ∧ t.cin.long = none ∧ t.cin.takeDue = false ∧
      (let q := s.cin.queue.filter (fun m => m != n)
       let loading := match s.cin.long with | some (.loadJob c _) => [c] | _ => []
       ∃ pre k ws, { id := s.serial, kind := .taken n, cls := .note, write := true, addr := pageBase s + 64 * n.1, len := 4,
                     bytes := takenBytes } ∈ pre ∧
         t.mpa.note = s.mpa.note ++ pre ++ q.mapIdx (fun i m =>
           ⟨k + i, .done m .reset false, .note, true, pageBase s + 64 * m.1, 8, doneBytes .reset false⟩) ∧
         t.cin.waits = ws ++ [⟨n, .ok, loading ++ q⟩]) ∧
      (∀ m ∈ s.cin.queue, m ≠ n → cmdSlot t m = { opened := true, late := false, takenWait := false }) ∧
      (∀ c i, s.cin.long = some (.loadJob c i) → c ≠ n → c ∉ s.cin.queue → DoneFollows c .reset s t) ∧
      Frame [.device, .slots, .atb, .fst, .scan, .mge, .lamp, .pdt, .cec, .rpu, .cin, .mpa, .serial] s t

/-! ### Job commands and job transitions -/

/-- LOAD_JOB: its checks in order; accepted, the slot enters FETCHING and its 128 record bytes are read (R56). The
record's answer leaves the slot EMPTY with FETCH_ERROR after an error and with RANGE where the record is refused; a valid
record makes it PENDING with OK, its range in force the record's, a start decision event (R57, R55). A record is valid when
its fields, at the offsets and widths of Table 11-7, lie in the ranges of R54; AREA of a FLAT job, DEPTH of a LADDER job, and
TAG, PRIO and the two times of any job are not checked. That a command which R168 lets be taken beside the fetch may be due at
the LOAD_JOB's own take is the model's reading (log 42). What the fields of an EMPTY slot hold (logs 14 and 44), and the
record, generation, OPEN and range of a slot that does not hold them yet (log 51), is the model's choice. -/
def Obligations.LoadJobFetchesRecord : Prop :=
  (∀ (bs : List Byte) (j : JobRecord), JobRecord.ofBytes bs = some j ↔ j.LaidIn bs ∧
    (j.kind = .plate → j.area ≤ 3) ∧ j.bank ≤ 1 ∧ (64 ≤ j.w ∧ j.w ≤ 12288 ∧ j.w % 8 = 0) ∧ (64 ≤ j.h ∧ j.h ≤ 9216) ∧
    (2 ≤ j.r ∧ j.r ≤ 16) ∧ (j.kind = .flat → j.dmode = .fixed) ∧ (j.dmode = .fixed → 1 ≤ j.depth ∧ j.depth ≤ 8) ∧
    (∀ i : Fin 8, 1 ≤ vget j.e i ∧ vget j.e i ≤ 1024) ∧ (∀ i : Fin 8, 1 ≤ vget j.wt i ∧ vget j.wt i ≤ 15) ∧
    j.spread ≤ 15 ∧ j.tileRejLim ≤ 4095 ∧ j.retakeLim ≤ 7 ∧ j.tee ≤ 1 ∧
    (j.dlo ≤ 16383 ∧ j.dhi ≤ 16383 ∧ j.dlo < j.dhi) ∧ j.plo ≤ 500 ∧ (9500 ≤ j.phi ∧ j.phi ≤ 10000)) ∧
  ∀ (s : State) (n : Fin 8),
    (takes s = some n → cmdOf s n = some .loadJob →
      let a := (takenOf s n).arg
      let addr := a 16 8
      ∃ t r, exec .loadJob s = .next t ∧ TakenNow n s t ∧ OnlyRequests s t ∧
        (r ≠ .ok → Completes n r s t ∧ t.slots = s.slots) ∧
        (3 < a 12 1 → r = .range) ∧ (a 12 1 ≤ 3 → addr % 128 ≠ 0 → r = .align) ∧
        (a 12 1 ≤ 3 → addr % 128 = 0 → 2 ^ 40 < addr + 128 → r = .range) ∧
        (∀ i : Fin 4, i.1 = a 12 1 → addr % 128 = 0 → addr + 128 ≤ 2 ^ 40 →
          ((vget s.slots i).state ≠ .empty → r = .busy) ∧
          ((vget s.slots i).state = .empty → r = .ok ∧
            t.slots = vput s.slots i { JobSlot.empty with state := .fetching } ∧
            t.cin.long = some (.loadJob n i) ∧ t.cin.waits = s.cin.waits ∧ TakeJudged t ∧
            ∃ x ∈ t.mpa.bulk, x.kind = .jobFetch ∧ x.write = false ∧ x.addr = addr ∧ x.len = 128)) ∧
        Frame [.slots, .cin, .mpa, .serial] s t) ∧
    (∀ txn beats i, grantedKind txn s = some .jobFetch → s.cin.long = some (.loadJob n i) → beats.length = 8 →
      let rpu := { s.rpu with memerrSeen := s.rpu.memerrSeen || anyErr beats }
      let m : Mpa := { s.mpa with granted := s.mpa.granted.filter (fun x => x.id != txn) }
      (anyErr beats = true → ∃ t, exec (.jobRecordResponse txn beats) s = .next t ∧
        t.slots = vput s.slots i JobSlot.empty ∧ DoneFollows n .fetchError s t ∧ t.rpu = rpu ∧
        t.mpa = { m with note := t.mpa.note } ∧
        Frame [.slots, .cin, .mpa, .rpu, .serial] s t) ∧
      (anyErr beats = false → JobRecord.ofBytes (respBytes beats) = none →
        ∃ t, exec (.jobRecordResponse txn beats) s = .next t ∧
        t.slots = vput s.slots i JobSlot.empty ∧ DoneFollows n .range s t ∧ t.mpa = { m with note := t.mpa.note } ∧
        Frame [.slots, .cin, .mpa, .serial] s t) ∧
      (∀ j, anyErr beats = false → JobRecord.ofBytes (respBytes beats) = some j →
        ∃ u, exec (.jobRecordResponse txn beats) s = .next (startDecision u) ∧
        u.slots = vput s.slots i { JobSlot.empty with state := .pending, job := some j, dlo := j.dlo, dhi := j.dhi } ∧
        DoneFollows n .ok s u ∧ u.mpa = { m with note := u.mpa.note } ∧ Frame [.slots, .cin, .mpa, .serial] s u))

/-- ABORT_JOB of a slot PENDING to FINISHING: the JOB_ENDED report with outcome ABORTED and reason ABORT, the slot ABORTED,
what its state held dropped, then a start decision and the command's OK; of any other slot STATE, of no slot RANGE (R68,
R65). A sweep stops, its area NEEDS_CLEAR with generation 0 (log 50) and every other area kept, and so does a finish scan, the requests
of each withdrawn and its granted transactions left to be absorbed (R13, R99, R163); merges that have begun go on unhanded (R30).
A PENDING FLAT job's abort leaves its bank as it is, which is the model's reading (log 35). What the fields of the idle
sequencer, of a stopped finish scan and of an INVALID bank then hold is the model's choice (logs 14 and 44).
That the requests not yet granted are withdrawn is the model's reading of an abort (log 55). -/
def Obligations.AbortEndsJob : Prop :=
  ∀ (s : State) (n : Fin 8), takes s = some n → cmdOf s n = some .abortJob →
    (3 < (takenOf s n).arg 12 1 → ∃ t, exec .abortJob s = .next t ∧ Completes n .range s t ∧ OnlyRequests s t ∧
      Frame [.cin, .mpa, .serial] s t) ∧
    (∀ i : Fin 4, i.1 = (takenOf s n).arg 12 1 →
      let x := vget s.slots i
      let on := x.state = .pending ∨ x.state = .starting ∨ x.state = .active ∨ x.state = .finishing
      (¬ on → ∃ t, exec .abortJob s = .next t ∧ Completes n .state s t ∧ OnlyRequests s t ∧
        Frame [.cin, .mpa, .serial] s t) ∧
      (∀ j, on → x.job = some j →
        let e := JobEnd.without .aborted .abort j
        ∃ u, exec .abortJob s = .next (complete n .ok (startDecision u)) ∧
          Completes n .ok s (complete n .ok (startDecision u)) ∧
          u.slots = vput s.slots i (x.endedAs e) ∧
          u.rpu = { s.rpu with queue := s.rpu.queue ++ [⟨i.1, s.time, j.tag, .jobEnded .aborted .abort false j.kind j.dlo j.dhi Counts.zero⟩] } ∧
          (x.state = .pending → OnlyRequests s u ∧ Frame [.slots, .rpu, .cin, .mpa, .serial] s u) ∧
          (x.state = .starting → u.mge = { s.mge with seq := Seq.idle } ∧ SweepStopped s u) ∧
          (x.state ≠ .starting → u.atb = s.atb) ∧
          (x.state = .active →
            u.mge = { s.mge with pixels := [], seq := Seq.idle, port := s.mge.port.map CellAcc.unhanded } ∧
            liveMerges u = false ∧ NotesAdded s.mpa u.mpa) ∧
          (x.state = .finishing → j.kind = .plate →
            u.mge = { s.mge with seq := Seq.idle, port := u.mge.port } ∧ ScanStopped s u) ∧
          (x.state = .finishing → j.kind = .flat → u.mge = { s.mge with seq := Seq.idle } ∧ u.fst.comp = none ∧
            u.scan = s.scan ∧ NotesAdded s.mpa u.mpa) ∧
          (x.state ≠ .finishing → u.scan = s.scan ∧ u.fst.comp = s.fst.comp) ∧
          (x.state ≠ .pending → j.kind = .flat → vget u.fst.banks j.bankNo = Bank.invalid) ∧
          (j.kind = .plate → u.fst = s.fst) ∧
          (∀ b, b ≠ j.bankNo → vget u.fst.banks b = vget s.fst.banks b) ∧
          Frame [.slots, .rpu, .mge, .atb, .fst, .scan, .cin, .mpa, .serial] s u))

/-- RELEASE_JOB of a DONE, FAILED or ABORTED slot: the slot EMPTY and its area owned by none, then a start decision and
the command's OK; of any other slot STATE, of no slot RANGE (R70, R9). What the fields of the EMPTY slot hold is the model's
choice (logs 14 and 44). -/
def Obligations.ReleaseFreesSlot : Prop :=
  ∀ (s : State) (n : Fin 8), takes s = some n → cmdOf s n = some .releaseJob →
    (3 < (takenOf s n).arg 12 1 → ∃ t, exec .releaseJob s = .next t ∧ Completes n .range s t ∧ OnlyRequests s t ∧
      Frame [.cin, .mpa, .serial] s t) ∧
    (∀ i : Fin 4, i.1 = (takenOf s n).arg 12 1 →
      let x := vget s.slots i
      let on := x.state = .done ∨ x.state = .failed ∨ x.state = .aborted
      (¬ on → ∃ t, exec .releaseJob s = .next t ∧ Completes n .state s t ∧ OnlyRequests s t ∧
        Frame [.cin, .mpa, .serial] s t) ∧
      (on → ∃ u, exec .releaseJob s = .next (complete n .ok (startDecision u)) ∧
        Completes n .ok s (complete n .ok (startDecision u)) ∧ OnlyRequests s u ∧
        u.slots = vput s.slots i JobSlot.empty ∧ u.atb.sweep = s.atb.sweep ∧
        (∀ k, vget u.atb.areas k = { vget s.atb.areas k with
          owner := if (vget s.atb.areas k).owner = some i then none else (vget s.atb.areas k).owner }) ∧
        Frame [.slots, .atb, .cin, .mpa, .serial] s u))

/-- The start conditions of Table 4-4, and the start decision: of the eligible slots the one of lowest PRIO, then of lowest
number, enters STARTING, and with none nothing changes (R59, R60, R61). The levels of the counter are those of Table 8-2
(R138); PRIO, and the area and the bank within their ranges, are those of the record (R54). How the guard time's condition
is kept is the model's reading (log 33). -/
def Obligations.StartDecisionPicksLowestPrio : Prop :=
  (∀ v : Nat, (v ≤ 95 → levelOf v = .normal) ∧ (96 ≤ v → v ≤ 127 → levelOf v = .warning) ∧
    (128 ≤ v → v ≤ 255 → levelOf v = .guarded) ∧ (v = 256 → levelOf v = .halted)) ∧
  (∀ j : JobRecord, (j.area ≤ 3 → j.areaNo.1 = j.area) ∧ (j.bank ≤ 1 → j.bankNo.1 = j.bank)) ∧
  ∀ s : State,
    (∀ i, ((vget s.slots i).state.busy = true ↔ (vget s.slots i).state = .starting ∨ (vget s.slots i).state = .active ∨
        (vget s.slots i).state = .finishing) ∧
      ∀ j, (vget s.slots i).job = some j → prioOf s i = j.prio) ∧
    (∀ i, eligible s i = true ↔
      (vget s.slots i).state = .pending ∧ s.device = .run ∧ holdRunning s = false ∧
      levelOf s.cec.value ≠ .halted ∧ (∀ k, (vget s.slots k).state.busy = false) ∧ s.lamp.state = .steady ∧
      (levelOf s.cec.value = .guarded → s.lamp.steady.held = true) ∧ s.rpu.queue.length ≤ 7 ∧
      ∃ j, (vget s.slots i).job = some j ∧
        (j.kind = .plate → s.pdt.presence = .present ∧ (vget s.fst.banks j.bankNo).state = .valid ∧
          ((vget s.atb.areas j.areaNo).owner = none ∨ (vget s.atb.areas j.areaNo).owner = some i)) ∧
        (j.kind = .flat → s.pdt.presence = .absent)) ∧
    ((∀ i, eligible s i = false) → startDecision s = s) ∧
    (∀ i, eligible s i = true →
      (∀ k, eligible s k = true → prioOf s i < prioOf s k ∨ (prioOf s i = prioOf s k ∧ i ≤ k)) →
      startDecision s = enterStarting i s)

/-- STARTING of a PLATE slot: it owns its area, and the first failing check ends it, AREA_SIZE before FLAT_MISMATCH; else it
takes the incremented generation of a READY area below 255 at once, or a clearing sweep begins (R62, R10). STARTING of a
FLAT slot: its bank BUILDING, the flat sums and counts 0, generation 0 (R63). What the other fields of the BUILDING bank hold is
the model's choice (log 48), and so are the number of the sweep's bursts that wait, one (log 21), and that the slot's fields
for a generation and an OPEN that it does not hold yet, or as a FLAT job never, stand as they were (log 51). -/
def Obligations.StartingChecksInOrder : Prop :=
  ∀ (s : State) (i : Fin 4) (j : JobRecord), (vget s.slots i).job = some j → (vget s.slots i).endDue = none →
    let x := vget s.slots i
    let a := vget s.atb.areas j.areaNo
    let b := vget s.fst.banks j.bankNo
    let t := enterStarting i s
    let sized := a.state ≠ .undefined ∧ 8 * (j.w * j.h) ≤ a.size
    let grid := b.tw = (j.w + 63) / 64 ∧ b.th = (j.h + 63) / 64
    (j.kind = .plate → ¬ sized →
      t.slots = vput s.slots i { x with state := .starting, startDue := false, endDue := some (JobEnd.without .failed .areaSize j) } ∧
      t.atb = { s.atb with areas := vput s.atb.areas j.areaNo { a with owner := some i } } ∧ Frame [.slots, .atb] s t) ∧
    (j.kind = .plate → sized → ¬ grid →
      t.slots = vput s.slots i { x with state := .starting, startDue := false, endDue := some (JobEnd.without .failed .flatMismatch j) } ∧
      t.atb = { s.atb with areas := vput s.atb.areas j.areaNo { a with owner := some i } } ∧ Frame [.slots, .atb] s t) ∧
    (j.kind = .plate → sized → grid → a.state = .ready → a.gen < 255 →
      t.slots = vput s.slots i { x with state := .starting, gen := a.gen + 1, opn := b.opn, startDue := true } ∧
      t.atb = { s.atb with areas := vput s.atb.areas j.areaNo { a with owner := some i, gen := a.gen + 1 } } ∧
      Frame [.slots, .atb] s t) ∧
    (j.kind = .plate → sized → grid → ¬ (a.state = .ready ∧ a.gen < 255) →
      t.slots = vput s.slots i { x with state := .starting } ∧
      t.atb.areas = vput s.atb.areas j.areaNo { a with owner := some i } ∧
      ((∃ c ∈ s.mge.port, c.isMerge = true ∧ c.addr < a.base + a.size ∧ a.base < c.addr + c.len) →
        t.atb.sweep = some { slot := i, area := j.areaNo, requested := 0 } ∧ t.mpa = s.mpa) ∧
      ((¬ ∃ c ∈ s.mge.port, c.isMerge = true ∧ c.addr < a.base + a.size ∧ a.base < c.addr + c.len) →
        t.atb.sweep = some { slot := i, area := j.areaNo, requested := 1 } ∧
        t.mpa = { s.mpa with bulk := s.mpa.bulk ++
          [⟨s.serial, .sweep, .bulk, true, a.base, 256, List.replicate 256 0⟩] }) ∧
      Frame [.slots, .atb, .mpa, .serial] s t) ∧
    (j.kind = .flat →
      t.slots = vput s.slots i { x with state := .starting, gen := 0, startDue := true } ∧
      t.fst = { s.fst with banks := vput s.fst.banks j.bankNo { Bank.invalid with state := .building } } ∧
      t.tsa = { s.tsa with flatSum := [], flatCount := [] } ∧ Frame [.slots, .fst, .tsa] s t)

/-- The due ACTIVE transition, with a free report entry: JOB_STARTED with the generation and the depth, the slot ACTIVE, and
the sequencer taken up afresh with its wait-since time: exposure, done, retake count, N_lo0 and every attempt counter 0, the
retake mark clear and the attempt WAITING (R64, R31). The values of its fields that mean nothing in WAITING are the model's
choice (logs 14 and 44). Without a free entry nothing happens. How a timer's condition is kept is the model's reading (log
33). -/
def Obligations.JobStartedBecomesActive : Prop :=
  ∀ (s : State) (i : Fin 4) (j : JobRecord), busySlot s = some i → (vget s.slots i).job = some j →
    (vget s.slots i).state = .starting → (vget s.slots i).startDue = true → (vget s.slots i).endDue = none →
    (8 ≤ s.rpu.queue.length → exec .jobStarted s = .next s) ∧
    (s.rpu.queue.length ≤ 7 → ∃ t, exec .jobStarted s = .next t ∧
      t.slots = vput s.slots i { vget s.slots i with state := .active, startDue := false } ∧
      t.rpu = { s.rpu with queue := s.rpu.queue ++ [⟨i.1, s.time, j.tag, .jobStarted (vget s.slots i).gen (match j.dmode with | .fixed => j.depth | .ladder => 0)⟩] } ∧
      t.mge = { s.mge with seq :=
        { k := 0, depth := (match j.dmode with | .fixed => some j.depth | .ladder => none), retakes := 0, nlo0 := 0, done := 0,
          retakeMark := false, att := .waiting, count := 0, refSum := 0, refCount := 0, sat := false, recorded := none,
          meas := none, rejects := 0, dup := 0, stray := 0, memerr := 0, gap := { start := 0, held := false },
          wait := { start := s.time, held := decide (j.expWaitMs = 0) }, endDue := none } } ∧
      Frame [.slots, .rpu, .mge] s t)

/-- A due job end, with a free report entry: JOB_ENDED, the slot in its outcome's state with the end's range in force, a FLAT
job's bank VALID after DONE and INVALID otherwise, then a start decision; a HOLD that waited for the end makes HOLD entry
in its place, with the flags it sets (R65, R72, R134). An end that is not DONE carries counts of 0, no flag and the record's
range (R65). The values that the monitors' fields of no meaning then hold are the model's choice (logs 14 and 44). -/
def Obligations.JobEndedRecordsOutcome : Prop :=
  (∀ c : LampCfg, let l := Lamp.off c
    l.state = .offline ∧ l.cand = none ∧ l.settleCount = 0 ∧ l.base = none ∧ l.recovery = 0 ∧ l.cfg = c) ∧
  (Pdt.off.presence = .unknown ∧ Pdt.off.debounce = 0 ∧
    ∀ i, vget Pdt.off.totals i = { count := 0, refSum := 0, refCount := 0, sat := false, cSum := 0, cCount := 0 }) ∧
  (∀ o r (j : JobRecord), JobEnd.without o r j = ⟨o, r, ⟨0, 0, 0, 0, 0, 0⟩, false, j.dlo, j.dhi⟩) ∧
  Bank.invalid.state = .invalid ∧
  ∀ (s : State) (i : Fin 4) (j : JobRecord) (e : JobEnd), busySlot s = some i → (vget s.slots i).job = some j →
    (vget s.slots i).endDue = some e →
    (8 ≤ s.rpu.queue.length → exec .jobEnded s = .next s) ∧
    (s.rpu.queue.length ≤ 7 → ∃ u,
      u.slots = vput s.slots i { vget s.slots i with
        state := (match e.outcome with | .done => .done | .failed => .failed | .aborted => .aborted),
        ended := some e, dlo := e.dlo, dhi := e.dhi, startDue := false, endDue := none } ∧
      u.rpu = { s.rpu with queue := s.rpu.queue ++ [⟨i.1, s.time, j.tag, .jobEnded e.outcome e.reason e.kept j.kind e.dlo e.dhi e.counts⟩] } ∧
      u.mge = { s.mge with seq := Seq.idle } ∧
      (j.kind = .plate → u.fst = s.fst) ∧
      (j.kind = .flat →
        let b := if e.outcome = .done then { vget s.fst.banks j.bankNo with state := .valid } else Bank.invalid
        u.fst = { s.fst with banks := vput s.fst.banks j.bankNo b }) ∧
      Frame [.slots, .rpu, .mge, .fst] s u ∧
      (holdRunning s = false → exec .jobEnded s = .next (startDecision u)) ∧
      (∀ n, s.cin.long = some (.hold n) → (∀ k, k ≠ i → (vget s.slots k).state.busy = false) →
        ∃ t, exec .jobEnded s = .next t ∧ t.device = .hold ∧ t.lamp = Lamp.off s.lamp.cfg ∧ t.pdt = Pdt.off ∧
          t.cec = { s.cec with armed := false } ∧ t.slots = u.slots ∧ t.fst = u.fst ∧ t.mge = u.mge ∧
          t.rpu = { u.rpu with fLamp := s.rpu.fLamp || decide (s.lamp.state ≠ .offline),
                               fPresence := s.rpu.fPresence || decide (s.pdt.presence ≠ .unknown) } ∧
          DoneFollows n .ok s t ∧ NotesAdded s.mpa t.mpa ∧
          Frame [.device, .lamp, .pdt, .cec, .rpu, .cin, .mpa, .serial] u t))

/-- The answer to a sweep burst: an error ends the sweep, the area NEEDS_CLEAR (its generation 0 by log 50), MEMERR_SEEN set and
the slot's end due with AREA_FAULT (R12); the last one makes the area READY with generation 1, which the job takes (R11, R10, R62); any other only
leaves the arbiter. That an answer requests no
further burst (log 21), and that the slot's fields stand where it takes no generation (log 51), is the model's choice.
That its bursts requested and not granted are withdrawn after an error is the model's reading (log 55). -/
def Obligations.SweepEndsInGeneration : Prop :=
  ∀ (s : State) (txn : Nat) (r : Resp) (w : Sweep) (j : JobRecord), grantedKind txn s = some .sweep →
    s.atb.sweep = some w → (vget s.slots w.slot).job = some j → (vget s.slots w.slot).endDue = none →
    let a := vget s.atb.areas w.area
    let x := vget s.slots w.slot
    let m : Mpa := { s.mpa with granted := s.mpa.granted.filter (fun q => q.id != txn) }
    (respErr r = true → ∃ t, exec (.sweepBurstResponse txn r) s = .next t ∧
      t.atb = { areas := vput s.atb.areas w.area { a with state := .needsClear, gen := 0 }, sweep := none } ∧
      t.slots = vput s.slots w.slot { x with endDue := some (JobEnd.without .failed .areaFault j), startDue := false } ∧
      t.rpu = { s.rpu with memerrSeen := true } ∧ t.mpa = m.issuerStopped (fun q => decide (q.kind = .sweep)) ∧
      Frame [.atb, .slots, .rpu, .mpa] s t) ∧
    (respErr r = false → a.size ≤ 256 * w.requested → m.has isSweep = false →
      ∃ t, exec (.sweepBurstResponse txn r) s = .next t ∧
      t.atb = { areas := vput s.atb.areas w.area { a with state := .ready, gen := 1 }, sweep := none } ∧
      t.slots = vput s.slots w.slot { x with gen := 1, opn := (vget s.fst.banks j.bankNo).opn, startDue := true } ∧
      t.mpa = m ∧ Frame [.atb, .slots, .mpa] s t) ∧
    (respErr r = false → 256 * w.requested < a.size ∨ m.has isSweep = true →
      exec (.sweepBurstResponse txn r) s = .next (s.setMpa m))

/-- A response to a transaction whose issuer has stopped is absorbed, and so is the response to the teed copy of a write all of
whose beats were captured; an error in either sets MEMERR_SEEN (R163, R158). The copy's response is not returned: the write is
only marked answered at memory, and a response given to it is the part's own (R158). Of the transactions that pin reset left,
an error in one of pass-through traffic sets no latch, which is the model's reading (log 15); and so it is that a write
begun under a TEE 1 job and gone on under a TEE 0 one is one teed copy (log 28). -/
def Obligations.AbsorbedResponsesOnlyLatch : Prop :=
  ∀ (s : State) (txn : Nat),
    let m : Mpa := { s.mpa with granted := s.mpa.granted.filter (fun q => q.id != txn) }
    (∀ x l, grantedKind txn s = some (.stopped l) → exec (.stoppedIssuerResponse txn x) s =
      .next { s with mpa := m, rpu := { s.rpu with memerrSeen := s.rpu.memerrSeen || (l && mrespErr x) } }) ∧
    (∀ r no w, grantedKind txn s = some (.capWrite no) → sWrite? no s = some w → w.full = true → w.passed = false →
      let u : State := { s with
        mpa := m
        rpu := { s.rpu with memerrSeen := s.rpu.memerrSeen || respErr r }
        wmu := { s.wmu with writes := s.wmu.writes.map fun v => if v.no = no then { w with mDone := some r } else v } }
      exec (.teedCopyResponse txn r) s = .next (releaseWrites u) ∧
        (w.sent = true → ∀ v ∈ (releaseWrites u).wmu.writes, v.no ≠ no) ∧
        (∀ v ∈ (releaseWrites u).wmu.writes, v.no = no → v.mDone = some r) ∧
        ∃ outs, releaseWrites u =
            { u with wmu := { u.wmu with writes := (releaseWrites u).wmu.writes, out := s.wmu.out ++ outs } } ∧
          ∀ id e, SOut.writeResp id no e ∈ outs → w.answer = some e)

/-! ### Capture, sequencing and merging -/

/-- The samples of a beat: a container with both strobes is a sample, with one a partial sample, with none nothing (R32). A
CAPTURE window beat of an ACTIVE slot in ACTIVE mode enters the pixel queue with room for it and 2 free report entries, else
it is held and CAPTURE_STALLED set (R33); with TEE it is forwarded too; outside ACTIVE it is plain memory. On the M-port a
captured TEE 0 beat carries no strobes and every other its own, and a write all of whose beats were captured is answered
OKAY at its last beat (R158). Behind a held beat it waits; the held one is taken with room, as R32 judges it then, and the
rest in order until one must be held, a due command take before each (R33, R150, logs 9 and 42). That a job end due holds
beats too is the model's choice (log 19). The samples of a beat enter in ascending container order (R32). The take of a beat,
one held before or not, is one: its samples, its data and strobes in the write, its forwarding at the write's address and the
write's answer are as said for it, whole. What waits behind a held beat becomes at its turn what it becomes with nothing held: a
page beat is forwarded and handed behind the command takes due (R157), a MONITOR window beat is forwarded and looked at (R127),
a pass-through write is forwarded whole (R159), an illegal one is answered with an error (R148), and a lone byte is handed (log
4). The exclusive attribute of a write of which some beats pass and some do not is the model's reading (log 27), and so is
that a write keeps the window base of its classification (log 47). That a write's address comes with its beat 0 is the
model's choice (log 8). -/
def Obligations.CaptureBeatTakenHeldOrPassed : Prop :=
  (∀ off (w : WData) (p : Sample), p ∈ captureSamples off w ↔ ∃ i, i < 8 ∧ p.idx = off / 2 + i ∧
    p.raw = container w.data i ∧
    ((w.strb.getLsbD (2 * i) = true ∧ w.strb.getLsbD (2 * i + 1) = true ∧ p.part = false) ∨
     (w.strb.getLsbD (2 * i) ≠ w.strb.getLsbD (2 * i + 1) ∧ p.part = true))) ∧
  (∀ off (w : WData), (captureSamples off w).Pairwise fun x y => x.idx < y.idx) ∧
  (∀ s : State, (capturing s = true ↔ s.wmu.mode = .active ∧ ∃ k, (vget s.slots k).state = .active) ∧
    ((∀ k, (vget s.slots k).state ≠ .active) → teeOn s = false ∧ noEndDue s = true) ∧
    (∀ k, (vget s.slots k).state = .active → (∀ m, (vget s.slots m).state = .active → m = k) →
      (noEndDue s = true ↔ (vget s.slots k).endDue = none) ∧
      ∀ j, (vget s.slots k).job = some j → (teeOn s = true ↔ j.tee = 1))) ∧
  (∀ (s : State) (no : Nat), (∀ off v, takeItem (.hand off v) s = handBytes [(off, v)] (dueTakes s)) ∧
    (sWrite? no s = none → ∀ b ds,
      takeItem (.beat no b) s = s ∧ takeItem (.whole no ds) s = s ∧ takeItem (.illegal no) s = s) ∧
    (∀ w, sWrite? no s = some w →
      let became (x : SWrite) (asks : Bool) (u : State) : State := { u with
        wmu := { u.wmu with writes := u.wmu.writes.map fun v => if v.no = no then x else v }
        mpa := if asks then { u.mpa with sys := u.mpa.sys ++
          [⟨u.serial, .sysWrite no, .sys, true, w.hdr.addr.toNat, w.hdr.beats * w.hdr.bytes, []⟩] } else u.mpa
        serial := if asks then u.serial + 1 else u.serial }
      let sent (b : WBeat) (lock passed : Bool) (u : State) : State := became { w with
        data := w.data ++ [b.w], mReq := true, mLock := if w.mReq then w.mLock else lock, passed := passed } (!w.mReq) u
      let looked := s.device = .run ∧ s.wmu.mode = .active
      (∀ b, takeItem (.beat no b) s = takeBeat w b s) ∧
      (w.path = .page → ∀ b, takeItem (.beat no b) s =
        handBytes (strobedBytes (b.hdr.beatPos b.beat - pageBase s) b.w) (sent b false w.passed (dueTakes s))) ∧
      (∀ i b, w.path = .monitor i → ¬ looked → takeItem (.beat no b) s = sent b w.hdr.lock true s) ∧
      (∀ i b, w.path = .monitor i → looked → (∀ W H R E base size,
        vget s.wmu.windows i = some ⟨.monitor W H R E, base, size⟩ → takeItem (.beat no b) s =
          monitorAll i W H R E (monitorSamples (b.hdr.beatPos b.beat - base) b.w) (sent b false w.passed s)) ∧
        ((∀ W H R E base size, vget s.wmu.windows i ≠ some ⟨.monitor W H R E, base, size⟩) →
          takeItem (.beat no b) s = sent b false w.passed s)) ∧
      (w.path = .pass → ∀ ds, takeItem (.whole no ds) s =
        became { w with data := ds, mReq := true, mLock := w.hdr.lock, passed := true } true s) ∧
      (∃ e, respErr e = true ∧ takeItem (.illegal no) s = became { w with answer := some e } false s))) ∧
  (∀ (b : WBeat) (s : State) (no base : Nat) (w : SWrite), sWrite? no s = some w → w.path = .capture base →
    let asked : Mpa := { s.mpa with sys := s.mpa.sys ++
      [⟨s.serial, .capWrite no, .sys, true, w.hdr.addr.toNat, w.hdr.beats * w.hdr.bytes, []⟩] }
    let written (d : WData) (fwd : Bool) (x : SWrite) : SWrite := { x with data := w.data ++ [d], mReq := w.mReq || fwd }
    let became (x : SWrite) : Wmu := { s.wmu with writes := s.wmu.writes.map fun v => if v.no = no then x else v }
    (capturing s = true → takeBeat w b s = { s with
      mge := { s.mge with pixels := s.mge.pixels ++ captureSamples (b.hdr.beatPos b.beat - base) b.w }
      wmu := became (written (if teeOn s then b.w else { b.w with strb := 0 }) (teeOn s) { w with
        mLock := if teeOn s = true ∧ w.mReq = false then false else w.mLock
        answer := if w.hdr.beats ≤ w.data.length + 1 ∧ w.passed = false then some .okay else w.answer })
      mpa := if teeOn s = true ∧ w.mReq = false then asked else s.mpa
      serial := if teeOn s = true ∧ w.mReq = false then s.serial + 1 else s.serial }) ∧
    (capturing s = false → takeBeat w b s = { s with
      wmu := became (written b.w true { w with mLock := if w.mReq then w.mLock else w.hdr.lock, passed := true })
      mpa := if w.mReq then s.mpa else asked
      serial := if w.mReq then s.serial else s.serial + 1 })) ∧
  (∀ (b : WBeat) (s s' : State) (no base : Nat) (w : SWrite),
    present b WritePath.isCapture s = some (no, s') → sWrite? no s' = some w → w.path = .capture base →
    let ps := captureSamples (b.hdr.beatPos b.beat - base) b.w
    let room := s.mge.pixels.length + ps.length ≤ 256 ∧ s.rpu.queue.length ≤ 6 ∧ noEndDue s = true
    let asked (t : State) := t.mpa = { s.mpa with sys := s.mpa.sys ++
      [⟨s'.serial, .capWrite no, .sys, true, w.hdr.addr.toNat, w.hdr.beats * w.hdr.bytes, []⟩] }
    let only (held : List HeldItem) (t : State) :=
      t.wmu = { s'.wmu with held := held, writes := t.wmu.writes, out := t.wmu.out }
    s'.wmu = { s.wmu with cur := s'.wmu.cur, writes := s'.wmu.writes } ∧
    (s.wmu.held ≠ [] → ∃ t, exec (.captureBeat b) s = .next t ∧
      t.wmu = { s'.wmu with held := s.wmu.held ++ [.beat no b] } ∧ Frame [.wmu, .serial] s t) ∧
    (s.wmu.held = [] → capturing s = true → ¬ room → ∃ t, exec (.captureBeat b) s = .next t ∧
      only [.beat no b] t ∧ t.rpu = { s.rpu with captureStalled := true } ∧ Frame [.wmu, .rpu, .serial] s t) ∧
    (s.wmu.held = [] → capturing s = true → room → ∃ t, exec (.captureBeat b) s = .next t ∧
      only [] t ∧ t.mge = { s.mge with pixels := s.mge.pixels ++ ps } ∧ (teeOn s = false ∨ w.mReq = true → t.mpa = s.mpa) ∧
      (teeOn s = true → w.mReq = false → asked t) ∧
      (w.Unanswered → w.mDone = none → w.data.length + 1 < w.hdr.beats ∨ teeOn s = true ∨ w.mReq = true →
        ∃ v ∈ t.wmu.writes, v.no = no ∧ v.hdr = w.hdr ∧ v.passed = w.passed ∧ v.mReq = (w.mReq || teeOn s) ∧
          v.data = w.data ++ [if teeOn s then b.w else { b.w with strb := 0 }]) ∧
      (w.Unanswered → w.passed = false → w.data.length + 1 = w.hdr.beats →
        (∀ v ∈ s'.wmu.writes, v.hdr.id = w.hdr.id → v.no = no) → SOut.writeResp w.hdr.id no .okay ∈ t.wmu.out) ∧
      Frame [.mge, .wmu, .mpa, .serial] s t) ∧
    (s.wmu.held = [] → capturing s = false → ∃ t, exec (.captureBeat b) s = .next t ∧
      only [] t ∧ (w.mReq = false → asked t) ∧ (w.mReq = true → t.mpa = s.mpa) ∧
      (w.Unanswered → ∃ v ∈ t.wmu.writes, v.no = no ∧ v.hdr = w.hdr ∧ v.data = w.data ++ [b.w] ∧ v.mReq = true ∧
        v.passed = true ∧ v.answer = none) ∧
      Frame [.wmu, .mpa, .serial] s t)) ∧
  (∀ (s : State) (no base : Nat) (b : WBeat) (rest : List HeldItem) (w : SWrite),
    s.wmu.held = .beat no b :: rest → sWrite? no s = some w → w.path = .capture base →
    let ps := captureSamples (b.hdr.beatPos b.beat - base) b.w
    let room := s.mge.pixels.length + ps.length ≤ 256 ∧ s.rpu.queue.length ≤ 6 ∧ noEndDue s = true
    (¬ room → exec .heldCaptureBeatTaken s = .next s) ∧
    (room → ∃ u, u = takeBeat w b s ∧ exec .heldCaptureBeatTaken s = .next (releaseWrites (drain rest u)) ∧
      (capturing s = true → u.mge = { s.mge with pixels := s.mge.pixels ++ ps }) ∧
      (capturing s = false → u.mge = s.mge) ∧ Frame [.mge, .wmu, .mpa, .serial] s u ∧
      (rest = [] → (releaseWrites (drain rest u)).wmu.held = []))) ∧
  (∀ (it : HeldItem) (rest : List HeldItem) (s : State),
    let u := dueTakes s
    let full := ∃ no b w base, it = .beat no b ∧ sWrite? no u = some w ∧ w.path = .capture base ∧ capturing u = true ∧
      ¬ (u.mge.pixels.length + (captureSamples (b.hdr.beatPos b.beat - base) b.w).length ≤ 256 ∧
        u.rpu.queue.length ≤ 6 ∧ noEndDue u = true)
    (full → drain (it :: rest) s = { u with wmu := { u.wmu with held := it :: rest },
                                            rpu := { u.rpu with captureStalled := true } }) ∧
    (¬ full → drain (it :: rest) s = drain rest (takeItem it u)))

/-- The sequencer takes nothing while an attempt end is due. A stray adds to STRAY in an attempt and to nothing in WAITING; past
the largest STRAY its count is a free value (log 11). A counted sample of index 0 in an attempt that has counted one makes
a RESTART due and stays (R34, R40). -/
def Obligations.StraysAndRestarts : Prop :=
  ∀ (s : State) (i : Fin 4) (j : JobRecord) (p : Sample) (rest : List Sample),
    running s = some (i, j) → s.mge.pixels = p :: rest →
    let q := s.mge.seq
    let stray := p.part = true ∨ j.w * (j.h + j.r) ≤ p.idx
    (q.endDue ≠ none → exec .sampleTake s = .next s) ∧
    (q.endDue = none → stray → q.att = .waiting →
      exec .sampleTake s = .next { s with mge := { s.mge with pixels := rest } }) ∧
    (q.endDue = none → stray → q.att ≠ .waiting → q.stray < 4294967295 →
      exec .sampleTake s =
        .next { s with mge := { s.mge with pixels := rest, seq := { q with stray := q.stray + 1 } } }) ∧
    (q.endDue = none → stray → q.att ≠ .waiting → 4294967295 ≤ q.stray →
      ∃ v : BitVec 32, exec .sampleTake s =
        .next { s with mge := { s.mge with pixels := rest, seq := { q with stray := v.toNat } },
                       freeIdx := s.freeIdx + 1 }) ∧
    (q.endDue = none → ¬ stray → p.idx = 0 → q.att ≠ .waiting → 0 < q.count →
      exec .sampleTake s = .next { s with mge := { s.mge with seq := { q with endDue := some .restart } } })

/-- A counted reference sample in WAITING begins an attempt (R35), in REFERENCE it adds to the reference sum and count, SAT
from S on (R36); the W × R-th makes the verdict: the measurement is recorded and applied to the lamp, and the attempt goes
to IMAGE under a STEADY lamp with a level or SAT, else to DISCARDING with LAMP (R37, R126). The lamp, its flag and latch, the
recovery count and the counter are those that the measurement applied to the lamp monitor leaves (R117, R124, R125). That the
recorded reason is none until the attempt is DISCARDING is the model's choice (log 52), and how a timer's condition is kept its
reading (log 33). -/
def Obligations.ReferenceSamplesReachVerdict : Prop :=
  ∀ (s : State) (i : Fin 4) (j : JobRecord) (p : Sample) (rest : List Sample),
    running s = some (i, j) → s.mge.pixels = p :: rest → s.mge.seq.endDue = none → p.part = false →
    p.idx < j.w * (j.h + j.r) → p.idx < j.w * j.r →
    (s.mge.seq.att = .waiting ∨ (s.mge.seq.att = .reference ∧ ¬ (p.idx = 0 ∧ 0 < s.mge.seq.count))) →
    let q := s.mge.seq
    let v := p.raw.toNat % 16384
    let fresh : Seq :=
      { q with att := .reference, count := 0, refSum := 0, refCount := 0, sat := false, recorded := none, meas := none,
               rejects := 0, dup := 0, stray := 0, memerr := 0 }
    let q0 := if q.att = .waiting then fresh else q
    let q1 := { q0 with count := q0.count + 1, gap := ⟨s.time, decide (j.frameGapMs = 0)⟩, refSum := q0.refSum + v,
                        refCount := q0.refCount + 1, sat := q0.sat || decide (s.mge.sensor.s ≤ v) }
    let due := if q1.count = j.w * (j.h + j.r) then some AttEnd.byCount else none
    let tsa := if q.att = .waiting then { s.tsa with rejects := [] } else s.tsa
    let m := measure s.mge.sensor q1.refSum q1.refCount q1.sat (j.eAt q.k)
    let l := s.lamp.measured m s.time
    (q1.refCount ≠ j.w * j.r → exec .sampleTake s =
      .next { s with mge := { s.mge with pixels := rest, seq := { q1 with endDue := due } }, tsa := tsa }) ∧
    (q1.refCount = j.w * j.r → ∃ t, exec .sampleTake s = .next t ∧ t.tsa = tsa ∧ t.lamp.state = l.state ∧
      t.lamp = (applyMeas m s).lamp ∧ t.rpu = (applyMeas m s).rpu ∧ t.cec = (applyMeas m s).cec ∧
      (m ≠ .dim → l.state = .steady → t.mge =
        { s.mge with pixels := rest, seq := { q1 with endDue := due, meas := some m, att := .image } }) ∧
      (m = .dim ∨ l.state ≠ .steady →
        let lost := { q1 with endDue := due, meas := some m, att := .discarding, recorded := some .lamp }
        t.mge = { s.mge with pixels := rest, seq := lost }) ∧
      Frame [.mge, .tsa, .lamp, .cec, .rpu] s t)

/-- A counted image sample: in WAITING or REFERENCE an ORDER fault (R35, R36), in DISCARDING only counted (R39); in IMAGE a
reference sample is only counted, and an image sample of a PLATE job begins its merge, whose read is requested of class CELL
at its cell's address unless an earlier access of that cell is not over (R4, R19), and one of a FLAT job is done and adds its
flat value when usable (R38, R18, R1, R80). That the merge carries the profile and the gain as they stand at the take is the
model's reading (log 16), and so is the cap on the done count (log 18). The tile of a pixel is that of R78, and E and the weight
of an exposure are the record's (R54). In what order accesses wait (log 22), and how a timer's condition is kept (log 33), is
the model's reading. -/
def Obligations.ImageSamplesAdmitted : Prop :=
  (∀ (j : JobRecord) (k : Fin 8), j.eAt k.1 = vget j.e k ∧ j.wtAt k.1 = vget j.wt k) ∧
  (∀ w pix : Nat, tileOf w pix = (pix / w / 64) * ((w + 63) / 64) + (pix % w) / 64) ∧
  ∀ (s : State) (i : Fin 4) (j : JobRecord) (p : Sample) (rest : List Sample),
    running s = some (i, j) → s.mge.pixels = p :: rest → s.mge.seq.endDue = none → p.part = false →
    p.idx < j.w * (j.h + j.r) → ¬ (p.idx = 0 ∧ 0 < s.mge.seq.count) →
    let q := s.mge.seq
    let v := p.raw.toNat % 16384
    let gap : Timer := ⟨s.time, decide (j.frameGapMs = 0)⟩
    let due (n : Nat) := if n = j.w * (j.h + j.r) then some AttEnd.byCount else none
    let q1 := { q with count := q.count + 1, gap := gap, endDue := due (q.count + 1) }
    let mge := { s.mge with pixels := rest, seq := q1 }
    let pix := p.idx - j.w * j.r
    let tile := tileOf j.w pix
    let ordered : Seq :=
      { q with att := .discarding, count := 1, refSum := 0, refCount := 0, sat := false, recorded := some .order,
               meas := none, rejects := 0, dup := 0, stray := 0, memerr := 0, gap := gap, endDue := due 1 }
    (q.att = .waiting → j.w * j.r ≤ p.idx → exec .sampleTake s =
      .next { s with tsa := { s.tsa with rejects := [] }, mge := { s.mge with pixels := rest, seq := ordered } }) ∧
    (q.att = .reference → j.w * j.r ≤ p.idx → exec .sampleTake s =
      .next { s with mge := { mge with seq := { q1 with att := .discarding, recorded := some .order } } }) ∧
    (q.att = .discarding → exec .sampleTake s = .next { s with mge := mge }) ∧
    (q.att = .image → p.idx < j.w * j.r → exec .sampleTake s = .next { s with mge := mge }) ∧
    (q.att = .image → j.w * j.r ≤ p.idx → j.kind = .plate → ∃ t, exec .sampleTake s = .next t ∧
      let m : Merge := { v := v, k := q.k, e := j.eAt q.k, w := j.wtAt q.k, c := j.spread,
                         g := sget (vget s.fst.banks j.bankNo).gains tile, gen := (vget s.slots i).gen,
                         retake := q.retakeMark, tile := tile, sensor := s.mge.sensor, live := true }
      let base := (vget s.atb.areas j.areaNo).base
      t.mge = { mge with port := t.mge.port } ∧
      (∃ a ∈ t.mge.port, a.addr = base + 8 * pix ∧ a.len = 8 ∧ a.use = .merge m) ∧
      PortGoesOn (s.mge.port ++ [⟨s.serial, base + 8 * pix, 8, .merge m, .waiting⟩]) s.mpa (s.serial + 1) t ∧
      Frame [.mge, .mpa, .serial] s t) ∧
    (q.att = .image → j.w * j.r ≤ p.idx → j.kind = .flat →
      let flat := (v - s.mge.sensor.b) * 1024 / j.eAt q.k
      let adds := classify v s.mge.sensor = .usable ∧ sget s.tsa.flatCount tile < 65535
      exec .sampleTake s = .next { s with
        mge := { mge with seq := { q1 with done := min (j.w * j.h) (q.done + 1) } },
        tsa := if adds then { s.tsa with flatSum := sput s.tsa.flatSum tile (sget s.tsa.flatSum tile + flat),
                                         flatCount := sput s.tsa.flatCount tile (sget s.tsa.flatCount tile + 1) }
               else s.tsa })

/-- A merge's read answered: an error ends the merge with READ_ERROR and MEMERR_SEEN, a duplicate ends it with DUPLICATE, and
neither writes; else the new cell is computed and its write requested, a rejection adding 1 to its tile's count, held at
65535 (R19, R21 to R26, R28). The write's answer ends the merge and hands its outcome; a merge left by its job hands
nothing (R28, R30, R42). As a merge ends, the reads of the accesses that waited for it are requested (R4), and a sweep that
waited for the last merge of its area then requests its first burst, the areas standing as they were (R11). That such a merge's rejection adds to no tile (log 17), and that done and N_lo0 stop at W × H (log
18), are the model's reading. That the sweep requests one burst and no more is its choice (log 21), and in what order
accesses wait its reading (log 22). -/
def Obligations.MergeAnswersUpdateCounts : Prop :=
  ∀ (s : State) (txn n : Nat) (a : CellAcc) (m : Merge), access? n s = some a → a.use = .merge m →
    let q := s.mge.seq
    let m0 : Mpa := { s.mpa with granted := s.mpa.granted.filter (fun x => x.id != txn) }
    let p := s.mge.port.filter fun x => decide (x.no ≠ n)
    let rs := readsOf s.serial p
    let merging (w : Sweep) := ∃ c ∈ p, c.isMerge = true ∧ c.addr < (vget s.atb.areas w.area).base + (vget s.atb.areas w.area).size ∧
      (vget s.atb.areas w.area).base < c.addr + c.len
    let ended (t : State) := (∀ x ∈ t.mge.port, x.no ≠ n) ∧
      t.mge = { s.mge with port := portOn p, seq := t.mge.seq } ∧
      (∀ w, s.atb.sweep = some w → w.requested = 0 → ¬ merging w →
        t.atb = { s.atb with sweep := some { w with requested := 1 } } ∧ t.serial = s.serial + rs.length + 1 ∧
        t.mpa = { m0 with cell := m0.cell ++ rs, bulk := m0.bulk ++ [⟨s.serial + rs.length, .sweep, .bulk, true,
          (vget s.atb.areas w.area).base, 256, List.replicate 256 0⟩] }) ∧
      ((∀ w, s.atb.sweep = some w → w.requested ≠ 0 ∨ merging w) → t.atb = s.atb ∧ PortGoesOn p m0 s.serial t)
    (∀ d, grantedKind txn s = some (.cellRead n) → a.stage = .reading →
      let j := judge (Cell.ofWord (cellWord a.addr d.data)) m.gen (some m.k)
      let r := mergeCell (Cell.judged j) m
      (respErr d.resp = true → ∃ t, exec (.mergeReadResponse txn d) s = .next t ∧ ended t ∧
        t.mge.seq = { q with memerr := if m.live then q.memerr + 1 else q.memerr } ∧
        t.rpu = { s.rpu with memerrSeen := true } ∧ Frame [.mge, .mpa, .atb, .rpu, .serial] s t) ∧
      (respErr d.resp = false → isDuplicate j m.k = true → ∃ t, exec (.mergeReadResponse txn d) s = .next t ∧ ended t ∧
        t.mge.seq = { q with dup := if m.live then q.dup + 1 else q.dup } ∧ Frame [.mge, .mpa, .atb, .serial] s t) ∧
      (respErr d.resp = false → isDuplicate j m.k = false → ∃ t, exec (.mergeReadResponse txn d) s = .next t ∧
        t.mge = { s.mge with port := s.mge.port.map fun x =>
          if x.no = n ∧ x.stage = .reading then { x with stage := .writing r.2 } else x } ∧
        (∃ x ∈ t.mge.port, x.no = n ∧ x.stage = .writing r.2) ∧
        t.mpa = { m0 with cell := m0.cell ++ [⟨s.serial, .cellWrite n, .cell, true, a.addr, 8, r.1.bytes⟩] } ∧
        t.serial = s.serial + 1 ∧
        (r.2 = .rejected → m.live = true →
          t.tsa = { s.tsa with rejects := sput s.tsa.rejects m.tile (min 65535 (sget s.tsa.rejects m.tile + 1)) }) ∧
        (r.2 ≠ .rejected ∨ m.live = false → t.tsa = s.tsa) ∧ Frame [.mge, .mpa, .tsa, .serial] s t)) ∧
    (∀ r o, grantedKind txn s = some (.cellWrite n) → a.stage = .writing o →
      ∃ t, exec (.mergeWriteResponse txn r) s = .next t ∧ ended t ∧
        t.rpu = { s.rpu with memerrSeen := s.rpu.memerrSeen || respErr r } ∧
        (m.live = false → t.mge.seq = q) ∧
        (m.live = true → t.mge.seq = { q with
          done := min (activePixels s) (q.done + 1),
          rejects := if o = .rejected then q.rejects + 1 else q.rejects,
          nlo0 := if o = .clipped true ∧ m.k = 0 then min (activePixels s) (q.nlo0 + 1) else q.nlo0,
          memerr := if respErr r then q.memerr + 1 else q.memerr }) ∧
        Frame [.mge, .mpa, .atb, .rpu, .serial] s t)

/-- A failed attempt's end, taken with 2 free report entries (R45): ATTEMPT_FAILED with the retake count raised, +8, and then
the job FAILED with HALTED, or with RETAKES past its limit, or WAITING with the retake mark (R44, R140, R41, R43). What the
other items of the ended attempt hold in WAITING is the model's choice (log 52), and so is what the fields of the idle sequencer
and of an INVALID bank hold after the job's end (logs 14 and 44); how a timer's condition is kept is its reading (log 33). -/
def Obligations.FailedAttemptReportsAndScores : Prop :=
  ∀ (s : State) (i : Fin 4) (j : JobRecord) (e : AttEnd) (r : AttReason),
    running s = some (i, j) → s.mge.seq.endDue = some e → liveMerges s = false →
    (match e with
     | .restart => r = .restart
     | .gap => r = .gap
     | .byCount => (s.mge.seq.att ≠ .image ∧ s.mge.seq.recorded = some r) ∨
         (s.mge.seq.att = .image ∧ j.kind = .plate ∧ s.mge.seq.done < j.w * j.h ∧ r = .short)) →
    let q := s.mge.seq
    let v := if 255 < s.cec.value + 8 then 256 else s.cec.value + 8
    let failed : Report := ⟨i.1, s.time, j.tag, .attemptFailed q.k r (q.retakes + 1)⟩
    let flag := s.rpu.fCecLevel || decide (levelOf v ≠ levelOf s.cec.value)
    (7 ≤ s.rpu.queue.length → exec .attemptEndTaken s = .next s) ∧
    (s.rpu.queue.length ≤ 6 → v ≤ 255 → q.retakes + 1 ≤ j.retakeLim →
      exec .attemptEndTaken s = .next { s with
        rpu := { s.rpu with queue := s.rpu.queue ++ [failed], fCecLevel := flag },
        cec := { s.cec with value := v },
        mge := { s.mge with seq := { q with retakes := q.retakes + 1, retakeMark := true, att := .waiting, endDue := none,
                                            wait := ⟨s.time, decide (j.expWaitMs = 0)⟩ } } }) ∧
    (s.rpu.queue.length ≤ 6 → 256 ≤ v ∨ j.retakeLim < q.retakes + 1 →
      let x := JobEnd.without .failed (if 256 ≤ v then .halted else .retakes) j
      ∃ u, exec .attemptEndTaken s = .next (startDecision u) ∧
        u.slots = vput s.slots i ((vget s.slots i).endedAs x) ∧
        u.rpu = { s.rpu with fCecLevel := flag, queue := s.rpu.queue ++ [failed,
          ⟨i.1, s.time, j.tag, .jobEnded .failed x.reason false j.kind j.dlo j.dhi Counts.zero⟩] } ∧
        u.cec = { s.cec with value := v } ∧ liveMerges u = false ∧
        u.mge = { s.mge with pixels := [], seq := Seq.idle, port := s.mge.port.map CellAcc.unhanded } ∧
        (j.kind = .plate → u.fst = s.fst) ∧
        (j.kind = .flat → u.fst = { s.fst with banks := vput s.fst.banks j.bankNo Bank.invalid }) ∧
        Frame [.slots, .rpu, .cec, .mge, .fst] s u)

/-- A closed exposure, taken with 2 free report entries (R45): EXPOSURE_DONE with its counts, U the tiles past the limit (R46),
the depth of a LADDER job chosen at the close of exposure 0 (R48), +2 or -1; then FAILED with HALTED, FINISHING after the
last exposure, or WAITING for the next (R47, R139, R140, R66, R94); a FLAT job's bank changes only at its end (R65, R85). The
finish scan's first burst is read as CELL traffic unless a merge of its cells is not over (R4, R95). The length of that burst,
and that one is requested, is the model's choice (log 21). So is what the other items of the closed attempt hold in WAITING (log
52), and what the fields of the idle sequencer, of the finish scan and of an INVALID bank hold (logs 14 and 44); how a timer's
condition is kept (log 33), and in what order accesses wait (log 22), is its reading. The ladder's depth for φ is that of Table 3-4, its thresholds not
rising (R48, R49).
A scan read counts as issued from its request on, which is the model's choice (log 53). -/
def Obligations.ClosedExposureReportsAndGoesOn : Prop :=
  (∀ (l : Ladder) (phi : Nat), l.t2 ≤ l.t1 → l.t3 ≤ l.t2 → l.t4 ≤ l.t3 →
    (l.t1 ≤ phi → ladderDepth l phi = vget l.depth 4) ∧ (l.t2 ≤ phi → phi < l.t1 → ladderDepth l phi = vget l.depth 3) ∧
    (l.t3 ≤ phi → phi < l.t2 → ladderDepth l phi = vget l.depth 2) ∧
    (l.t4 ≤ phi → phi < l.t3 → ladderDepth l phi = vget l.depth 1) ∧ (phi < l.t4 → ladderDepth l phi = vget l.depth 0)) ∧
  ∀ (s : State) (i : Fin 4) (j : JobRecord), running s = some (i, j) → s.mge.seq.endDue = some .byCount →
    s.mge.seq.att = .image → ¬ (j.kind = .plate ∧ s.mge.seq.done < j.w * j.h) → liveMerges s = false →
    s.rpu.queue.length ≤ 6 →
    let q := s.mge.seq
    let n := if j.kind = .plate then
        ((List.range ((j.w + 63) / 64 * ((j.h + 63) / 64))).filter fun t => decide (j.tileRejLim < sget s.tsa.rejects t)).length
      else 0
    let depth := if j.dmode = .ladder ∧ q.k = 0 then ladderDepth s.mge.ladder (256 * q.nlo0 / (j.w * j.h))
      else q.depth.getD 0
    let lam := match q.meas with | some (.level l) => l | _ => 0
    let v := if 0 < n ∨ 0 < q.memerr then (if 255 < s.cec.value + 2 then 256 else s.cec.value + 2) else s.cec.value - 1
    let done : Report := ⟨i.1, s.time, j.tag,
      .exposureDone q.k depth (decide (q.meas = some .sat)) q.done q.dup q.stray q.rejects n q.memerr lam⟩
    let rpu := { s.rpu with queue := s.rpu.queue ++ [done],
                            fCecLevel := s.rpu.fCecLevel || decide (levelOf v ≠ levelOf s.cec.value) }
    (v ≤ 255 → q.k + 1 ≠ depth → exec .attemptEndTaken s = .next { s with
      rpu := rpu, cec := { s.cec with value := v },
      mge := { s.mge with seq := { q with k := q.k + 1, depth := some depth, done := 0, retakeMark := false, att := .waiting,
                                          endDue := none, wait := ⟨s.time, decide (j.expWaitMs = 0)⟩ } } }) ∧
    (v ≤ 255 → q.k + 1 = depth → ∃ t, exec .attemptEndTaken s = .next t ∧ t.rpu = rpu ∧ t.cec = { s.cec with value := v } ∧
      t.slots = vput s.slots i { vget s.slots i with state := .finishing } ∧
      t.mge = { s.mge with pixels := [], seq := Seq.idle, port := t.mge.port } ∧
      (j.kind = .flat → t.fst = { s.fst with comp := some .first } ∧ t.mge.port = s.mge.port ∧
        Frame [.rpu, .cec, .slots, .mge, .fst] s t) ∧
      (j.kind = .plate → 0 < j.w * j.h →
        let base := (vget s.atb.areas j.areaNo).base
        let len := min (min 256 (4096 - base % 4096)) (8 * (j.w * j.h))
        t.scan = { Scan.idle with scanning := true, slot := i, next := len / 8 } ∧
        (∃ a ∈ t.mge.port, a.use = .scan ∧ a.addr = base ∧ a.len = len) ∧
        PortGoesOn (s.mge.port ++ [⟨s.serial, base, len, .scan, .waiting⟩]) s.mpa (s.serial + 1) t ∧
        Frame [.rpu, .cec, .slots, .mge, .scan, .mpa, .serial] s t)) ∧
    (256 ≤ v → ∃ u, exec .attemptEndTaken s = .next (startDecision u) ∧
      u.slots = vput s.slots i ((vget s.slots i).endedAs (JobEnd.without .failed .halted j)) ∧
      u.rpu = { rpu with queue := rpu.queue ++
        [⟨i.1, s.time, j.tag, .jobEnded .failed .halted false j.kind j.dlo j.dhi Counts.zero⟩] } ∧
      u.cec = { s.cec with value := v } ∧ liveMerges u = false ∧
      u.mge = { s.mge with pixels := [], seq := Seq.idle, port := s.mge.port.map CellAcc.unhanded } ∧
      (j.kind = .plate → u.fst = s.fst) ∧
      (j.kind = .flat → u.fst = { s.fst with banks := vput s.fst.banks j.bankNo Bank.invalid }) ∧
      Frame [.slots, .rpu, .cec, .mge, .fst] s u)

/-- The frame-gap timer, expired in an attempt with no end due, makes its failure with GAP due (R43); the exposure-wait timer,
expired in WAITING, makes the job's failure with TIMEOUT due and discards the pixel queue (R50), also where the failure then
waits for report room, which is the model's reading (log 36). A limit of 0 never expires. How a timer's condition is kept is
the model's reading (log 33). -/
def Obligations.JobTimersExpire : Prop :=
  ∀ (s : State) (i : Fin 4) (j : JobRecord), running s = some (i, j) →
    let q := s.mge.seq
    let gap := q.att ≠ .waiting ∧ q.endDue = none ∧ 0 < j.frameGapMs ∧ q.gap.held = true
    let wait := q.att = .waiting ∧ q.endDue = none ∧ 0 < j.expWaitMs ∧ q.wait.held = true
    (gap → exec .frameGapExpiry s = .next { s with mge := { s.mge with seq := { q with endDue := some .gap } } }) ∧
    (¬ gap → exec .frameGapExpiry s = .next s) ∧
    (wait → ∃ t, exec .exposureWaitExpiry s = .next t ∧
      t.slots = vput s.slots i { vget s.slots i with endDue := some (JobEnd.without .failed .timeout j), startDue := false } ∧
      t.mge = { s.mge with pixels := [], port := s.mge.port.map CellAcc.unhanded } ∧ liveMerges t = false ∧
      Frame [.slots, .mge] s t) ∧
    (¬ wait → exec .exposureWaitExpiry s = .next s)

/-! ### Finishing and rendering -/

/-- A finish scan answer: every beat's two cells are judged and counted as Table 6-2 gives, an error beat's two cells as
unreadable, beat after beat, the lower address first; the reads that waited for the access are requested (R4, R95); with the
last answer the DONE end is due with the counts and the range, kept where an AUTO job has no data (R96, R97, R98, R102 to
R104). That a completed scan's slot and position stand is the model's choice (log 45), and in what order accesses wait its
reading (log 22).
A scan read counts as issued from its request on, which is the model's choice (log 53). -/
def Obligations.FinishScanCountsAndEnds : Prop :=
  (∀ (c : Scan) (auto : Bool) (opn : Nat),
    c.count auto opn none = { c with nNodata := c.nNodata + 1 } ∧
    (∀ x : Cell, x.nuse = 0 → x.clipHi = false → x.clipLo = false →
      c.count auto opn (some x) = { c with nNodata := c.nNodata + 1 }) ∧
    (∀ x : Cell, 0 < x.nuse ∨ x.clipHi = true ∨ x.clipLo = true → c.count auto opn (some x) =
      { c with nData := c.nData + 1, nGap := if x.nuse = 0 then c.nGap + 1 else c.nGap,
               nReject := if x.reject then c.nReject + 1 else c.nReject,
               nRetake := if x.retake then c.nRetake + 1 else c.nRetake,
               hist := if auto then sput c.hist ((density (some x) opn).getD 0 / 16)
                         (sget c.hist ((density (some x) opn).getD 0 / 16) + 1) else c.hist })) ∧
  (∀ (c : Scan) (auto : Bool) (gen opn : Nat), c.beats auto gen opn [] = c ∧ ∀ (d : RData) (ds : List RData),
    let low := judge (Cell.ofWord (d.data.extractLsb' 0 64)) gen none
    let high := judge (Cell.ofWord (d.data.extractLsb' 64 64)) gen none
    (respErr d.resp = true →
      c.beats auto gen opn (d :: ds) = { c with nUnread := c.nUnread + 2 }.beats auto gen opn ds) ∧
    (respErr d.resp = false →
      c.beats auto gen opn (d :: ds) = ((c.count auto opn low).count auto opn high).beats auto gen opn ds)) ∧
  (∀ (s : State) (txn n : Nat) (beats : List RData) (a : CellAcc) (j : JobRecord),
    grantedKind txn s = some (.cellRead n) → access? n s = some a → a.use = .scan →
    (vget s.slots s.scan.slot).job = some j → 16 * beats.length = a.len → (vget s.slots s.scan.slot).endDue = none →
    let x := vget s.slots s.scan.slot
    let c := s.scan.beats (decide (j.range = .auto)) x.gen x.opn beats
    let last := c.next = j.w * j.h ∧ ∀ b ∈ s.mge.port, b.no ≠ n → b.use ≠ .scan
    let range := if j.range = .auto ∧ 0 < c.nData then autoRange c.hist c.nData j.plo j.phi else (j.dlo, j.dhi)
    let e : JobEnd := ⟨.done, .none, ⟨c.nData, c.nGap, c.nReject, c.nRetake, c.nNodata, c.nUnread⟩,
      decide (j.range = .auto ∧ c.nData = 0), range.1, range.2⟩
    ∃ t, exec (.finishScanResponse txn beats) s = .next t ∧
      t.rpu = { s.rpu with memerrSeen := s.rpu.memerrSeen || anyErr beats } ∧
      PortGoesOn (s.mge.port.filter fun b => decide (b.no ≠ n))
        { s.mpa with granted := s.mpa.granted.filter (fun q => q.id != txn) } s.serial t ∧ (∀ b ∈ t.mge.port, b.no ≠ n) ∧
      t.mge = { s.mge with port := t.mge.port } ∧
      (¬ last → t.scan = c ∧ t.slots = s.slots) ∧
      (last → t.scan = { c with scanning := false } ∧
        t.slots = vput s.slots s.scan.slot { x with endDue := some e, startDue := false }) ∧
      Frame [.rpu, .mpa, .mge, .scan, .slots, .serial] s t)

/-- The gain computation: a tile is good with a mean above 0; the target is the mean of the good tiles' means, and with none, or
OPEN below 1024, the job's end is due with DIM (R82, R83); else each tile's gain is clamped to 8192..32767, 16384 where it
is not good, and the DONE end is due with its counts (R84, R85). That the end carries the record's DLO and DHI is the model's
reading (log 26), and the two steps are its choice (log 34), with the BUILDING bank's TW, TH, T and OPEN written in the second
(log 48). -/
def Obligations.FlatGainsBuiltOrDim : Prop :=
  ∀ (s : State) (i : Fin 4) (j : JobRecord), flatFinishing s = some (i, j) →
    let x := vget s.slots i
    let tiles := List.range ((j.w + 63) / 64 * ((j.h + 63) / 64))
    let mean (t : Nat) := sget s.tsa.flatSum t / sget s.tsa.flatCount t
    let good := tiles.filter fun t => decide (0 < sget s.tsa.flatCount t ∧ 0 < mean t)
    let target := (good.map mean).sum / good.length
    (s.fst.comp = some .first → good = [] ∨ target / 32 < 1024 → exec .limitTest s = .next { s with
      fst := { s.fst with comp := none },
      slots := vput s.slots i { x with endDue := some (JobEnd.without .failed .dim j), startDue := false } }) ∧
    (s.fst.comp = some .first → good ≠ [] → 1024 ≤ target / 32 → exec .limitTest s = .next { s with
      fst := { s.fst with comp := some (.second target good.length (tiles.length - good.length)) } }) ∧
    (∀ T g b, s.fst.comp = some (.second T g b) → ∃ t gains, exec .gainComputationComplete s = .next t ∧
      let e : JobEnd := ⟨.done, .none, ⟨g, b,
        (good.filter fun k => decide (T * 16384 / mean k < 8192 ∨ 32767 < T * 16384 / mean k)).length, T, T / 32, 0⟩,
        false, j.dlo, j.dhi⟩
      t.fst = { banks := vput s.fst.banks j.bankNo ⟨.building, (j.w + 63) / 64, (j.h + 63) / 64, T, T / 32, gains⟩,
                comp := none } ∧
      (∀ k ∈ tiles, sget gains k = if 0 < sget s.tsa.flatCount k ∧ 0 < mean k then clamp (T * 16384 / mean k) 8192 32767
        else 16384) ∧
      t.slots = vput s.slots i { x with endDue := some e, startDue := false } ∧ Frame [.fst, .slots] s t)

/-- A rendered read captures the slot's generation, OPEN and range and the job's geometry at its take and requests the cell of
every pixel of its beats that lies inside the image (R107 to R110): each access reads its own cell as CELL traffic, at once
where nothing ahead of it clashes and else when that is over (R4, R110); that all reach the cell port at the take is the
model's choice (log 40), and so is that an ACTIVE slot's read is rendered while its job's end is due (log 43); in what order
accesses wait is its reading (log 22). A cell's answer gives its pixel its output, or its beat an error that sets MEMERR_SEEN (R110, R111, R163).
Which reads pass and which are rendered is Table 9-2's (R107, R156). The reads of one identifier return their beats in the
order their addresses were accepted, each read's beats in order, and none before an earlier read is whole; the first of
its identifier returns what is ready (R148, R109 to R111). A beat of D16 holds 8 pixels and one of D8 16, the first of them at the
beat's offset in the window halved or whole (R109); a cell is the half of its beat that its address gives. -/
def Obligations.ResultReadRendersCells : Prop :=
  (Fmt.perBeat .d16 = 8 ∧ Fmt.perBeat .d8 = 16 ∧ (∀ (c : Capt) (pos : Nat),
    (c.fmt = .d16 → firstPixel c pos = (pos - c.winBase) / 2) ∧ (c.fmt = .d8 → firstPixel c pos = pos - c.winBase)) ∧
    (∀ (c : Capt) (h : TxnHdr) (b : Nat), let x := startBeat c h b
      x.first = firstPixel c (h.beatPos b) ∧ x.outs = [] ∧ x.err = false) ∧
    (∀ addr (d : BeatData), (addr % 16 = 0 → cellWord addr d = d.extractLsb' 0 64) ∧
      (addr % 16 = 8 → cellWord addr d = d.extractLsb' 64 64))) ∧
  (∀ (s : State) (h : TxnHdr), (FallsInNone s h → readPasses s h = true ∧ windowOf s h = none) ∧
    (∀ i w, WindowsDisjoint s → FallsIn s h i w → windowOf s h = some w ∧
      (∀ k f, w.kind = .result k f → readPasses s h = !renders s k) ∧
      ((∀ k f, w.kind ≠ .result k f) → readPasses s h = true)) ∧
    (∀ k, renders s k = true ↔ s.wmu.mode = .active ∧ (∃ j, (vget s.slots k).job = some j ∧ j.kind = .plate) ∧
      ((vget s.slots k).state = .active ∨ (vget s.slots k).state = .finishing ∨ (vget s.slots k).state = .done))) ∧
  (∀ s : State, PortsNumbered s → ∃ outs, releaseReads s =
      { s with wmu := { s.wmu with reads := (releaseReads s).wmu.reads, out := s.wmu.out ++ outs } } ∧
    outs.Pairwise (fun x y => ∀ id n k d n' k' d', x = .readBeat id n k d → y = .readBeat id n' k' d' →
      n < n' ∨ (n = n' ∧ k < k')) ∧
    (∀ id n k d, SOut.readBeat id n k d ∈ outs → ∀ v ∈ (releaseReads s).wmu.reads, v.hdr.id = id → n ≤ v.no) ∧
    (∀ pre r post, s.wmu.reads = pre ++ r :: post → (∀ v ∈ pre, v.hdr.id ≠ r.hdr.id) → ∀ k, r.sent ≤ k →
      (∀ beats d, r.path = .memory (some beats) → beats[k]? = some d → SOut.readBeat r.hdr.id r.no k d ∈ outs) ∧
      (∀ c beats x, r.path = .render c beats → beats[k]? = some x →
        (∀ m y, r.sent ≤ m → m ≤ k → beats[m]? = some y → y.waits = []) →
        ∃ d, SOut.readBeat r.hdr.id r.no k d ∈ outs ∧ (x.err = true → d.data = 0 ∧ respErr d.resp = true) ∧
          (x.err = false → d.resp = .okay ∧
            (c.fmt = .d16 → ∀ i, i < 8 → container d.data i = BitVec.ofNat 16 (sget x.outs (x.first + i))) ∧
            (c.fmt = .d8 → ∀ i, i < 16 → d.data.extractLsb' (8 * i) 8 = BitVec.ofNat 8 (sget x.outs (x.first + i))))))) ∧
  (∀ (c : Capt) (h : TxnHdr) (b p : Nat), p ∈ (startBeat c h b).waits ↔
    firstPixel c (h.beatPos b) ≤ p ∧ p < firstPixel c (h.beatPos b) + c.fmt.perBeat ∧ p < c.w * c.h) ∧
  (∀ (s : State) (h : TxnHdr) (i : Fin 4) (f : Fmt) (base size : Nat) (j : JobRecord),
    windowOf s h = some ⟨.result i f, base, size⟩ → (vget s.slots i).job = some j → h.illegal = false →
    renders s i = true →
    let x := vget s.slots i
    let c : Capt := { gen := x.gen, opn := x.opn, w := j.w, h := j.h, render := j.render, fmt := f, winBase := base,
                      areaBase := (vget s.atb.areas j.areaNo).base, dlo := x.dlo, dhi := x.dhi }
    ∃ u, exec (.resultRead h) s = .next (releaseReads u) ∧
      u.wmu = { s.wmu with reads := s.wmu.reads ++
        [⟨s.serial, h, .render c ((List.range h.beats).map (startBeat c h)), 0⟩] } ∧
      (∀ b p, b < h.beats → p ∈ (startBeat c h b).waits → ∃ a ∈ u.mge.port, a.use = .render s.serial b p ∧
        a.addr = c.areaBase + 8 * p ∧ a.len = 8) ∧
      (∃ (new : List CellAcc) (rs : List MTxn),
        new.map (fun a => (a.use, a.addr, a.len, a.stage)) = (List.range h.beats).flatMap (fun b =>
          (startBeat c h b).waits.map fun p => (.render s.serial b p, c.areaBase + 8 * p, 8, .waiting)) ∧
        (new = [] → u.mge.port = s.mge.port ∧ u.mpa = s.mpa) ∧
        (new ≠ [] → u.mge.port = portOn (s.mge.port ++ new) ∧ u.mpa = { s.mpa with cell := s.mpa.cell ++ rs } ∧
          rs.map (fun x => { x with id := 0 }) =
            (readsOf s.serial (s.mge.port ++ new)).map (fun x => { x with id := 0 }))) ∧
      u.mge = { s.mge with port := u.mge.port } ∧ Frame [.wmu, .mge, .mpa, .serial] s u) ∧
  (∀ (s : State) (txn n no b p : Nat) (d : RData) (a : CellAcc) (r : SRead) (c : Capt) (beats : List RenderBeat)
    (x : RenderBeat), grantedKind txn s = some (.cellRead n) → access? n s = some a → a.use = .render no b p →
    sRead? no s = some r → r.path = .render c beats → beats[b]? = some x →
    let err := respErr d.resp
    let outs := if err then x.outs else sput x.outs p (renderOut c (cellWord a.addr d.data))
    ∃ u, exec (.renderCellResponse txn d) s = .next (releaseReads u) ∧
      (∃ v ∈ u.wmu.reads, v.no = no ∧ v.hdr = r.hdr ∧ v.sent = r.sent ∧ ∃ bs, v.path = .render c bs ∧
        bs[b]? = some { x with waits := x.waits.filter (fun k => k != p), err := x.err || err, outs := outs }) ∧
      u.rpu = { s.rpu with memerrSeen := s.rpu.memerrSeen || err } ∧
      u.mge = { s.mge with port := u.mge.port } ∧ (∀ y ∈ u.mge.port, y.no ≠ n) ∧
      PortGoesOn (s.mge.port.filter fun y => decide (y.no ≠ n))
        { s.mpa with granted := s.mpa.granted.filter (fun y => y.id != txn) } s.serial u ∧
      Frame [.wmu, .mge, .mpa, .rpu, .serial] s u)

/-- The logarithm (R100), which does not fall; the densities of Table 6-3 (R101), in 0..16383; the outputs of R105 and Table 6-4
(R106), in their format's range; and the range of an AUTO job, from the smallest bins whose cumulative counts reach a and
b (R103), with DLO < DHI ≤ 16383 (R104). -/
def Obligations.DensityOutputAndRangeBounds : Prop :=
  (∀ n y : Nat, 2 ^ n ≤ y → y < 2 ^ (n + 1) → logL y = 1024 * n + (y - 2 ^ n) * 1024 / 2 ^ n) ∧
  (∀ x y : Nat, 1 ≤ x → x ≤ y → logL x ≤ logL y) ∧
  (∀ opn : Nat, density none opn = none ∧ ∀ c : Cell,
    (c.nuse = 0 → c.clipHi = false → c.clipLo = false → density (some c) opn = none) ∧
    (c.nuse = 0 → c.clipHi = true → density (some c) opn = some 0) ∧
    (c.nuse = 0 → c.clipHi = false → c.clipLo = true → density (some c) opn = some 16383) ∧
    (0 < c.nuse → c.sum / c.wsum = 0 → density (some c) opn = some 16383) ∧
    (0 < c.nuse → 0 < c.sum / c.wsum → logL opn ≤ logL (c.sum / c.wsum) → density (some c) opn = some 0) ∧
    (0 < c.nuse → 0 < c.sum / c.wsum → logL (c.sum / c.wsum) < logL opn →
      density (some c) opn = some (min 16383 (logL opn - logL (c.sum / c.wsum))))) ∧
  (∀ (j : Option Cell) (opn d : Nat), density j opn = some d → d ≤ 16383) ∧
  (∀ (c : Capt) (w : BitVec 64),
    let j := judge (Cell.ofWord w) c.gen none
    let full := match c.fmt with | .d16 => 65535 | .d8 => 255
    (c.render = .positive → density j c.opn = none → renderOut c w = 0) ∧
    (∀ d, c.render = .positive → density j c.opn = some d → c.dlo < c.dhi →
      (d ≤ c.dlo → renderOut c w = 0) ∧ (c.dhi ≤ d → renderOut c w = full) ∧
      (c.dlo ≤ d → d ≤ c.dhi → renderOut c w = (d - c.dlo) * full / (c.dhi - c.dlo))) ∧
    (c.render = .linear → j = none → renderOut c w = 0) ∧
    (∀ x, c.render = .linear → j = some x →
      (0 < x.nuse → c.fmt = .d16 → renderOut c w = min 65535 (x.sum / x.wsum / 16)) ∧
      (0 < x.nuse → c.fmt = .d8 → renderOut c w = x.sum / x.wsum / 4096) ∧
      (x.nuse = 0 → x.clipHi = true → renderOut c w = full) ∧
      (x.nuse = 0 → x.clipHi = false → renderOut c w = 0)) ∧
    (c.dlo < c.dhi → renderOut c w ≤ full)) ∧
  (∀ (hist : Sparse) (n plo phi : Nat),
    let a := max 1 ((n * plo + 9999) / 10000)
    let b := max 1 ((n * phi + 9999) / 10000)
    let cum (j : Nat) := ((List.range (j + 1)).map (sget hist)).sum
    (∀ j, j ≤ 1023 → a ≤ cum j → (∀ i, i < j → cum i < a) → (autoRange hist n plo phi).1 = 16 * j) ∧
    (∀ j, j ≤ 1023 → b ≤ cum j → (∀ i, i < j → cum i < b) → (autoRange hist n plo phi).2 = 16 * j + 15) ∧
    (plo ≤ phi → (autoRange hist n plo phi).1 < (autoRange hist n plo phi).2 ∧ (autoRange hist n plo phi).2 ≤ 16383))

/-! ### Monitors -/

/-- A MONITOR window beat behind a held beat waits (R150), else it is forwarded, its data and strobes unchanged in the write; in
RUN under ACTIVE mode its full samples are looked at one after another, in ascending order (R127). A sample past the frame is
not counted, one of index 0 begins the frame anew, and the W × (H + R)-th completes it: its totals clear and it is judged (R128, R129). A completed frame with reference count 0
reaches neither monitor; any other gives its measurement and its vote (R129), in an order that is a free value (log 12). The
exclusive attribute of a write of which some beats are looked at and some pass is the model's reading (log 27), and so is that
a later beat is looked at under the window's entry as it then stands (log 47); that a write's address comes with its beat 0 is
the model's choice (log 8). -/
def Obligations.MonitorBeatLookedAt : Prop :=
  (∀ (b : WBeat) (s s' : State) (no : Nat) (w : SWrite) (i : Fin 16),
    present b WritePath.isMonitor s = some (no, s') → sWrite? no s' = some w → w.path = .monitor i →
    let asked (t : State) := (w.mReq = true → t.mpa = s.mpa) ∧
      (w.mReq = false → t.mpa = { s.mpa with sys := s.mpa.sys ++
        [⟨s'.serial, .sysWrite no, .sys, true, w.hdr.addr.toNat, w.hdr.beats * w.hdr.bytes, []⟩] })
    let carried (lock passed : Bool) (v : SWrite) := v = { w with
      data := w.data ++ [b.w], mReq := true, mLock := if w.mReq then w.mLock else lock, passed := passed }
    s'.wmu = { s.wmu with cur := s'.wmu.cur, writes := s'.wmu.writes } ∧
    (s.wmu.held ≠ [] → ∃ t, exec (.monitorBeat b) s = .next t ∧
      t.wmu = { s'.wmu with held := s.wmu.held ++ [.beat no b] } ∧ Frame [.wmu, .serial] s t) ∧
    (s.wmu.held = [] → ¬ (s.device = .run ∧ s.wmu.mode = .active) → ∃ t, exec (.monitorBeat b) s = .next t ∧ asked t ∧
      t.wmu = { s'.wmu with held := [], writes := t.wmu.writes, out := t.wmu.out } ∧ (w.Unanswered → ∃ v ∈ t.wmu.writes, carried w.hdr.lock true v) ∧
      Frame [.wmu, .mpa, .serial] s t) ∧
    (s.wmu.held = [] → s.device = .run → s.wmu.mode = .active → ∀ W H R E base size,
      vget s.wmu.windows i = some ⟨.monitor W H R E, base, size⟩ →
      ∃ u, asked u ∧ (∃ v ∈ u.wmu.writes, carried false w.passed v) ∧ u.wmu = { s'.wmu with writes := u.wmu.writes } ∧
        Frame [.wmu, .mpa, .serial] s u ∧
        let m := monitorAll i W H R E (monitorSamples (b.hdr.beatPos b.beat - base) b.w) u
        exec (.monitorBeat b) s = .next (releaseWrites { m with wmu := { m.wmu with held := [] } }))) ∧
  (∀ off (w : WData) (p : Nat × Nat), p ∈ monitorSamples off w ↔ ∃ i, i < 8 ∧ w.strb.getLsbD (2 * i) = true ∧
    w.strb.getLsbD (2 * i + 1) = true ∧ p = (off / 2 + i, (container w.data i).toNat % 16384)) ∧
  (∀ off (w : WData), (monitorSamples off w).Pairwise fun x y => x.1 < y.1) ∧
  (∀ (n : Fin 16) (w h r e : Nat) (s : State), monitorAll n w h r e [] s = s ∧ ∀ p ps,
    monitorAll n w h r e (p :: ps) s = monitorAll n w h r e ps (monitorSample n w h r e p s)) ∧
  (∀ (n : Fin 16) (w h r e i v : Nat) (s : State),
    let t0 := if i = 0 ∧ 0 < (totalsOf s n).count then Totals.zero else totalsOf s n
    let t1 := t0.add s.mge.sensor w h r i v
    (w * (h + r) ≤ i → monitorSample n w h r e (i, v) s = s) ∧
    (i < w * (h + r) → t1.count = t0.count + 1) ∧
    (i < w * (h + r) → t1.count ≠ w * (h + r) → monitorSample n w h r e (i, v) s =
      { s with pdt := { s.pdt with totals := vput s.pdt.totals n t1 } }) ∧
    (i < w * (h + r) → t1.count = w * (h + r) →
      totalsOf (monitorSample n w h r e (i, v) s) n = Totals.zero ∧
      monitorSample n w h r e (i, v) s = putTotals n Totals.zero (evaluateFrame e t1 s))) ∧
  (∀ (t : Totals) (p : Sensor) (w h r i v : Nat),
    let x := i % w
    let y := i / w - r
    let centre := w * r ≤ i ∧ w / 4 ≤ x ∧ x < 3 * w / 4 ∧ h / 4 ≤ y ∧ y < 3 * h / 4
    (i < w * r → t.add p w h r i v = { t with
      count := t.count + 1, refSum := t.refSum + v, refCount := t.refCount + 1, sat := t.sat || decide (p.s ≤ v) }) ∧
    (centre → t.add p w h r i v =
      { t with count := t.count + 1, cSum := t.cSum + (min v p.s - p.b), cCount := t.cCount + 1 }) ∧
    (w * r ≤ i → ¬ centre → t.add p w h r i v = { t with count := t.count + 1 })) ∧
  (∀ (e : Nat) (t : Totals) (s : State),
    let lamp (u : State) := applyMeas (measure s.mge.sensor t.refSum t.refCount t.sat e) u
    let presence (u : State) := match presenceVote s.mge.sensor s.lamp.cfg.presLim t with
      | some v => voteFor v u
      | none => u
    let u := { s with freeIdx := s.freeIdx + 1 }
    (t.refCount = 0 → evaluateFrame e t s = s) ∧
    (0 < t.refCount → evaluateFrame e t s = presence (lamp u) ∨ evaluateFrame e t s = lamp (presence u)))

/-- The presence detector holds UNKNOWN and count 0 at reset; a vote for the state held clears the count; a vote for a change
raises the count in its own direction or begins it at 1; the vote that would bring it to 3 changes presence; and a frame
ignored for presence leaves all three (R131). The vote of a frame: none with SAT, with a mean below B + F or at B, or with no
centre sample; else present below PRES_LIM and absent from it on (R130). -/
def Obligations.VotesDebouncePresence : Prop :=
  State.reset.pdt.presence = .unknown ∧ State.reset.pdt.debounce = 0 ∧
  (∀ (s : State) (v : Presence), v ≠ .unknown →
    (s.pdt.presence = v → (voteFor v s).pdt = { s.pdt with debounce := 0 }) ∧
    (s.pdt.presence ≠ v → s.pdt.debounce = 0 ∨ s.pdt.dir ≠ v →
      (voteFor v s).pdt = { s.pdt with debounce := 1, dir := v }) ∧
    (s.pdt.presence ≠ v → s.pdt.dir = v → s.pdt.debounce = 1 → (voteFor v s).pdt = { s.pdt with debounce := 2 }) ∧
    (s.pdt.presence ≠ v → s.pdt.dir = v → s.pdt.debounce = 2 →
      (voteFor v s).pdt = { s.pdt with presence := v, debounce := 0 })) ∧
  (∀ (s : State) (t : Totals), presenceVote s.mge.sensor s.lamp.cfg.presLim t = none → (framePresence t s).pdt = s.pdt) ∧
  (∀ (p : Sensor) (lim : Nat) (t : Totals),
    let r := t.refSum / t.refCount
    let rho := 256 * (t.cSum / t.cCount) / (r - p.b)
    let ignored := t.sat = true ∨ r < p.b + p.f ∨ r ≤ p.b ∨ t.cCount = 0
    (ignored → presenceVote p lim t = none) ∧
    (¬ ignored → rho < lim → presenceVote p lim t = some .present) ∧
    (¬ ignored → lim ≤ rho → presenceVote p lim t = some .absent))

/-- A level is in band within the half-width of its base (R118); SAT leaves the lamp as it is; a DIM or dark measurement makes a
SETTLING or STEADY lamp DARK (R119); a level in DARK begins a candidate, in SETTLING counts in its band or begins anew, in
STEADY keeps the base in band and begins a candidate out of it; a candidate with its count and time makes the lamp STEADY
at its level (R119 to R121, R123). A measurement is SAT, DIM or a level by R116. Applied to the part, a departure from STEADY sets
LAMP_LEFT_STEADY and the recovery count to 0, each change sets the LAMP flag and is a start decision event (R124), and a
level after which the lamp is STEADY counts while recovery is armed, the 64th clearing the counter (R125, R144, R141). Where the
lamp leaves SETTLING or STEADY, R115 discards settle start and steady-since: that their fields, and last measurement's, stand
as they were is the model's choice (log 44). How a timer's condition is kept is its reading (log 33). -/
def Obligations.LampFollowsMeasurements : Prop :=
  (∀ (p : Sensor) (sum count e : Nat) (sat : Bool),
    (sat = true → measure p sum count sat e = .sat) ∧
    (sat = false → sum / count < p.b + p.f → measure p sum count sat e = .dim) ∧
    (sat = false → p.b + p.f ≤ sum / count → measure p sum count sat e = .level ((sum / count - p.b) * 1024 / e))) ∧
  (∀ (m : Meas) (s : State),
    let l := s.lamp
    let l' := l.measured m s.time
    let gone : Bool := match m with
      | .sat => false
      | .dim => decide (l.state = .steady)
      | .level lam => decide (l.state = .steady ∧
          (lam < l.cfg.darkLevel ∨ inBand lam (l.base.getD 0) l.cfg.band = false))
    let level : Bool := match m with | .level _ => true | _ => false
    let changed := gone = true ∨ l'.state ≠ l.state
    let n := if gone then 0 else l.recovery
    let counts := level = true ∧ s.cec.armed = true ∧ l'.state = .steady
    let full := counts ∧ 64 ≤ n + 1
    let x := { s with
      lamp := { l' with recovery := n }
      rpu := { s.rpu with lampLeftSteady := s.rpu.lampLeftSteady || gone, fLamp := s.rpu.fLamp || decide changed } }
    let y := if changed then startDecision x else x
    (¬ counts → applyMeas m s = y) ∧
    (counts → ¬ full → applyMeas m s = { y with lamp := { l' with recovery := n + 1 } }) ∧
    (full → levelOf s.cec.value = .normal →
      applyMeas m s = { y with lamp := { l' with recovery := 0 }, cec := { value := 0, armed := false } }) ∧
    (full → levelOf s.cec.value ≠ .normal → applyMeas m s = startDecision { y with
      lamp := { l' with recovery := 0 }
      cec := { value := 0, armed := false }
      rpu := { y.rpu with fCecLevel := true } })) ∧
  (∀ lam base band, inBand lam base band = true ↔
    lam ≤ base + base * 2 * (band + 1) / 1024 ∧ base ≤ lam + base * 2 * (band + 1) / 1024) ∧
  (∀ (l : Lamp) (now : Time) (lam : Nat),
    let begun : Lamp := { l with state := .settling, cand := some lam, settleCount := 1, base := none, guardDue := false,
                                 settle := ⟨now, decide (l.cfg.settleMs = 0)⟩ }
    let dark : Lamp := { l with state := .dark, cand := none, settleCount := 0, base := none, guardDue := false }
    let steady (x : Lamp) : Lamp :=
      { x with state := .steady, base := x.cand, cand := none, settleCount := 0, guardDue := false,
               steady := ⟨now, decide (x.cfg.guardMs = 0)⟩, last := ⟨now, decide (x.cfg.staleMs = 0)⟩ }
    let settled (x : Lamp) : Lamp :=
      if x.cfg.settleFrames ≤ x.settleCount ∧ x.settle.held = true then steady x else x
    let on := l.state = .settling ∨ l.state = .steady
    l.measured .sat now = l ∧
    (on → l.measured .dim now = dark ∧ (lam < l.cfg.darkLevel → l.measured (.level lam) now = dark)) ∧
    (¬ on → l.measured .dim now = l ∧ (lam < l.cfg.darkLevel → l.measured (.level lam) now = l)) ∧
    (l.cfg.darkLevel ≤ lam →
      (l.state = .offline → l.measured (.level lam) now = l) ∧
      (l.state = .dark → l.measured (.level lam) now = settled begun) ∧
      (l.state = .settling → (∀ c, l.cand = some c → inBand lam c l.cfg.band = true →
        l.measured (.level lam) now = settled { l with settleCount := min 64 (l.settleCount + 1) })) ∧
      (l.state = .settling → (∀ c, l.cand = some c → inBand lam c l.cfg.band = false) →
        l.measured (.level lam) now = settled begun) ∧
      (∀ b, l.state = .steady → l.base = some b → inBand lam b l.cfg.band = true →
        l.measured (.level lam) now = { l with last := ⟨now, decide (l.cfg.staleMs = 0)⟩ }) ∧
      (∀ b, l.state = .steady → l.base = some b → inBand lam b l.cfg.band = false →
        l.measured (.level lam) now = settled begun)))

/-- The monitors' own events: presence changes at its third vote, which makes PLATE_GONE or PLATE_PLACED due for the job it acts
on (R132, R67), whose sweep stops, its area NEEDS_CLEAR with generation 0 (log 50), every other area kept, its requests withdrawn and its
granted bursts left to be absorbed (R13, R163), or whose attempt is dropped, its merges going on unhanded (R30, R51), the attempt
state then WAITING until the end is taken, which is the model's reading (log 20); an expired staleness timer makes a STEADY lamp SETTLING (R122, R124); the guard time is a start decision
event (R61, R60); and the 64th steady measurement under recovery clears the counter (R144, R141). What the rows of a presence
change and of a completed recovery stand for alone, the last-measurement time among it, is the model's reading (log 4), and
so is the guard time's event at any level of the counter (log 37), and how a timer's condition is kept (log 33). That the
fields of steady-since, which R115 discards, and of last measurement stand where the lamp leaves STEADY is the model's choice
(log 44), and so is that the other items of a dropped attempt stand (log 52).
That a stopped sweep's requests not yet granted are withdrawn is its reading (log 55). -/
def Obligations.MonitorEventsTakeEffect : Prop :=
  ∀ s : State,
    (∀ v, s.pdt.debounce = 2 → s.pdt.dir = v → s.pdt.presence ≠ v → v ≠ .unknown → s.device = .run →
      ∃ u, exec (.presenceChange v) s = .next (startDecision u) ∧
        u.pdt = { s.pdt with presence := v, debounce := 0 } ∧
        u.rpu = { s.rpu with fPresence := true, presenceChanged := true } ∧
        (busySlot s = none → Frame [.pdt, .rpu] s u) ∧
        (∀ i j, busySlot s = some i → (vget s.slots i).job = some j →
          let x := vget s.slots i
          let why := if j.kind = .plate then EndReason.plateGone else .platePlaced
          let acts := x.endDue = none ∧ x.state ≠ .finishing ∧ ((j.kind = .plate ∧ v = .absent) ∨ (j.kind = .flat ∧ v = .present))
          (acts → u.slots = vput s.slots i { x with endDue := some (JobEnd.without .failed why j), startDue := false }) ∧
          (acts → x.state = .active → liveMerges u = false ∧ u.mge = { s.mge with
            pixels := [], seq := { s.mge.seq with att := .waiting, endDue := none }
            port := s.mge.port.map CellAcc.unhanded }) ∧
          (acts → x.state = .starting → u.mge = s.mge ∧ SweepStopped s u ∧ u.mpa.note = s.mpa.note) ∧
          (acts → x.state ≠ .starting → u.atb = s.atb ∧ u.mpa = s.mpa) ∧
          (¬ acts → Frame [.pdt, .rpu] s u)) ∧
        Frame [.pdt, .rpu, .slots, .atb, .mge, .mpa] s u) ∧
    (s.lamp.state = .steady → 0 < s.lamp.cfg.staleMs → s.lamp.last.held = true → exec .stalenessExpiry s = .next { s with
      lamp := { s.lamp with state := .settling, cand := none, settleCount := 0, base := none, guardDue := false,
                            recovery := 0 },
      rpu := { s.rpu with lampLeftSteady := true, fLamp := true } }) ∧
    (s.lamp.state = .steady → s.lamp.guardDue = true →
      exec .guardTime s = .next (startDecision { s with lamp := { s.lamp with guardDue := false } })) ∧
    (s.cec.armed = true → s.lamp.state = .steady → s.lamp.recovery = 63 →
      let u := { s with
        cec := { value := 0, armed := false },
        lamp := { s.lamp with recovery := 0, last := ⟨s.time, decide (s.lamp.cfg.staleMs = 0)⟩ } }
      (levelOf s.cec.value = .normal → exec .recoveryComplete s = .next u) ∧
      (levelOf s.cec.value ≠ .normal → exec .recoveryComplete s =
        .next (startDecision { u with rpu := { s.rpu with fCecLevel := true } })))

/-! ### Reports -/

/-- A set coalesce flag is served with 3 free entries and no event transition waiting for room: a report of the values current, the
flag clear. What waits for room is a due ACTIVE transition or job end without a free entry, a due attempt end whose merges are
over with fewer than 2, or the chosen command without the entry its take needs (R176). Without a ring, or with no report, no
record is written (R175, R178). The record at the head of the queue is written at ring + 64 × HEAD when the drain condition holds (R178). A
record's 64 bytes hold KIND, SLOT, TIME and TAG (R186), the fields of its kind (Tables 11-10 and 11-11) by the codes of Table
11-9 (R187), and 0 elsewhere (R184). -/
def Obligations.FlagsServedAndRecordsWritten : Prop :=
  (∀ slot time tag,
    let holds (kind : Nat) (body : RepBody) (fields : List (Nat × Nat × Nat)) :=
      RecordHolds (Report.bytes ⟨slot, time, tag, body⟩) 64
        ([(0, 1, kind), (1, 1, slot), (4, 4, time.toNat), (8, 4, tag)] ++ fields)
    let bit (b : Bool) := if b then 1 else 0
    (∀ gen depth, holds 1 (.jobStarted gen depth) [(12, 1, gen), (13, 1, depth)]) ∧
    (∀ k depth held done dup stray rejects u memerr lam,
      holds 2 (.exposureDone k depth held done dup stray rejects u memerr lam)
        [(12, 1, k), (13, 1, depth), (14, 1, bit held), (16, 4, done), (20, 4, dup), (24, 4, stray), (28, 4, rejects),
         (32, 2, u), (36, 4, memerr), (40, 4, lam)]) ∧
    (∀ k reason retakes, holds 3 (.attemptFailed k reason retakes) [(12, 1, k), (13, 1, reason.code), (14, 1, retakes)]) ∧
    (∀ outcome reason kept kind dlo dhi (c : Counts),
      holds 4 (.jobEnded outcome reason kept kind dlo dhi c)
        [(12, 1, outcome.code), (13, 1, reason.code), (14, 1, bit kept), (15, 1, kind.code), (16, 2, dlo), (18, 2, dhi),
         (20, 4, c.c0), (24, 4, c.c1), (28, 4, c.c2), (32, 4, c.c3), (36, 4, c.c4), (40, 4, c.c5)]) ∧
    (∀ v : SnapValues, holds 5 (.snapshot v)
      ([(12, 1, v.device.code), (13, 1, v.mode.code), (14, 1, v.lamp.code), (15, 1, presenceCode v.presence),
        (16, 4, v.lamBase), (20, 2, v.cecValue), (22, 1, v.cecLevel.code), (23, 1, v.recovery), (28, 1, v.k),
        (29, 1, v.att.code), (30, 1, v.ahead),
        (31, 1, bit (vget v.latches 0) + 2 * bit (vget v.latches 1) + 4 * bit (vget v.latches 2) +
          8 * bit (vget v.latches 3) + 16 * bit (vget v.latches 4)), (32, 4, v.done)] ++
       four.map (fun i => (24 + i.1, 1, (vget v.slots i).code)) ++ four.map (fun i => (36 + i.1, 1, (vget v.areas i).code)) ++
       four.map (fun i => (40 + i.1, 1, vget v.gens i)) ++
       [(44, 1, (vget v.banks 0).code), (45, 1, (vget v.banks 1).code), (46, 1, v.head), (47, 1, v.tail)])) ∧
    (∀ st base, holds 6 (.lamp st base) [(12, 1, st.code), (16, 4, base)]) ∧
    (∀ p, holds 7 (.presence p) [(12, 1, presenceCode p)]) ∧
    (∀ level value, holds 8 (.cecLevel level value) [(12, 1, level.code), (14, 2, value)])) ∧
  ([Device.hold, .run].map Device.code = List.range 2 ∧ [MatchMode.active, .bypass].map MatchMode.code = List.range 2 ∧
    [LampState.offline, .dark, .settling, .steady].map LampState.code = List.range 4 ∧
    [Presence.unknown, .absent, .present].map presenceCode = List.range 3 ∧
    [CecLevel.normal, .warning, .guarded, .halted].map CecLevel.code = List.range 4 ∧
    [SlotState.empty, .fetching, .pending, .starting, .active, .finishing, .done, .failed, .aborted].map SlotState.code =
      List.range 9 ∧
    [AttState.waiting, .reference, .image, .discarding].map AttState.code = List.range 4 ∧
    [AreaState.undefined, .needsClear, .ready].map AreaState.code = List.range 3 ∧
    [BankState.invalid, .building, .valid].map BankState.code = List.range 3 ∧
    [AttReason.lamp, .order, .short, .gap, .restart].map AttReason.code = [1, 2, 3, 4, 5] ∧
    [JobOutcome.done, .failed, .aborted].map JobOutcome.code = [1, 2, 3] ∧
    [EndReason.none, .areaSize, .flatMismatch, .areaFault, .plateGone, .platePlaced, .retakes, .halted, .timeout, .dim, .abort,
      .hold].map EndReason.code = List.range 12 ∧
    [JobKind.plate, .flat].map JobKind.code = [1, 2]) ∧
  ∀ s : State,
    (OneBusy s → ∀ i, (busySlot s = some i ↔ (vget s.slots i).state.busy = true) ∧
      ∀ j, (running s = some (i, j) ↔
        (vget s.slots i).state = .active ∧ (vget s.slots i).job = some j ∧ (vget s.slots i).endDue = none)) ∧
    (liveMerges s = true ↔ ∃ a ∈ s.mge.port, ∃ m, a.use = .merge m ∧ m.live = true) ∧
    (s.rpu.ring = none ∨ s.rpu.queue = [] → exec .reportRecordWrite s = .next s) ∧
    (transitionWaits s = true ↔
      (∃ i, busySlot s = some i ∧ ((vget s.slots i).startDue = true ∨ (vget s.slots i).endDue ≠ none) ∧
        8 ≤ s.rpu.queue.length) ∨
      (∃ i j, running s = some (i, j) ∧ s.mge.seq.endDue ≠ none ∧ liveMerges s = false ∧ 7 ≤ s.rpu.queue.length) ∨
      (∃ n rest, s.cin.queue = n :: rest ∧ (∀ m ∈ s.cin.queue, cmdOf s m ≠ some .resetPart) ∧ 8 ≤ s.rpu.queue.length ∧
        ((s.cin.long = none ∧ (cmdOf s n = some .abortJob ∨ cmdOf s n = some .hold ∨ cmdOf s n = some .snapshot)) ∨
         ((∃ c i, s.cin.long = some (.loadJob c i)) ∧ (cmdOf s n = some .abortJob ∨ cmdOf s n = some .snapshot))))) ∧
    (∀ f, let may := s.rpu.flag f = true ∧ s.rpu.queue.length ≤ 5 ∧ transitionWaits s = false
      (¬ may → exec (.coalescedReportServed f) s = .next s) ∧
      (may → ∃ body : RepBody, exec (.coalescedReportServed f) s = .next (s.setRpu
          (Rpu.putFlag { s.rpu with queue := s.rpu.queue ++ [⟨255, s.time, 0, body⟩] } f false)) ∧
        (f = .lamp → body = .lamp s.lamp.state (if s.lamp.state = .steady then s.lamp.base.getD 0 else 0)) ∧
        (f = .presence → body = .presence s.pdt.presence) ∧
        (f = .cecLevel → body = .cecLevel (levelOf s.cec.value) s.cec.value))) ∧
    (∀ base r rest, s.rpu.ring = some base → s.rpu.queue = r :: rest →
      let may := (s.rpu.head + 64 - s.rpu.tail % 64) % 64 < 63 ∧ s.rpu.busy = none ∧ s.rpu.headWait = false ∧
        (∀ n b q, s.cin.long ≠ some (.reportsWait n b q)) ∧ (∀ n, s.cin.long ≠ some (.reportsHead n))
      (¬ may → exec .reportRecordWrite s = .next s) ∧
      (may → ∃ t, exec .reportRecordWrite s = .next t ∧ t.rpu = { s.rpu with busy := some true } ∧
        t.mpa = { s.mpa with note := s.mpa.note ++
          [⟨s.serial, .record, .note, true, base + 64 * s.rpu.head, 64, r.bytes⟩] } ∧ Frame [.rpu, .mpa, .serial] s t))

/-- The answer to a record write: the record leaves the queue if it is still there, HEAD advances modulo 64, and its HEAD write
is requested; a freed entry is an event of the take, which is then due exactly when its conditions are met (R168), and of the
start decision. The answer to the latest HEAD write posts its value (R178, R179,
R181, R60, R174). A SET_REPORTS that waited for the last of them goes on (R177); that it also waits for the HEAD write that a
record's answer requests in that time is the model's reading (log 23). -/
def Obligations.RecordAndHeadAnswersAdvance : Prop :=
  ∀ (s : State) (txn : Nat) (r : Resp),
    let err := { s.rpu with noteLost := s.rpu.noteLost || respErr r, memerrSeen := s.rpu.memerrSeen || respErr r }
    let m : Mpa := { s.mpa with granted := s.mpa.granted.filter (fun x => x.id != txn) }
    (grantedKind txn s = some .record →
      let linked := s.rpu.busy = some true
      let head := (s.rpu.head + 1) % 64
      ∃ u, exec (.reportRecordResponse txn r) s = .next (if linked then startDecision u else u) ∧
        u.rpu = { err with queue := if linked then s.rpu.queue.drop 1 else s.rpu.queue, head := head, busy := none,
                           headWait := true, headSeq := s.rpu.headSeq + 1 } ∧
        u.mpa = { m with note := s.mpa.note ++
          [⟨s.serial, .head head (s.rpu.headSeq + 1) false, .note, true, pageBase s + 0x200, 4, leBytes 4 head⟩] } ∧
        u.cin = (if linked then { s.cin with takeDue := (takable u).isSome } else s.cin) ∧
        Frame [.rpu, .mpa, .cin, .serial] s u) ∧
    (∀ v seq, grantedKind txn s = some (.head v seq false) →
      let rpu := { err with posted := if s.rpu.postedSeq < seq then v else s.rpu.posted,
                            postedSeq := if s.rpu.postedSeq < seq then seq else s.rpu.postedSeq }
      ((∀ n b q, s.cin.long ≠ some (.reportsWait n b q)) ∨ m.has isReportWrite = true →
        exec (.headWriteResponse txn r) s = .next { s with rpu := rpu, mpa := m }) ∧
      (∀ n b q, s.cin.long = some (.reportsWait n b q) → m.has isReportWrite = false →
        ∃ t, exec (.headWriteResponse txn r) s = .next t ∧
          t.rpu = { rpu with ringSet := true, ringBase := b, irqEn := q, head := 0, tail := 0, headSeq := s.rpu.headSeq + 1 } ∧
          t.cin = { s.cin with long := some (.reportsHead n) } ∧
          t.mpa = { m with note := s.mpa.note ++
            [⟨s.serial, .head 0 (s.rpu.headSeq + 1) true, .note, true, pageBase s + 0x200, 4, leBytes 4 0⟩] } ∧
          Frame [.rpu, .cin, .mpa, .serial] s t))

/-! ### The bus path -/

/-- A pass-through read or write is forwarded unchanged as SYS traffic, a write behind held data waiting its turn (R159, R150),
and its response is returned. An illegal transaction is never forwarded and is answered with an error (R148). Which whole
writes pass is Table 9-2's (R156), in a CAPTURE or MONITOR window while nothing waits ahead. Write responses of one
identifier are given in the order their addresses were accepted, and none before an earlier write's; the first unanswered
of its identifier is answered when its response is there (R148). A transaction is illegal with more than 16 beats, as an
incrementing burst that would cross a 4 KiB boundary, and as a wrapping one of another length than 2, 4, 8 or 16 or of a start
that is no multiple of its transfer size; and each beat lies in the aligned 16-byte position of its own address (R148). That the address of
a whole write and all its data beats come in one step, so that the order of one identifier's responses is that of these steps,
is the model's choice (log 8). -/
def Obligations.PassThroughForwardedIllegalRefused : Prop :=
  (∀ h : TxnHdr,
    let a := h.addr.toNat
    let z := 2 ^ h.size.1
    let n := h.len.toNat + 1
    h.bytes = z ∧ h.beats = n ∧
    (h.illegal = true ↔ 16 < n ∨ (h.burst = .incr ∧ a / 4096 ≠ (a / z * z + n * z - 1) / 4096) ∨
      (h.burst = .wrap ∧ ((n ≠ 2 ∧ n ≠ 4 ∧ n ≠ 8 ∧ n ≠ 16) ∨ a % z ≠ 0))) ∧
    (h.burst = .fixed → ∀ j, h.beatPos j = a / 16 * 16) ∧
    (h.burst = .incr → h.beatPos 0 = a / 16 * 16 ∧ ∀ j, 1 ≤ j → h.beatPos j = (a / z * z + j * z) / 16 * 16) ∧
    (h.burst = .wrap → ∀ j, let q := a / (n * z) * (n * z)
      h.beatPos j = (q + (a - q + j * z) % (n * z)) / 16 * 16)) ∧
  ((∀ r, respErr r = true ↔ r = .slverr ∨ r = .decerr) ∧
    ∀ ds : List RData, anyErr ds = true ↔ ∃ d ∈ ds, respErr d.resp = true) ∧
  (∀ (s : State) (h : TxnHdr), (FallsInNone s h → wholePasses s h = true) ∧
    (∀ i w, WindowsDisjoint s → FallsIn s h i w →
      (w.kind = .command → wholePasses s h = false) ∧ (∀ k f, w.kind = .result k f → wholePasses s h = true) ∧
      (w.kind = .capture → (wholePasses s h = true ↔
        ¬ (s.wmu.mode = .active ∧ ∃ k, (vget s.slots k).state = .active) ∧ s.wmu.held = [])) ∧
      (∀ W H R E, w.kind = .monitor W H R E → (wholePasses s h = true ↔
        ¬ (s.device = .run ∧ s.wmu.mode = .active) ∧ s.wmu.held = [])))) ∧
  (∀ s : State, PortsNumbered s → ∃ outs, releaseWrites s =
      { s with wmu := { s.wmu with writes := (releaseWrites s).wmu.writes, out := s.wmu.out ++ outs } } ∧
    outs.Pairwise (fun x y => ∀ id n r n' r', x = .writeResp id n r → y = .writeResp id n' r' → n < n') ∧
    (∀ id n r, SOut.writeResp id n r ∈ outs → ∀ v ∈ (releaseWrites s).wmu.writes, v.hdr.id = id → v.sent = false → n ≤ v.no) ∧
    (∀ pre w post r, s.wmu.writes = pre ++ w :: post → (∀ v ∈ pre, v.hdr.id = w.hdr.id → v.sent = true) → w.sent = false →
      w.answer = some r → SOut.writeResp w.hdr.id w.no r ∈ outs)) ∧
  ∀ (s : State) (h : TxnHdr),
    (h.illegal = false → readPasses s h = true → ∃ t, exec (.passThrough (.read h)) s = .next t ∧
      t.wmu = { s.wmu with reads := s.wmu.reads ++ [⟨s.serial, h, .memory none, 0⟩] } ∧
      t.mpa = { s.mpa with sys := s.mpa.sys ++
        [⟨s.serial + 1, .sysRead s.serial, .sys, false, h.addr.toNat, h.beats * h.bytes, []⟩] } ∧
      Frame [.wmu, .mpa, .serial] s t) ∧
    (∀ ds, h.illegal = false → ds.length = h.beats → s.wmu.cur = none → wholePasses s h = true →
      (∀ v ∈ s.wmu.writes, v.no ≠ s.serial) → ∃ t, exec (.passThrough (.write h ds)) s = .next t ∧
      (s.wmu.held ≠ [] → t.wmu.held = s.wmu.held ++ [.whole s.serial ds] ∧ t.mpa = s.mpa) ∧
      (s.wmu.held = [] → t.wmu.held = [] ∧ t.mpa = { s.mpa with sys := s.mpa.sys ++
        [⟨s.serial + 1, .sysWrite s.serial, .sys, true, h.addr.toNat, h.beats * h.bytes, []⟩] } ∧
        ∃ v ∈ t.wmu.writes, v.no = s.serial ∧ v.hdr = h ∧ v.data = ds ∧ v.mReq = true ∧ v.mLock = h.lock ∧
          v.answer = none) ∧
      t.wmu = { s.wmu with held := t.wmu.held, writes := t.wmu.writes, out := t.wmu.out } ∧
      Frame [.wmu, .mpa, .serial] s t) ∧
    (∀ txn no r beats, grantedKind txn s = some (.sysRead no) → sRead? no s = some r → beats.length = r.hdr.beats →
      ∃ u, exec (.passThroughResponse txn (.read beats)) s = .next (releaseReads u) ∧
        u.wmu = { s.wmu with reads := u.wmu.reads } ∧
        (∃ v ∈ u.wmu.reads, v.no = no ∧ v.hdr = r.hdr ∧ v.path = .memory (some beats)) ∧
        u.mpa = { s.mpa with granted := s.mpa.granted.filter (fun x => x.id != txn) } ∧ Frame [.wmu, .mpa] s u) ∧
    (∀ txn no w r, (grantedKind txn s = some (.sysWrite no) ∨ (grantedKind txn s = some (.capWrite no) ∧ w.passed = true)) →
      sWrite? no s = some w → w.full = true →
      ∃ u, exec (.passThroughResponse txn (.write r)) s = .next (releaseWrites u) ∧
        u.wmu = { s.wmu with writes := u.wmu.writes } ∧
        (∃ v ∈ u.wmu.writes, v.no = no ∧ v.hdr = w.hdr ∧ v.answer = some r ∧ v.mDone = some r) ∧
        u.mpa = { s.mpa with granted := s.mpa.granted.filter (fun x => x.id != txn) } ∧ Frame [.wmu, .mpa] s u) ∧
    (h.illegal = true → ∃ t, exec (.illegalTransaction false h) s = .next t ∧
      ((∀ v ∈ s.wmu.reads, v.hdr.id ≠ h.id) → ∃ e, respErr e = true ∧
        ∀ k, k < h.beats → SOut.readBeat h.id s.serial k ⟨0, e⟩ ∈ t.wmu.out) ∧
      t.wmu = { s.wmu with reads := t.wmu.reads, out := t.wmu.out } ∧ Frame [.wmu, .serial] s t) ∧
    (h.illegal = true → s.wmu.cur = none → (∀ v ∈ s.wmu.writes, v.no ≠ s.serial) →
      ∃ t, exec (.illegalTransaction true h) s = .next t ∧
      (s.wmu.held ≠ [] → t.wmu.held = s.wmu.held ++ [.illegal s.serial]) ∧
      (s.wmu.held = [] → (∀ v ∈ s.wmu.writes, v.hdr.id ≠ h.id) → ∃ e, respErr e = true ∧
        SOut.writeResp h.id s.serial e ∈ t.wmu.out) ∧
      t.wmu = { s.wmu with held := t.wmu.held, writes := t.wmu.writes, out := t.wmu.out } ∧ Frame [.wmu, .serial] s t)

/-- The arbiter grants the NOTE candidate first, else the first of SYS, CELL and BULK with a candidate from the class after the
one last granted; a grant to NOTE leaves the rotation; with no candidate nothing happens (R162). A DONE write carries the
mark as it stands at its grant, the model's choice (log 24). The grant of a HEAD write of the drain lets the next record be
written (R178), and that of a sweep, scan, store or fetch burst lets its issuer request the next, while one is left and
no answer was an error (R11, R89, R91, R95); that it is requested then, and its length, is the model's choice (log 21).
A scan read counts as issued from its request on, which is the model's choice (log 53). -/
def Obligations.GrantFollowsRotation : Prop :=
  (∀ (s : State) (rd wr : Bool),
    let order : List MClass := .note :: (match s.mpa.last with
      | .sys => [.cell, .bulk, .sys] | .cell => [.bulk, .sys, .cell] | .bulk => [.sys, .cell, .bulk]
      | .note => [.sys, .cell, .bulk])
    let ready (c : MClass) (x : MTxn) := (∃ xs, s.mpa.queueOf c = x :: xs) ∧ (if x.write then wr else rd) = true
    ((∀ c x, ¬ ready c x) → exec (.mpaGrant rd wr) s = .next s) ∧
    (∀ pre c post x, order = pre ++ c :: post → ready c x → (∀ d ∈ pre, ∀ y, ¬ ready d y) →
      ∃ u, exec (.mpaGrant rd wr) s = .next (afterGrant x u) ∧ Frame [.mpa] s u ∧
        u.mpa.granted = s.mpa.granted ++ [issuedAs s x] ∧ u.mpa.last = (if c = .note then s.mpa.last else c) ∧
        u.mpa.queueOf c = (s.mpa.queueOf c).drop 1 ∧ (∀ d, d ≠ c → u.mpa.queueOf d = s.mpa.queueOf d))) ∧
  (∀ (s : State) (x : MTxn),
    (∀ n res l, x.kind = .done n res l → issuedAs s x = { x with
      kind := .done n res (cmdSlot s n).late, bytes := doneBytes res (cmdSlot s n).late }) ∧
    ((∀ n res l, x.kind ≠ .done n res l) → issuedAs s x = x)) ∧
  (∀ (x : MTxn) (u : State),
    let more (kind : MKind) (write : Bool) (addr len : Nat) (bytes : List Byte) : Mpa :=
      { u.mpa with bulk := u.mpa.bulk ++ [⟨u.serial, kind, .bulk, write, addr, len, bytes⟩] }
    let burst (addr left : Nat) := min (min 256 (4096 - addr % 4096)) left
    (∀ v q, x.kind = .head v q false → afterGrant x u = { u with rpu := { u.rpu with headWait := false } }) ∧
    (x.kind = .sweep →
      (∀ w, u.atb.sweep = some w →
        let a := vget u.atb.areas w.area
        (256 * w.requested < a.size → afterGrant x u = { u with
          atb := { u.atb with sweep := some { w with requested := w.requested + 1 } }
          mpa := more .sweep true (a.base + 256 * w.requested) 256 (List.replicate 256 0)
          serial := u.serial + 1 }) ∧
        (a.size ≤ 256 * w.requested → afterGrant x u = u)) ∧
      (u.atb.sweep = none → afterGrant x u = u)) ∧
    (x.kind = .flatWrite →
      (∀ n b addr done err, u.cin.long = some (.flatStore n b addr done err) →
        let k := vget u.fst.banks b
        let len := 32 + 2 * (k.tw * k.th)
        let next := burst (addr + done) (len - done)
        (err = false → done < len → afterGrant x u = { u with
          cin := { u.cin with long := some (.flatStore n b addr (done + next) false) }
          mpa := more .flatWrite true (addr + done) next ((List.range next).map fun i => imageByte k (done + i))
          serial := u.serial + 1 }) ∧
        (err = true ∨ len ≤ done → afterGrant x u = u)) ∧
      ((∀ n b addr done err, u.cin.long ≠ some (.flatStore n b addr done err)) → afterGrant x u = u)) ∧
    (∀ f m, x.kind = .flatGain f m →
      (∀ n b addr tw th t opn done err g, u.cin.long = some (.flatGains n b addr tw th t opn done err g) →
        let next := burst (addr + 32 + done) (2 * (tw * th) - done)
        (err = false → done < 2 * (tw * th) → afterGrant x u = { u with
          cin := { u.cin with long := some (.flatGains n b addr tw th t opn (done + next) false g) }
          mpa := more (.flatGain (done / 2) (next / 2)) false (addr + 32 + done) next []
          serial := u.serial + 1 }) ∧
        (err = true ∨ 2 * (tw * th) ≤ done → afterGrant x u = u)) ∧
      ((∀ n b addr tw th t opn done err g, u.cin.long ≠ some (.flatGains n b addr tw th t opn done err g)) →
        afterGrant x u = u)) ∧
    (∀ n, x.kind = .cellRead n →
      (∀ a j, access? n u = some a → a.use = .scan → u.scan.scanning = true →
        (vget u.slots u.scan.slot).job = some j → u.scan.next < j.w * j.h →
        let addr := (vget u.atb.areas j.areaNo).base + 8 * u.scan.next
        let len := burst addr (8 * (j.w * j.h - u.scan.next))
        (afterGrant x u).scan = { u.scan with next := u.scan.next + len / 8 } ∧
        (∃ y ∈ (afterGrant x u).mge.port, y.no = u.serial ∧ y.use = .scan ∧ y.addr = addr ∧ y.len = len) ∧
        PortGoesOn (u.mge.port ++ [⟨u.serial, addr, len, .scan, .waiting⟩]) u.mpa (u.serial + 1) (afterGrant x u) ∧
        (afterGrant x u).mge = { u.mge with port := (afterGrant x u).mge.port } ∧
        Frame [.scan, .mge, .mpa, .serial] u (afterGrant x u)) ∧
      ((∀ a, access? n u = some a → a.use ≠ .scan) ∨ u.scan.scanning = false ∨
        (∀ j, (vget u.slots u.scan.slot).job = some j → j.w * j.h ≤ u.scan.next) → afterGrant x u = u)) ∧
    ((∀ v q, x.kind ≠ .head v q false) → x.kind ≠ .sweep → x.kind ≠ .flatWrite → (∀ f n, x.kind ≠ .flatGain f n) →
      (∀ n, x.kind ≠ .cellRead n) → afterGrant x u = u))

/-- A tick advances the timebase by 1 modulo 2^32 and changes only the timers' conditions: each holds once its limit has
elapsed from its start and is then kept (R114), and the guard time is due when it first holds in STEADY (R61). That a condition
is kept once it has held is the model's reading (log 33). -/
def Obligations.TickAdvancesTimebase : Prop :=
  (∀ s : State, ∃ t, exec .timebaseTick s = .next t ∧ t.time = s.time + 1 ∧
    t.lamp = { s.lamp with
      settle := s.lamp.settle.tick t.time s.lamp.cfg.settleMs, last := s.lamp.last.tick t.time s.lamp.cfg.staleMs,
      steady := s.lamp.steady.tick t.time s.lamp.cfg.guardMs, guardDue := s.lamp.guardDue ||
        (decide (s.lamp.state = .steady) && !s.lamp.steady.held && (s.lamp.steady.tick t.time s.lamp.cfg.guardMs).held) } ∧
    (running s = none → t.mge = s.mge) ∧
    (∀ i j, running s = some (i, j) → t.mge = { s.mge with seq := { s.mge.seq with
      gap := s.mge.seq.gap.tick t.time j.frameGapMs, wait := s.mge.seq.wait.tick t.time j.expWaitMs } }) ∧
    Frame [.time, .lamp, .mge] s t) ∧
  (∀ (x : Timer) (now : Time) (limit : Nat), (x.tick now limit).start = x.start ∧
    ((x.tick now limit).held = true ↔ x.held = true ∨ limit ≤ (now - x.start).toNat))

/-! ### Laws over all states -/

/-- The judgement of R2; the class and the estimate of R20; the duplicate of R21; and the cell a merge computes, field by field:
what every merge writes (R22), a clipped sample, the first usable one (R23), one inside the spread limit (R24, R25) and one
outside it (R26). A cell judged for a merge of a job and merged is again within the widths and bounds of R3 and R27, carries
the job's generation and the exposure index, passes the judgement of the next exposure, and stands in its eight bytes as
Table 11-1 gives, from which it reads back. -/
def Obligations.MergeKeepsCellLawful : Prop :=
  (∀ (c : Cell) (gen : Nat) (k : Option Nat),
    let empty := c.gen ≠ gen ∨ c.gen = 0 ∨ (8 ≤ c.lastk ∧ c.lastk ≤ 14) ∨
      (c.lastk = 15 ∧ (c.sum ≠ 0 ∨ c.wsum ≠ 0 ∨ c.nuse ≠ 0 ∨ c.nrej ≠ 0 ∨ c.clipHi = true ∨ c.clipLo = true ∨
        c.reject = true ∨ c.retake = true)) ∨
      7 < c.nrej ∨ (c.lastk ≤ 7 ∧ c.lastk + 1 < c.nuse + c.nrej) ∨ c.wsum < c.nuse ∨ 15 * c.nuse < c.wsum ∨
      1048480 * c.wsum < c.sum ∨ ∃ x, k = some x ∧ c.lastk ≤ 7 ∧ x < c.lastk
    (empty → judge c gen k = none) ∧ (¬ empty → judge c gen k = some c)) ∧
  (Cell.judged none = ⟨0, 0, 0, 15, 0, 0, false, false, false, false⟩ ∧ ∀ c, Cell.judged (some c) = c) ∧
  (∀ k, isDuplicate none k = false ∧ ∀ c : Cell, isDuplicate (some c) k = true ↔ c.lastk = k) ∧
  (∀ (v : Nat) (p : Sensor), (p.s ≤ v → classify v p = .saturated) ∧
    (v < p.s → v < p.b + p.f → classify v p = .dim) ∧ (v < p.s → p.b + p.f ≤ v → classify v p = .usable)) ∧
  (∀ v b g e, estimate v b g e = (v - b) * g / (512 * e)) ∧
  (∀ (c : Cell) (m : Merge),
    let d : Cell := { c with gen := m.gen, lastk := m.k, retake := c.retake || m.retake }
    let x := estimate m.v m.sensor.b m.g m.e
    let mean := c.sum / c.wsum
    let limit := max 8 (mean * 3 * (m.c + 1) / 256)
    (classify m.v m.sensor = .saturated → mergeCell c m = ({ d with clipHi := true }, .clipped false)) ∧
    (classify m.v m.sensor = .dim → mergeCell c m = ({ d with clipLo := true }, .clipped true)) ∧
    (classify m.v m.sensor = .usable → c.nuse = 0 →
      mergeCell c m = ({ d with sum := x * m.w, wsum := m.w, nuse := 1 }, .accepted)) ∧
    (classify m.v m.sensor = .usable → 0 < c.nuse → x ≤ mean + limit → mean ≤ x + limit →
      mergeCell c m = ({ d with sum := c.sum + x * m.w, wsum := c.wsum + m.w, nuse := c.nuse + 1 }, .accepted)) ∧
    (classify m.v m.sensor = .usable → 0 < c.nuse → mean + limit < x ∨ x + limit < mean →
      mergeCell c m = ({ d with nrej := c.nrej + 1, reject := true }, .rejected))) ∧
  (∀ c : Cell, RecordHolds c.bytes 8 [(0, 4, c.sum), (4, 1, c.wsum), (5, 1, c.gen), (6, 1, c.lastk + 16 * c.nuse),
    (7, 1, c.nrej + (if c.clipHi then 16 else 0) + (if c.clipLo then 32 else 0) + (if c.reject then 64 else 0) +
      (if c.retake then 128 else 0))]) ∧
  (∀ (found : BitVec 64) (m : Merge), 1 ≤ m.gen → m.gen ≤ 255 → m.k ≤ 7 → 1 ≤ m.e → 1 ≤ m.w → m.w ≤ 15 → m.g ≤ 32767 →
    m.v ≤ 16383 →
    let j := judge (Cell.ofWord found) m.gen (some m.k)
    isDuplicate j m.k = false →
    let c := (mergeCell (Cell.judged j) m).1
    c.nuse + c.nrej ≤ m.k + 1 ∧ c.nuse ≤ 8 ∧ c.nrej ≤ 7 ∧ c.nuse ≤ c.wsum ∧ c.wsum ≤ 15 * c.nuse ∧ c.wsum ≤ 120 ∧
    c.sum ≤ 1048480 * c.wsum ∧ c.sum ≤ 125817600 ∧ c.gen = m.gen ∧ c.lastk = m.k ∧
    judge c m.gen (some m.k) = some c ∧ (m.k < 7 → judge c m.gen (some (m.k + 1)) = some c) ∧
    Cell.ofWord (BitVec.ofNat 64 (leNat c.bytes)) = c)

/-- Every step keeps the bounds of the part: at most 8 reports queued (R175), a counter value in 0..256 (R138), at most 256
entries in the pixel queue (R33); a lawful sensor profile (R16); an intake queue that holds no slot number twice (R166); the
cell port's order, by which no two issued accesses share a byte with one of them a merge (R4); the S-port's transactions in
the order of their addresses and the cell port's accesses in the order they began (R148, R4), and every access that the step
brings to its read has had that read requested of class CELL, at its own address and of its own length (R4, R161); and the windows apart (R152), save that events while RESET_N is asserted may set windows
that the release then meets (log 13). -/
def Obligations.StepKeepsBoundsProfileAndIntake : Prop :=
  ∀ s t : State, step s = .next t → (Bounded s → Bounded t) ∧ (SensorLawful s → SensorLawful t) ∧
    (IntakeDistinct s → IntakeDistinct t) ∧ (PortInOrder s → PortInOrder t) ∧ (PortsNumbered s → PortsNumbered t) ∧
    (PortsNumbered s → ReadsRequested s t) ∧
    (s.resetN = true ∨ (∀ i, i ≠ 0 → vget s.wmu.windows i = none) → WindowsDisjoint s → WindowsDisjoint t)

/-- Every step keeps at most one slot STARTING, ACTIVE or FINISHING (R53, R59). -/
def Obligations.StepKeepsOneBusySlot : Prop := ∀ s t : State, OneBusy s → step s = .next t → OneBusy t

/-- Every step keeps the areas apart (R8) and every sparse table in its canonical form. -/
def Obligations.StepKeepsAreasAndTables : Prop :=
  ∀ s t : State, AreasDisjoint s → TablesCanonical s → step s = .next t → AreasDisjoint t ∧ TablesCanonical t

/-- The part at reset satisfies every law the steps keep. -/
def Obligations.ResetMeetsEveryLaw : Prop :=
  Bounded State.reset ∧ SensorLawful State.reset ∧ IntakeDistinct State.reset ∧ OneBusy State.reset ∧
  AreasDisjoint State.reset ∧ TablesCanonical State.reset ∧ PortInOrder State.reset ∧ PortsNumbered State.reset ∧
  WindowsDisjoint State.reset
end

