-- ==== Sys2Proof/Laws/Bus.lean ====
section
/-! SUPPORT. What giving the write answers that may be given can do (R148), and the two readings of the report ring (R177). -/
namespace Sys2Proof.Machine

/-- With a ring set, the ring is at its base (R177). -/
@[simp] theorem Rpu.ring_set (r : Rpu) (b : Nat) : ({ r with ringSet := true, ringBase := b } : Rpu).ring = some b := rfl

/-- With no ring set there is no ring, whatever the base holds (R177). -/
theorem Rpu.ring_of_unset {r : Rpu} (h : r.ringSet = false) : r.ring = none := by simp [Rpu.ring, h]

/-- Every answer given is the answer of a write that stands for one, and every write that goes on is one that stood before,
changed in nothing but that its answer may have been given. -/
theorem releaseWriteList_spec (busy : List Nat) (ws : List SWrite) :
    (∀ id no e, SOut.writeResp id no e ∈ (releaseWriteList busy ws).2 → ∃ w ∈ ws, w.no = no ∧ w.answer = some e) ∧
    (∀ v ∈ (releaseWriteList busy ws).1, ∃ w ∈ ws, v = w ∨ v = { w with sent := true }) := by
  induction ws generalizing busy with
  | nil => simp [releaseWriteList]
  | cons w ws ih =>
    have later : ∀ bs, (∀ id no e, SOut.writeResp id no e ∈ (releaseWriteList bs ws).2 →
          ∃ x ∈ w :: ws, x.no = no ∧ x.answer = some e) ∧
        (∀ v ∈ (releaseWriteList bs ws).1, ∃ x ∈ w :: ws, v = x ∨ v = { x with sent := true }) := fun bs =>
      ⟨fun id no e h => let ⟨x, hx, h'⟩ := (ih bs).1 id no e h; ⟨x, .tail _ hx, h'⟩,
       fun v h => let ⟨x, hx, h'⟩ := (ih bs).2 v h; ⟨x, .tail _ hx, h'⟩⟩
    have kept : ∀ bs, ∀ v ∈ w :: (releaseWriteList bs ws).1, ∃ x ∈ w :: ws, v = x ∨ v = { x with sent := true } := by
      intro bs v h
      rcases List.mem_cons.1 h with rfl | h
      · exact ⟨v, .head _, .inl rfl⟩
      · exact (later bs).2 v h
    unfold releaseWriteList
    split
    · exact ⟨(later _).1, kept _⟩
    · split
      · exact ⟨(later _).1, kept _⟩
      · refine ⟨fun id no e h => ?_, fun v h => ?_⟩
        · rcases List.mem_cons.1 h with h | h
          · cases h; exact ⟨w, .head _, rfl, by assumption⟩
          · exact (later _).1 id no e h
        · rcases List.mem_cons.1 h with rfl | h
          · exact ⟨w, .head _, .inr rfl⟩
          · exact (later _).2 v h
    · exact ⟨(later _).1, kept _⟩

end Sys2Proof.Machine
end

