-- ==== Sys2Proof/Laws/State.lean ====
section
/-! SUPPORT. What each named update of the state gives and leaves alone: one lemma per field per update. -/
namespace Sys2Proof.Machine

@[simp] theorem State.setResetN_resetN (s : State) (x : Bool) : (s.setResetN x).resetN = x := rfl
@[simp] theorem State.setResetN_device (s : State) (x : Bool) : (s.setResetN x).device = s.device := rfl
@[simp] theorem State.setResetN_time (s : State) (x : Bool) : (s.setResetN x).time = s.time := rfl
@[simp] theorem State.setResetN_atb (s : State) (x : Bool) : (s.setResetN x).atb = s.atb := rfl
@[simp] theorem State.setResetN_mge (s : State) (x : Bool) : (s.setResetN x).mge = s.mge := rfl
@[simp] theorem State.setResetN_tsa (s : State) (x : Bool) : (s.setResetN x).tsa = s.tsa := rfl
@[simp] theorem State.setResetN_fst (s : State) (x : Bool) : (s.setResetN x).fst = s.fst := rfl
@[simp] theorem State.setResetN_scan (s : State) (x : Bool) : (s.setResetN x).scan = s.scan := rfl
@[simp] theorem State.setResetN_slots (s : State) (x : Bool) : (s.setResetN x).slots = s.slots := rfl
@[simp] theorem State.setResetN_lamp (s : State) (x : Bool) : (s.setResetN x).lamp = s.lamp := rfl
@[simp] theorem State.setResetN_pdt (s : State) (x : Bool) : (s.setResetN x).pdt = s.pdt := rfl
@[simp] theorem State.setResetN_cec (s : State) (x : Bool) : (s.setResetN x).cec = s.cec := rfl
@[simp] theorem State.setResetN_wmu (s : State) (x : Bool) : (s.setResetN x).wmu = s.wmu := rfl
@[simp] theorem State.setResetN_mpa (s : State) (x : Bool) : (s.setResetN x).mpa = s.mpa := rfl
@[simp] theorem State.setResetN_cin (s : State) (x : Bool) : (s.setResetN x).cin = s.cin := rfl
@[simp] theorem State.setResetN_rpu (s : State) (x : Bool) : (s.setResetN x).rpu = s.rpu := rfl
@[simp] theorem State.setResetN_serial (s : State) (x : Bool) : (s.setResetN x).serial = s.serial := rfl
@[simp] theorem State.setResetN_freeIdx (s : State) (x : Bool) : (s.setResetN x).freeIdx = s.freeIdx := rfl
@[simp] theorem State.setResetN_pending (s : State) (x : Bool) : (s.setResetN x).pending = s.pending := rfl
@[simp] theorem State.setDevice_resetN (s : State) (x : Device) : (s.setDevice x).resetN = s.resetN := rfl
@[simp] theorem State.setDevice_device (s : State) (x : Device) : (s.setDevice x).device = x := rfl
@[simp] theorem State.setDevice_time (s : State) (x : Device) : (s.setDevice x).time = s.time := rfl
@[simp] theorem State.setDevice_atb (s : State) (x : Device) : (s.setDevice x).atb = s.atb := rfl
@[simp] theorem State.setDevice_mge (s : State) (x : Device) : (s.setDevice x).mge = s.mge := rfl
@[simp] theorem State.setDevice_tsa (s : State) (x : Device) : (s.setDevice x).tsa = s.tsa := rfl
@[simp] theorem State.setDevice_fst (s : State) (x : Device) : (s.setDevice x).fst = s.fst := rfl
@[simp] theorem State.setDevice_scan (s : State) (x : Device) : (s.setDevice x).scan = s.scan := rfl
@[simp] theorem State.setDevice_slots (s : State) (x : Device) : (s.setDevice x).slots = s.slots := rfl
@[simp] theorem State.setDevice_lamp (s : State) (x : Device) : (s.setDevice x).lamp = s.lamp := rfl
@[simp] theorem State.setDevice_pdt (s : State) (x : Device) : (s.setDevice x).pdt = s.pdt := rfl
@[simp] theorem State.setDevice_cec (s : State) (x : Device) : (s.setDevice x).cec = s.cec := rfl
@[simp] theorem State.setDevice_wmu (s : State) (x : Device) : (s.setDevice x).wmu = s.wmu := rfl
@[simp] theorem State.setDevice_mpa (s : State) (x : Device) : (s.setDevice x).mpa = s.mpa := rfl
@[simp] theorem State.setDevice_cin (s : State) (x : Device) : (s.setDevice x).cin = s.cin := rfl
@[simp] theorem State.setDevice_rpu (s : State) (x : Device) : (s.setDevice x).rpu = s.rpu := rfl
@[simp] theorem State.setDevice_serial (s : State) (x : Device) : (s.setDevice x).serial = s.serial := rfl
@[simp] theorem State.setDevice_freeIdx (s : State) (x : Device) : (s.setDevice x).freeIdx = s.freeIdx := rfl
@[simp] theorem State.setDevice_pending (s : State) (x : Device) : (s.setDevice x).pending = s.pending := rfl
@[simp] theorem State.setTime_resetN (s : State) (x : Time) : (s.setTime x).resetN = s.resetN := rfl
@[simp] theorem State.setTime_device (s : State) (x : Time) : (s.setTime x).device = s.device := rfl
@[simp] theorem State.setTime_time (s : State) (x : Time) : (s.setTime x).time = x := rfl
@[simp] theorem State.setTime_atb (s : State) (x : Time) : (s.setTime x).atb = s.atb := rfl
@[simp] theorem State.setTime_mge (s : State) (x : Time) : (s.setTime x).mge = s.mge := rfl
@[simp] theorem State.setTime_tsa (s : State) (x : Time) : (s.setTime x).tsa = s.tsa := rfl
@[simp] theorem State.setTime_fst (s : State) (x : Time) : (s.setTime x).fst = s.fst := rfl
@[simp] theorem State.setTime_scan (s : State) (x : Time) : (s.setTime x).scan = s.scan := rfl
@[simp] theorem State.setTime_slots (s : State) (x : Time) : (s.setTime x).slots = s.slots := rfl
@[simp] theorem State.setTime_lamp (s : State) (x : Time) : (s.setTime x).lamp = s.lamp := rfl
@[simp] theorem State.setTime_pdt (s : State) (x : Time) : (s.setTime x).pdt = s.pdt := rfl
@[simp] theorem State.setTime_cec (s : State) (x : Time) : (s.setTime x).cec = s.cec := rfl
@[simp] theorem State.setTime_wmu (s : State) (x : Time) : (s.setTime x).wmu = s.wmu := rfl
@[simp] theorem State.setTime_mpa (s : State) (x : Time) : (s.setTime x).mpa = s.mpa := rfl
@[simp] theorem State.setTime_cin (s : State) (x : Time) : (s.setTime x).cin = s.cin := rfl
@[simp] theorem State.setTime_rpu (s : State) (x : Time) : (s.setTime x).rpu = s.rpu := rfl
@[simp] theorem State.setTime_serial (s : State) (x : Time) : (s.setTime x).serial = s.serial := rfl
@[simp] theorem State.setTime_freeIdx (s : State) (x : Time) : (s.setTime x).freeIdx = s.freeIdx := rfl
@[simp] theorem State.setTime_pending (s : State) (x : Time) : (s.setTime x).pending = s.pending := rfl
@[simp] theorem State.setAtb_resetN (s : State) (x : Atb) : (s.setAtb x).resetN = s.resetN := rfl
@[simp] theorem State.setAtb_device (s : State) (x : Atb) : (s.setAtb x).device = s.device := rfl
@[simp] theorem State.setAtb_time (s : State) (x : Atb) : (s.setAtb x).time = s.time := rfl
@[simp] theorem State.setAtb_atb (s : State) (x : Atb) : (s.setAtb x).atb = x := rfl
@[simp] theorem State.setAtb_mge (s : State) (x : Atb) : (s.setAtb x).mge = s.mge := rfl
@[simp] theorem State.setAtb_tsa (s : State) (x : Atb) : (s.setAtb x).tsa = s.tsa := rfl
@[simp] theorem State.setAtb_fst (s : State) (x : Atb) : (s.setAtb x).fst = s.fst := rfl
@[simp] theorem State.setAtb_scan (s : State) (x : Atb) : (s.setAtb x).scan = s.scan := rfl
@[simp] theorem State.setAtb_slots (s : State) (x : Atb) : (s.setAtb x).slots = s.slots := rfl
@[simp] theorem State.setAtb_lamp (s : State) (x : Atb) : (s.setAtb x).lamp = s.lamp := rfl
@[simp] theorem State.setAtb_pdt (s : State) (x : Atb) : (s.setAtb x).pdt = s.pdt := rfl
@[simp] theorem State.setAtb_cec (s : State) (x : Atb) : (s.setAtb x).cec = s.cec := rfl
@[simp] theorem State.setAtb_wmu (s : State) (x : Atb) : (s.setAtb x).wmu = s.wmu := rfl
@[simp] theorem State.setAtb_mpa (s : State) (x : Atb) : (s.setAtb x).mpa = s.mpa := rfl
@[simp] theorem State.setAtb_cin (s : State) (x : Atb) : (s.setAtb x).cin = s.cin := rfl
@[simp] theorem State.setAtb_rpu (s : State) (x : Atb) : (s.setAtb x).rpu = s.rpu := rfl
@[simp] theorem State.setAtb_serial (s : State) (x : Atb) : (s.setAtb x).serial = s.serial := rfl
@[simp] theorem State.setAtb_freeIdx (s : State) (x : Atb) : (s.setAtb x).freeIdx = s.freeIdx := rfl
@[simp] theorem State.setAtb_pending (s : State) (x : Atb) : (s.setAtb x).pending = s.pending := rfl
@[simp] theorem State.setMge_resetN (s : State) (x : Mge) : (s.setMge x).resetN = s.resetN := rfl
@[simp] theorem State.setMge_device (s : State) (x : Mge) : (s.setMge x).device = s.device := rfl
@[simp] theorem State.setMge_time (s : State) (x : Mge) : (s.setMge x).time = s.time := rfl
@[simp] theorem State.setMge_atb (s : State) (x : Mge) : (s.setMge x).atb = s.atb := rfl
@[simp] theorem State.setMge_mge (s : State) (x : Mge) : (s.setMge x).mge = x := rfl
@[simp] theorem State.setMge_tsa (s : State) (x : Mge) : (s.setMge x).tsa = s.tsa := rfl
@[simp] theorem State.setMge_fst (s : State) (x : Mge) : (s.setMge x).fst = s.fst := rfl
@[simp] theorem State.setMge_scan (s : State) (x : Mge) : (s.setMge x).scan = s.scan := rfl
@[simp] theorem State.setMge_slots (s : State) (x : Mge) : (s.setMge x).slots = s.slots := rfl
@[simp] theorem State.setMge_lamp (s : State) (x : Mge) : (s.setMge x).lamp = s.lamp := rfl
@[simp] theorem State.setMge_pdt (s : State) (x : Mge) : (s.setMge x).pdt = s.pdt := rfl
@[simp] theorem State.setMge_cec (s : State) (x : Mge) : (s.setMge x).cec = s.cec := rfl
@[simp] theorem State.setMge_wmu (s : State) (x : Mge) : (s.setMge x).wmu = s.wmu := rfl
@[simp] theorem State.setMge_mpa (s : State) (x : Mge) : (s.setMge x).mpa = s.mpa := rfl
@[simp] theorem State.setMge_cin (s : State) (x : Mge) : (s.setMge x).cin = s.cin := rfl
@[simp] theorem State.setMge_rpu (s : State) (x : Mge) : (s.setMge x).rpu = s.rpu := rfl
@[simp] theorem State.setMge_serial (s : State) (x : Mge) : (s.setMge x).serial = s.serial := rfl
@[simp] theorem State.setMge_freeIdx (s : State) (x : Mge) : (s.setMge x).freeIdx = s.freeIdx := rfl
@[simp] theorem State.setMge_pending (s : State) (x : Mge) : (s.setMge x).pending = s.pending := rfl
@[simp] theorem State.setTsa_resetN (s : State) (x : Tsa) : (s.setTsa x).resetN = s.resetN := rfl
@[simp] theorem State.setTsa_device (s : State) (x : Tsa) : (s.setTsa x).device = s.device := rfl
@[simp] theorem State.setTsa_time (s : State) (x : Tsa) : (s.setTsa x).time = s.time := rfl
@[simp] theorem State.setTsa_atb (s : State) (x : Tsa) : (s.setTsa x).atb = s.atb := rfl
@[simp] theorem State.setTsa_mge (s : State) (x : Tsa) : (s.setTsa x).mge = s.mge := rfl
@[simp] theorem State.setTsa_tsa (s : State) (x : Tsa) : (s.setTsa x).tsa = x := rfl
@[simp] theorem State.setTsa_fst (s : State) (x : Tsa) : (s.setTsa x).fst = s.fst := rfl
@[simp] theorem State.setTsa_scan (s : State) (x : Tsa) : (s.setTsa x).scan = s.scan := rfl
@[simp] theorem State.setTsa_slots (s : State) (x : Tsa) : (s.setTsa x).slots = s.slots := rfl
@[simp] theorem State.setTsa_lamp (s : State) (x : Tsa) : (s.setTsa x).lamp = s.lamp := rfl
@[simp] theorem State.setTsa_pdt (s : State) (x : Tsa) : (s.setTsa x).pdt = s.pdt := rfl
@[simp] theorem State.setTsa_cec (s : State) (x : Tsa) : (s.setTsa x).cec = s.cec := rfl
@[simp] theorem State.setTsa_wmu (s : State) (x : Tsa) : (s.setTsa x).wmu = s.wmu := rfl
@[simp] theorem State.setTsa_mpa (s : State) (x : Tsa) : (s.setTsa x).mpa = s.mpa := rfl
@[simp] theorem State.setTsa_cin (s : State) (x : Tsa) : (s.setTsa x).cin = s.cin := rfl
@[simp] theorem State.setTsa_rpu (s : State) (x : Tsa) : (s.setTsa x).rpu = s.rpu := rfl
@[simp] theorem State.setTsa_serial (s : State) (x : Tsa) : (s.setTsa x).serial = s.serial := rfl
@[simp] theorem State.setTsa_freeIdx (s : State) (x : Tsa) : (s.setTsa x).freeIdx = s.freeIdx := rfl
@[simp] theorem State.setTsa_pending (s : State) (x : Tsa) : (s.setTsa x).pending = s.pending := rfl
@[simp] theorem State.setFst_resetN (s : State) (x : Fst) : (s.setFst x).resetN = s.resetN := rfl
@[simp] theorem State.setFst_device (s : State) (x : Fst) : (s.setFst x).device = s.device := rfl
@[simp] theorem State.setFst_time (s : State) (x : Fst) : (s.setFst x).time = s.time := rfl
@[simp] theorem State.setFst_atb (s : State) (x : Fst) : (s.setFst x).atb = s.atb := rfl
@[simp] theorem State.setFst_mge (s : State) (x : Fst) : (s.setFst x).mge = s.mge := rfl
@[simp] theorem State.setFst_tsa (s : State) (x : Fst) : (s.setFst x).tsa = s.tsa := rfl
@[simp] theorem State.setFst_fst (s : State) (x : Fst) : (s.setFst x).fst = x := rfl
@[simp] theorem State.setFst_scan (s : State) (x : Fst) : (s.setFst x).scan = s.scan := rfl
@[simp] theorem State.setFst_slots (s : State) (x : Fst) : (s.setFst x).slots = s.slots := rfl
@[simp] theorem State.setFst_lamp (s : State) (x : Fst) : (s.setFst x).lamp = s.lamp := rfl
@[simp] theorem State.setFst_pdt (s : State) (x : Fst) : (s.setFst x).pdt = s.pdt := rfl
@[simp] theorem State.setFst_cec (s : State) (x : Fst) : (s.setFst x).cec = s.cec := rfl
@[simp] theorem State.setFst_wmu (s : State) (x : Fst) : (s.setFst x).wmu = s.wmu := rfl
@[simp] theorem State.setFst_mpa (s : State) (x : Fst) : (s.setFst x).mpa = s.mpa := rfl
@[simp] theorem State.setFst_cin (s : State) (x : Fst) : (s.setFst x).cin = s.cin := rfl
@[simp] theorem State.setFst_rpu (s : State) (x : Fst) : (s.setFst x).rpu = s.rpu := rfl
@[simp] theorem State.setFst_serial (s : State) (x : Fst) : (s.setFst x).serial = s.serial := rfl
@[simp] theorem State.setFst_freeIdx (s : State) (x : Fst) : (s.setFst x).freeIdx = s.freeIdx := rfl
@[simp] theorem State.setFst_pending (s : State) (x : Fst) : (s.setFst x).pending = s.pending := rfl
@[simp] theorem State.setScan_resetN (s : State) (x : Scan) : (s.setScan x).resetN = s.resetN := rfl
@[simp] theorem State.setScan_device (s : State) (x : Scan) : (s.setScan x).device = s.device := rfl
@[simp] theorem State.setScan_time (s : State) (x : Scan) : (s.setScan x).time = s.time := rfl
@[simp] theorem State.setScan_atb (s : State) (x : Scan) : (s.setScan x).atb = s.atb := rfl
@[simp] theorem State.setScan_mge (s : State) (x : Scan) : (s.setScan x).mge = s.mge := rfl
@[simp] theorem State.setScan_tsa (s : State) (x : Scan) : (s.setScan x).tsa = s.tsa := rfl
@[simp] theorem State.setScan_fst (s : State) (x : Scan) : (s.setScan x).fst = s.fst := rfl
@[simp] theorem State.setScan_scan (s : State) (x : Scan) : (s.setScan x).scan = x := rfl
@[simp] theorem State.setScan_slots (s : State) (x : Scan) : (s.setScan x).slots = s.slots := rfl
@[simp] theorem State.setScan_lamp (s : State) (x : Scan) : (s.setScan x).lamp = s.lamp := rfl
@[simp] theorem State.setScan_pdt (s : State) (x : Scan) : (s.setScan x).pdt = s.pdt := rfl
@[simp] theorem State.setScan_cec (s : State) (x : Scan) : (s.setScan x).cec = s.cec := rfl
@[simp] theorem State.setScan_wmu (s : State) (x : Scan) : (s.setScan x).wmu = s.wmu := rfl
@[simp] theorem State.setScan_mpa (s : State) (x : Scan) : (s.setScan x).mpa = s.mpa := rfl
@[simp] theorem State.setScan_cin (s : State) (x : Scan) : (s.setScan x).cin = s.cin := rfl
@[simp] theorem State.setScan_rpu (s : State) (x : Scan) : (s.setScan x).rpu = s.rpu := rfl
@[simp] theorem State.setScan_serial (s : State) (x : Scan) : (s.setScan x).serial = s.serial := rfl
@[simp] theorem State.setScan_freeIdx (s : State) (x : Scan) : (s.setScan x).freeIdx = s.freeIdx := rfl
@[simp] theorem State.setScan_pending (s : State) (x : Scan) : (s.setScan x).pending = s.pending := rfl
@[simp] theorem State.setSlots_resetN (s : State) (x : Vector JobSlot 4) : (s.setSlots x).resetN = s.resetN := rfl
@[simp] theorem State.setSlots_device (s : State) (x : Vector JobSlot 4) : (s.setSlots x).device = s.device := rfl
@[simp] theorem State.setSlots_time (s : State) (x : Vector JobSlot 4) : (s.setSlots x).time = s.time := rfl
@[simp] theorem State.setSlots_atb (s : State) (x : Vector JobSlot 4) : (s.setSlots x).atb = s.atb := rfl
@[simp] theorem State.setSlots_mge (s : State) (x : Vector JobSlot 4) : (s.setSlots x).mge = s.mge := rfl
@[simp] theorem State.setSlots_tsa (s : State) (x : Vector JobSlot 4) : (s.setSlots x).tsa = s.tsa := rfl
@[simp] theorem State.setSlots_fst (s : State) (x : Vector JobSlot 4) : (s.setSlots x).fst = s.fst := rfl
@[simp] theorem State.setSlots_scan (s : State) (x : Vector JobSlot 4) : (s.setSlots x).scan = s.scan := rfl
@[simp] theorem State.setSlots_slots (s : State) (x : Vector JobSlot 4) : (s.setSlots x).slots = x := rfl
@[simp] theorem State.setSlots_lamp (s : State) (x : Vector JobSlot 4) : (s.setSlots x).lamp = s.lamp := rfl
@[simp] theorem State.setSlots_pdt (s : State) (x : Vector JobSlot 4) : (s.setSlots x).pdt = s.pdt := rfl
@[simp] theorem State.setSlots_cec (s : State) (x : Vector JobSlot 4) : (s.setSlots x).cec = s.cec := rfl
@[simp] theorem State.setSlots_wmu (s : State) (x : Vector JobSlot 4) : (s.setSlots x).wmu = s.wmu := rfl
@[simp] theorem State.setSlots_mpa (s : State) (x : Vector JobSlot 4) : (s.setSlots x).mpa = s.mpa := rfl
@[simp] theorem State.setSlots_cin (s : State) (x : Vector JobSlot 4) : (s.setSlots x).cin = s.cin := rfl
@[simp] theorem State.setSlots_rpu (s : State) (x : Vector JobSlot 4) : (s.setSlots x).rpu = s.rpu := rfl
@[simp] theorem State.setSlots_serial (s : State) (x : Vector JobSlot 4) : (s.setSlots x).serial = s.serial := rfl
@[simp] theorem State.setSlots_freeIdx (s : State) (x : Vector JobSlot 4) : (s.setSlots x).freeIdx = s.freeIdx := rfl
@[simp] theorem State.setSlots_pending (s : State) (x : Vector JobSlot 4) : (s.setSlots x).pending = s.pending := rfl
@[simp] theorem State.setLamp_resetN (s : State) (x : Lamp) : (s.setLamp x).resetN = s.resetN := rfl
@[simp] theorem State.setLamp_device (s : State) (x : Lamp) : (s.setLamp x).device = s.device := rfl
@[simp] theorem State.setLamp_time (s : State) (x : Lamp) : (s.setLamp x).time = s.time := rfl
@[simp] theorem State.setLamp_atb (s : State) (x : Lamp) : (s.setLamp x).atb = s.atb := rfl
@[simp] theorem State.setLamp_mge (s : State) (x : Lamp) : (s.setLamp x).mge = s.mge := rfl
@[simp] theorem State.setLamp_tsa (s : State) (x : Lamp) : (s.setLamp x).tsa = s.tsa := rfl
@[simp] theorem State.setLamp_fst (s : State) (x : Lamp) : (s.setLamp x).fst = s.fst := rfl
@[simp] theorem State.setLamp_scan (s : State) (x : Lamp) : (s.setLamp x).scan = s.scan := rfl
@[simp] theorem State.setLamp_slots (s : State) (x : Lamp) : (s.setLamp x).slots = s.slots := rfl
@[simp] theorem State.setLamp_lamp (s : State) (x : Lamp) : (s.setLamp x).lamp = x := rfl
@[simp] theorem State.setLamp_pdt (s : State) (x : Lamp) : (s.setLamp x).pdt = s.pdt := rfl
@[simp] theorem State.setLamp_cec (s : State) (x : Lamp) : (s.setLamp x).cec = s.cec := rfl
@[simp] theorem State.setLamp_wmu (s : State) (x : Lamp) : (s.setLamp x).wmu = s.wmu := rfl
@[simp] theorem State.setLamp_mpa (s : State) (x : Lamp) : (s.setLamp x).mpa = s.mpa := rfl
@[simp] theorem State.setLamp_cin (s : State) (x : Lamp) : (s.setLamp x).cin = s.cin := rfl
@[simp] theorem State.setLamp_rpu (s : State) (x : Lamp) : (s.setLamp x).rpu = s.rpu := rfl
@[simp] theorem State.setLamp_serial (s : State) (x : Lamp) : (s.setLamp x).serial = s.serial := rfl
@[simp] theorem State.setLamp_freeIdx (s : State) (x : Lamp) : (s.setLamp x).freeIdx = s.freeIdx := rfl
@[simp] theorem State.setLamp_pending (s : State) (x : Lamp) : (s.setLamp x).pending = s.pending := rfl
@[simp] theorem State.setPdt_resetN (s : State) (x : Pdt) : (s.setPdt x).resetN = s.resetN := rfl
@[simp] theorem State.setPdt_device (s : State) (x : Pdt) : (s.setPdt x).device = s.device := rfl
@[simp] theorem State.setPdt_time (s : State) (x : Pdt) : (s.setPdt x).time = s.time := rfl
@[simp] theorem State.setPdt_atb (s : State) (x : Pdt) : (s.setPdt x).atb = s.atb := rfl
@[simp] theorem State.setPdt_mge (s : State) (x : Pdt) : (s.setPdt x).mge = s.mge := rfl
@[simp] theorem State.setPdt_tsa (s : State) (x : Pdt) : (s.setPdt x).tsa = s.tsa := rfl
@[simp] theorem State.setPdt_fst (s : State) (x : Pdt) : (s.setPdt x).fst = s.fst := rfl
@[simp] theorem State.setPdt_scan (s : State) (x : Pdt) : (s.setPdt x).scan = s.scan := rfl
@[simp] theorem State.setPdt_slots (s : State) (x : Pdt) : (s.setPdt x).slots = s.slots := rfl
@[simp] theorem State.setPdt_lamp (s : State) (x : Pdt) : (s.setPdt x).lamp = s.lamp := rfl
@[simp] theorem State.setPdt_pdt (s : State) (x : Pdt) : (s.setPdt x).pdt = x := rfl
@[simp] theorem State.setPdt_cec (s : State) (x : Pdt) : (s.setPdt x).cec = s.cec := rfl
@[simp] theorem State.setPdt_wmu (s : State) (x : Pdt) : (s.setPdt x).wmu = s.wmu := rfl
@[simp] theorem State.setPdt_mpa (s : State) (x : Pdt) : (s.setPdt x).mpa = s.mpa := rfl
@[simp] theorem State.setPdt_cin (s : State) (x : Pdt) : (s.setPdt x).cin = s.cin := rfl
@[simp] theorem State.setPdt_rpu (s : State) (x : Pdt) : (s.setPdt x).rpu = s.rpu := rfl
@[simp] theorem State.setPdt_serial (s : State) (x : Pdt) : (s.setPdt x).serial = s.serial := rfl
@[simp] theorem State.setPdt_freeIdx (s : State) (x : Pdt) : (s.setPdt x).freeIdx = s.freeIdx := rfl
@[simp] theorem State.setPdt_pending (s : State) (x : Pdt) : (s.setPdt x).pending = s.pending := rfl
@[simp] theorem State.setCec_resetN (s : State) (x : Cec) : (s.setCec x).resetN = s.resetN := rfl
@[simp] theorem State.setCec_device (s : State) (x : Cec) : (s.setCec x).device = s.device := rfl
@[simp] theorem State.setCec_time (s : State) (x : Cec) : (s.setCec x).time = s.time := rfl
@[simp] theorem State.setCec_atb (s : State) (x : Cec) : (s.setCec x).atb = s.atb := rfl
@[simp] theorem State.setCec_mge (s : State) (x : Cec) : (s.setCec x).mge = s.mge := rfl
@[simp] theorem State.setCec_tsa (s : State) (x : Cec) : (s.setCec x).tsa = s.tsa := rfl
@[simp] theorem State.setCec_fst (s : State) (x : Cec) : (s.setCec x).fst = s.fst := rfl
@[simp] theorem State.setCec_scan (s : State) (x : Cec) : (s.setCec x).scan = s.scan := rfl
@[simp] theorem State.setCec_slots (s : State) (x : Cec) : (s.setCec x).slots = s.slots := rfl
@[simp] theorem State.setCec_lamp (s : State) (x : Cec) : (s.setCec x).lamp = s.lamp := rfl
@[simp] theorem State.setCec_pdt (s : State) (x : Cec) : (s.setCec x).pdt = s.pdt := rfl
@[simp] theorem State.setCec_cec (s : State) (x : Cec) : (s.setCec x).cec = x := rfl
@[simp] theorem State.setCec_wmu (s : State) (x : Cec) : (s.setCec x).wmu = s.wmu := rfl
@[simp] theorem State.setCec_mpa (s : State) (x : Cec) : (s.setCec x).mpa = s.mpa := rfl
@[simp] theorem State.setCec_cin (s : State) (x : Cec) : (s.setCec x).cin = s.cin := rfl
@[simp] theorem State.setCec_rpu (s : State) (x : Cec) : (s.setCec x).rpu = s.rpu := rfl
@[simp] theorem State.setCec_serial (s : State) (x : Cec) : (s.setCec x).serial = s.serial := rfl
@[simp] theorem State.setCec_freeIdx (s : State) (x : Cec) : (s.setCec x).freeIdx = s.freeIdx := rfl
@[simp] theorem State.setCec_pending (s : State) (x : Cec) : (s.setCec x).pending = s.pending := rfl
@[simp] theorem State.setWmu_resetN (s : State) (x : Wmu) : (s.setWmu x).resetN = s.resetN := rfl
@[simp] theorem State.setWmu_device (s : State) (x : Wmu) : (s.setWmu x).device = s.device := rfl
@[simp] theorem State.setWmu_time (s : State) (x : Wmu) : (s.setWmu x).time = s.time := rfl
@[simp] theorem State.setWmu_atb (s : State) (x : Wmu) : (s.setWmu x).atb = s.atb := rfl
@[simp] theorem State.setWmu_mge (s : State) (x : Wmu) : (s.setWmu x).mge = s.mge := rfl
@[simp] theorem State.setWmu_tsa (s : State) (x : Wmu) : (s.setWmu x).tsa = s.tsa := rfl
@[simp] theorem State.setWmu_fst (s : State) (x : Wmu) : (s.setWmu x).fst = s.fst := rfl
@[simp] theorem State.setWmu_scan (s : State) (x : Wmu) : (s.setWmu x).scan = s.scan := rfl
@[simp] theorem State.setWmu_slots (s : State) (x : Wmu) : (s.setWmu x).slots = s.slots := rfl
@[simp] theorem State.setWmu_lamp (s : State) (x : Wmu) : (s.setWmu x).lamp = s.lamp := rfl
@[simp] theorem State.setWmu_pdt (s : State) (x : Wmu) : (s.setWmu x).pdt = s.pdt := rfl
@[simp] theorem State.setWmu_cec (s : State) (x : Wmu) : (s.setWmu x).cec = s.cec := rfl
@[simp] theorem State.setWmu_wmu (s : State) (x : Wmu) : (s.setWmu x).wmu = x := rfl
@[simp] theorem State.setWmu_mpa (s : State) (x : Wmu) : (s.setWmu x).mpa = s.mpa := rfl
@[simp] theorem State.setWmu_cin (s : State) (x : Wmu) : (s.setWmu x).cin = s.cin := rfl
@[simp] theorem State.setWmu_rpu (s : State) (x : Wmu) : (s.setWmu x).rpu = s.rpu := rfl
@[simp] theorem State.setWmu_serial (s : State) (x : Wmu) : (s.setWmu x).serial = s.serial := rfl
@[simp] theorem State.setWmu_freeIdx (s : State) (x : Wmu) : (s.setWmu x).freeIdx = s.freeIdx := rfl
@[simp] theorem State.setWmu_pending (s : State) (x : Wmu) : (s.setWmu x).pending = s.pending := rfl
@[simp] theorem State.setMpa_resetN (s : State) (x : Mpa) : (s.setMpa x).resetN = s.resetN := rfl
@[simp] theorem State.setMpa_device (s : State) (x : Mpa) : (s.setMpa x).device = s.device := rfl
@[simp] theorem State.setMpa_time (s : State) (x : Mpa) : (s.setMpa x).time = s.time := rfl
@[simp] theorem State.setMpa_atb (s : State) (x : Mpa) : (s.setMpa x).atb = s.atb := rfl
@[simp] theorem State.setMpa_mge (s : State) (x : Mpa) : (s.setMpa x).mge = s.mge := rfl
@[simp] theorem State.setMpa_tsa (s : State) (x : Mpa) : (s.setMpa x).tsa = s.tsa := rfl
@[simp] theorem State.setMpa_fst (s : State) (x : Mpa) : (s.setMpa x).fst = s.fst := rfl
@[simp] theorem State.setMpa_scan (s : State) (x : Mpa) : (s.setMpa x).scan = s.scan := rfl
@[simp] theorem State.setMpa_slots (s : State) (x : Mpa) : (s.setMpa x).slots = s.slots := rfl
@[simp] theorem State.setMpa_lamp (s : State) (x : Mpa) : (s.setMpa x).lamp = s.lamp := rfl
@[simp] theorem State.setMpa_pdt (s : State) (x : Mpa) : (s.setMpa x).pdt = s.pdt := rfl
@[simp] theorem State.setMpa_cec (s : State) (x : Mpa) : (s.setMpa x).cec = s.cec := rfl
@[simp] theorem State.setMpa_wmu (s : State) (x : Mpa) : (s.setMpa x).wmu = s.wmu := rfl
@[simp] theorem State.setMpa_mpa (s : State) (x : Mpa) : (s.setMpa x).mpa = x := rfl
@[simp] theorem State.setMpa_cin (s : State) (x : Mpa) : (s.setMpa x).cin = s.cin := rfl
@[simp] theorem State.setMpa_rpu (s : State) (x : Mpa) : (s.setMpa x).rpu = s.rpu := rfl
@[simp] theorem State.setMpa_serial (s : State) (x : Mpa) : (s.setMpa x).serial = s.serial := rfl
@[simp] theorem State.setMpa_freeIdx (s : State) (x : Mpa) : (s.setMpa x).freeIdx = s.freeIdx := rfl
@[simp] theorem State.setMpa_pending (s : State) (x : Mpa) : (s.setMpa x).pending = s.pending := rfl
@[simp] theorem State.setCin_resetN (s : State) (x : Cin) : (s.setCin x).resetN = s.resetN := rfl
@[simp] theorem State.setCin_device (s : State) (x : Cin) : (s.setCin x).device = s.device := rfl
@[simp] theorem State.setCin_time (s : State) (x : Cin) : (s.setCin x).time = s.time := rfl
@[simp] theorem State.setCin_atb (s : State) (x : Cin) : (s.setCin x).atb = s.atb := rfl
@[simp] theorem State.setCin_mge (s : State) (x : Cin) : (s.setCin x).mge = s.mge := rfl
@[simp] theorem State.setCin_tsa (s : State) (x : Cin) : (s.setCin x).tsa = s.tsa := rfl
@[simp] theorem State.setCin_fst (s : State) (x : Cin) : (s.setCin x).fst = s.fst := rfl
@[simp] theorem State.setCin_scan (s : State) (x : Cin) : (s.setCin x).scan = s.scan := rfl
@[simp] theorem State.setCin_slots (s : State) (x : Cin) : (s.setCin x).slots = s.slots := rfl
@[simp] theorem State.setCin_lamp (s : State) (x : Cin) : (s.setCin x).lamp = s.lamp := rfl
@[simp] theorem State.setCin_pdt (s : State) (x : Cin) : (s.setCin x).pdt = s.pdt := rfl
@[simp] theorem State.setCin_cec (s : State) (x : Cin) : (s.setCin x).cec = s.cec := rfl
@[simp] theorem State.setCin_wmu (s : State) (x : Cin) : (s.setCin x).wmu = s.wmu := rfl
@[simp] theorem State.setCin_mpa (s : State) (x : Cin) : (s.setCin x).mpa = s.mpa := rfl
@[simp] theorem State.setCin_cin (s : State) (x : Cin) : (s.setCin x).cin = x := rfl
@[simp] theorem State.setCin_rpu (s : State) (x : Cin) : (s.setCin x).rpu = s.rpu := rfl
@[simp] theorem State.setCin_serial (s : State) (x : Cin) : (s.setCin x).serial = s.serial := rfl
@[simp] theorem State.setCin_freeIdx (s : State) (x : Cin) : (s.setCin x).freeIdx = s.freeIdx := rfl
@[simp] theorem State.setCin_pending (s : State) (x : Cin) : (s.setCin x).pending = s.pending := rfl
@[simp] theorem State.setRpu_resetN (s : State) (x : Rpu) : (s.setRpu x).resetN = s.resetN := rfl
@[simp] theorem State.setRpu_device (s : State) (x : Rpu) : (s.setRpu x).device = s.device := rfl
@[simp] theorem State.setRpu_time (s : State) (x : Rpu) : (s.setRpu x).time = s.time := rfl
@[simp] theorem State.setRpu_atb (s : State) (x : Rpu) : (s.setRpu x).atb = s.atb := rfl
@[simp] theorem State.setRpu_mge (s : State) (x : Rpu) : (s.setRpu x).mge = s.mge := rfl
@[simp] theorem State.setRpu_tsa (s : State) (x : Rpu) : (s.setRpu x).tsa = s.tsa := rfl
@[simp] theorem State.setRpu_fst (s : State) (x : Rpu) : (s.setRpu x).fst = s.fst := rfl
@[simp] theorem State.setRpu_scan (s : State) (x : Rpu) : (s.setRpu x).scan = s.scan := rfl
@[simp] theorem State.setRpu_slots (s : State) (x : Rpu) : (s.setRpu x).slots = s.slots := rfl
@[simp] theorem State.setRpu_lamp (s : State) (x : Rpu) : (s.setRpu x).lamp = s.lamp := rfl
@[simp] theorem State.setRpu_pdt (s : State) (x : Rpu) : (s.setRpu x).pdt = s.pdt := rfl
@[simp] theorem State.setRpu_cec (s : State) (x : Rpu) : (s.setRpu x).cec = s.cec := rfl
@[simp] theorem State.setRpu_wmu (s : State) (x : Rpu) : (s.setRpu x).wmu = s.wmu := rfl
@[simp] theorem State.setRpu_mpa (s : State) (x : Rpu) : (s.setRpu x).mpa = s.mpa := rfl
@[simp] theorem State.setRpu_cin (s : State) (x : Rpu) : (s.setRpu x).cin = s.cin := rfl
@[simp] theorem State.setRpu_rpu (s : State) (x : Rpu) : (s.setRpu x).rpu = x := rfl
@[simp] theorem State.setRpu_serial (s : State) (x : Rpu) : (s.setRpu x).serial = s.serial := rfl
@[simp] theorem State.setRpu_freeIdx (s : State) (x : Rpu) : (s.setRpu x).freeIdx = s.freeIdx := rfl
@[simp] theorem State.setRpu_pending (s : State) (x : Rpu) : (s.setRpu x).pending = s.pending := rfl
@[simp] theorem State.setSerial_resetN (s : State) (x : Nat) : (s.setSerial x).resetN = s.resetN := rfl
@[simp] theorem State.setSerial_device (s : State) (x : Nat) : (s.setSerial x).device = s.device := rfl
@[simp] theorem State.setSerial_time (s : State) (x : Nat) : (s.setSerial x).time = s.time := rfl
@[simp] theorem State.setSerial_atb (s : State) (x : Nat) : (s.setSerial x).atb = s.atb := rfl
@[simp] theorem State.setSerial_mge (s : State) (x : Nat) : (s.setSerial x).mge = s.mge := rfl
@[simp] theorem State.setSerial_tsa (s : State) (x : Nat) : (s.setSerial x).tsa = s.tsa := rfl
@[simp] theorem State.setSerial_fst (s : State) (x : Nat) : (s.setSerial x).fst = s.fst := rfl
@[simp] theorem State.setSerial_scan (s : State) (x : Nat) : (s.setSerial x).scan = s.scan := rfl
@[simp] theorem State.setSerial_slots (s : State) (x : Nat) : (s.setSerial x).slots = s.slots := rfl
@[simp] theorem State.setSerial_lamp (s : State) (x : Nat) : (s.setSerial x).lamp = s.lamp := rfl
@[simp] theorem State.setSerial_pdt (s : State) (x : Nat) : (s.setSerial x).pdt = s.pdt := rfl
@[simp] theorem State.setSerial_cec (s : State) (x : Nat) : (s.setSerial x).cec = s.cec := rfl
@[simp] theorem State.setSerial_wmu (s : State) (x : Nat) : (s.setSerial x).wmu = s.wmu := rfl
@[simp] theorem State.setSerial_mpa (s : State) (x : Nat) : (s.setSerial x).mpa = s.mpa := rfl
@[simp] theorem State.setSerial_cin (s : State) (x : Nat) : (s.setSerial x).cin = s.cin := rfl
@[simp] theorem State.setSerial_rpu (s : State) (x : Nat) : (s.setSerial x).rpu = s.rpu := rfl
@[simp] theorem State.setSerial_serial (s : State) (x : Nat) : (s.setSerial x).serial = x := rfl
@[simp] theorem State.setSerial_freeIdx (s : State) (x : Nat) : (s.setSerial x).freeIdx = s.freeIdx := rfl
@[simp] theorem State.setSerial_pending (s : State) (x : Nat) : (s.setSerial x).pending = s.pending := rfl
@[simp] theorem State.setFreeIdx_resetN (s : State) (x : Nat) : (s.setFreeIdx x).resetN = s.resetN := rfl
@[simp] theorem State.setFreeIdx_device (s : State) (x : Nat) : (s.setFreeIdx x).device = s.device := rfl
@[simp] theorem State.setFreeIdx_time (s : State) (x : Nat) : (s.setFreeIdx x).time = s.time := rfl
@[simp] theorem State.setFreeIdx_atb (s : State) (x : Nat) : (s.setFreeIdx x).atb = s.atb := rfl
@[simp] theorem State.setFreeIdx_mge (s : State) (x : Nat) : (s.setFreeIdx x).mge = s.mge := rfl
@[simp] theorem State.setFreeIdx_tsa (s : State) (x : Nat) : (s.setFreeIdx x).tsa = s.tsa := rfl
@[simp] theorem State.setFreeIdx_fst (s : State) (x : Nat) : (s.setFreeIdx x).fst = s.fst := rfl
@[simp] theorem State.setFreeIdx_scan (s : State) (x : Nat) : (s.setFreeIdx x).scan = s.scan := rfl
@[simp] theorem State.setFreeIdx_slots (s : State) (x : Nat) : (s.setFreeIdx x).slots = s.slots := rfl
@[simp] theorem State.setFreeIdx_lamp (s : State) (x : Nat) : (s.setFreeIdx x).lamp = s.lamp := rfl
@[simp] theorem State.setFreeIdx_pdt (s : State) (x : Nat) : (s.setFreeIdx x).pdt = s.pdt := rfl
@[simp] theorem State.setFreeIdx_cec (s : State) (x : Nat) : (s.setFreeIdx x).cec = s.cec := rfl
@[simp] theorem State.setFreeIdx_wmu (s : State) (x : Nat) : (s.setFreeIdx x).wmu = s.wmu := rfl
@[simp] theorem State.setFreeIdx_mpa (s : State) (x : Nat) : (s.setFreeIdx x).mpa = s.mpa := rfl
@[simp] theorem State.setFreeIdx_cin (s : State) (x : Nat) : (s.setFreeIdx x).cin = s.cin := rfl
@[simp] theorem State.setFreeIdx_rpu (s : State) (x : Nat) : (s.setFreeIdx x).rpu = s.rpu := rfl
@[simp] theorem State.setFreeIdx_serial (s : State) (x : Nat) : (s.setFreeIdx x).serial = s.serial := rfl
@[simp] theorem State.setFreeIdx_freeIdx (s : State) (x : Nat) : (s.setFreeIdx x).freeIdx = x := rfl
@[simp] theorem State.setFreeIdx_pending (s : State) (x : Nat) : (s.setFreeIdx x).pending = s.pending := rfl
@[simp] theorem State.setPending_resetN (s : State) (x : List Instr) : (s.setPending x).resetN = s.resetN := rfl
@[simp] theorem State.setPending_device (s : State) (x : List Instr) : (s.setPending x).device = s.device := rfl
@[simp] theorem State.setPending_time (s : State) (x : List Instr) : (s.setPending x).time = s.time := rfl
@[simp] theorem State.setPending_atb (s : State) (x : List Instr) : (s.setPending x).atb = s.atb := rfl
@[simp] theorem State.setPending_mge (s : State) (x : List Instr) : (s.setPending x).mge = s.mge := rfl
@[simp] theorem State.setPending_tsa (s : State) (x : List Instr) : (s.setPending x).tsa = s.tsa := rfl
@[simp] theorem State.setPending_fst (s : State) (x : List Instr) : (s.setPending x).fst = s.fst := rfl
@[simp] theorem State.setPending_scan (s : State) (x : List Instr) : (s.setPending x).scan = s.scan := rfl
@[simp] theorem State.setPending_slots (s : State) (x : List Instr) : (s.setPending x).slots = s.slots := rfl
@[simp] theorem State.setPending_lamp (s : State) (x : List Instr) : (s.setPending x).lamp = s.lamp := rfl
@[simp] theorem State.setPending_pdt (s : State) (x : List Instr) : (s.setPending x).pdt = s.pdt := rfl
@[simp] theorem State.setPending_cec (s : State) (x : List Instr) : (s.setPending x).cec = s.cec := rfl
@[simp] theorem State.setPending_wmu (s : State) (x : List Instr) : (s.setPending x).wmu = s.wmu := rfl
@[simp] theorem State.setPending_mpa (s : State) (x : List Instr) : (s.setPending x).mpa = s.mpa := rfl
@[simp] theorem State.setPending_cin (s : State) (x : List Instr) : (s.setPending x).cin = s.cin := rfl
@[simp] theorem State.setPending_rpu (s : State) (x : List Instr) : (s.setPending x).rpu = s.rpu := rfl
@[simp] theorem State.setPending_serial (s : State) (x : List Instr) : (s.setPending x).serial = s.serial := rfl
@[simp] theorem State.setPending_freeIdx (s : State) (x : List Instr) : (s.setPending x).freeIdx = s.freeIdx := rfl
@[simp] theorem State.setPending_pending (s : State) (x : List Instr) : (s.setPending x).pending = x := rfl

end Sys2Proof.Machine
end

