-- ==== Sys2Proof/Laws/Frames.lean ====
section
/-! SUPPORT. Frames: which fields each shared operation and each command may change. -/
namespace Sys2Proof.Machine
set_option Elab.async false

/-- The fields a start decision may change (R60 to R63, R10, R11). -/
abbrev startFields : List Field := [.slots, .atb, .fst, .tsa, .mpa, .serial]

theorem Frame.refl {c : List Field} {s : State} : Frame c s s := by intro f _; cases f <;> rfl

theorem Frame.trans {a b : List Field} {s t u : State} (h : Frame a s t) (k : Frame b t u) : Frame (a ++ b) s u := by
  intro f hf
  have h1 := h f (fun m => hf (List.mem_append_left _ m))
  have h2 := k f (fun m => hf (List.mem_append_right _ m))
  cases f <;> exact Eq.trans h2 h1

theorem Frame.mono {a b : List Field} {s t : State} (h : Frame a s t) (k : ∀ f ∈ a, f ∈ b) : Frame b s t :=
  fun f hf => h f (fun m => hf (k f m))

/-- Two frames in a row, under one list that holds both. -/
theorem Frame.seq {a b c : List Field} {s t u : State} (h : Frame a s t) (k : Frame b t u)
    (ha : ∀ f ∈ a, f ∈ c := by decide) (hb : ∀ f ∈ b, f ∈ c := by decide) : Frame c s u :=
  (h.trans k).mono (by intro f hf; exact (List.mem_append.1 hf).elim (ha f) (hb f))

/-- A frame under a longer list. -/
theorem Frame.wide {a c : List Field} {s t : State} (h : Frame a s t) (ha : ∀ f ∈ a, f ∈ c := by decide) : Frame c s t :=
  h.mono ha

theorem Frame.ite {c : List Field} {s t u : State} {p : Prop} [Decidable p] (h : p → Frame c s t) (k : ¬ p → Frame c s u) :
    Frame c s (if p then t else u) := by
  split
  · exact h ‹_›
  · exact k ‹_›

theorem Frame.resetN {c : List Field} {s t : State} (h : Frame c s t) (hc : .resetN ∉ c := by decide) : t.resetN = s.resetN := h .resetN hc
theorem Frame.device {c : List Field} {s t : State} (h : Frame c s t) (hc : .device ∉ c := by decide) : t.device = s.device := h .device hc
theorem Frame.time {c : List Field} {s t : State} (h : Frame c s t) (hc : .time ∉ c := by decide) : t.time = s.time := h .time hc
theorem Frame.atb {c : List Field} {s t : State} (h : Frame c s t) (hc : .atb ∉ c := by decide) : t.atb = s.atb := h .atb hc
theorem Frame.mge {c : List Field} {s t : State} (h : Frame c s t) (hc : .mge ∉ c := by decide) : t.mge = s.mge := h .mge hc
theorem Frame.tsa {c : List Field} {s t : State} (h : Frame c s t) (hc : .tsa ∉ c := by decide) : t.tsa = s.tsa := h .tsa hc
theorem Frame.fst {c : List Field} {s t : State} (h : Frame c s t) (hc : .fst ∉ c := by decide) : t.fst = s.fst := h .fst hc
theorem Frame.scan {c : List Field} {s t : State} (h : Frame c s t) (hc : .scan ∉ c := by decide) : t.scan = s.scan := h .scan hc
theorem Frame.slots {c : List Field} {s t : State} (h : Frame c s t) (hc : .slots ∉ c := by decide) : t.slots = s.slots := h .slots hc
theorem Frame.lamp {c : List Field} {s t : State} (h : Frame c s t) (hc : .lamp ∉ c := by decide) : t.lamp = s.lamp := h .lamp hc
theorem Frame.pdt {c : List Field} {s t : State} (h : Frame c s t) (hc : .pdt ∉ c := by decide) : t.pdt = s.pdt := h .pdt hc
theorem Frame.cec {c : List Field} {s t : State} (h : Frame c s t) (hc : .cec ∉ c := by decide) : t.cec = s.cec := h .cec hc
theorem Frame.wmu {c : List Field} {s t : State} (h : Frame c s t) (hc : .wmu ∉ c := by decide) : t.wmu = s.wmu := h .wmu hc
theorem Frame.mpa {c : List Field} {s t : State} (h : Frame c s t) (hc : .mpa ∉ c := by decide) : t.mpa = s.mpa := h .mpa hc
theorem Frame.cin {c : List Field} {s t : State} (h : Frame c s t) (hc : .cin ∉ c := by decide) : t.cin = s.cin := h .cin hc
theorem Frame.rpu {c : List Field} {s t : State} (h : Frame c s t) (hc : .rpu ∉ c := by decide) : t.rpu = s.rpu := h .rpu hc
theorem Frame.serial {c : List Field} {s t : State} (h : Frame c s t) (hc : .serial ∉ c := by decide) : t.serial = s.serial := h .serial hc
theorem Frame.freeIdx {c : List Field} {s t : State} (h : Frame c s t) (hc : .freeIdx ∉ c := by decide) : t.freeIdx = s.freeIdx := h .freeIdx hc
theorem Frame.pending {c : List Field} {s t : State} (h : Frame c s t) (hc : .pending ∉ c := by decide) : t.pending = s.pending := h .pending hc

theorem frame_setResetN {s : State} {x} : Frame [.resetN] s (s.setResetN x) := by intro g hg; cases g <;> first | rfl | simp at hg
theorem frame_setDevice {s : State} {x} : Frame [.device] s (s.setDevice x) := by intro g hg; cases g <;> first | rfl | simp at hg
theorem frame_setTime {s : State} {x} : Frame [.time] s (s.setTime x) := by intro g hg; cases g <;> first | rfl | simp at hg
theorem frame_setAtb {s : State} {x} : Frame [.atb] s (s.setAtb x) := by intro g hg; cases g <;> first | rfl | simp at hg
theorem frame_setMge {s : State} {x} : Frame [.mge] s (s.setMge x) := by intro g hg; cases g <;> first | rfl | simp at hg
theorem frame_setTsa {s : State} {x} : Frame [.tsa] s (s.setTsa x) := by intro g hg; cases g <;> first | rfl | simp at hg
theorem frame_setFst {s : State} {x} : Frame [.fst] s (s.setFst x) := by intro g hg; cases g <;> first | rfl | simp at hg
theorem frame_setScan {s : State} {x} : Frame [.scan] s (s.setScan x) := by intro g hg; cases g <;> first | rfl | simp at hg
theorem frame_setSlots {s : State} {x} : Frame [.slots] s (s.setSlots x) := by intro g hg; cases g <;> first | rfl | simp at hg
theorem frame_setLamp {s : State} {x} : Frame [.lamp] s (s.setLamp x) := by intro g hg; cases g <;> first | rfl | simp at hg
theorem frame_setPdt {s : State} {x} : Frame [.pdt] s (s.setPdt x) := by intro g hg; cases g <;> first | rfl | simp at hg
theorem frame_setCec {s : State} {x} : Frame [.cec] s (s.setCec x) := by intro g hg; cases g <;> first | rfl | simp at hg
theorem frame_setWmu {s : State} {x} : Frame [.wmu] s (s.setWmu x) := by intro g hg; cases g <;> first | rfl | simp at hg
theorem frame_setMpa {s : State} {x} : Frame [.mpa] s (s.setMpa x) := by intro g hg; cases g <;> first | rfl | simp at hg
theorem frame_setCin {s : State} {x} : Frame [.cin] s (s.setCin x) := by intro g hg; cases g <;> first | rfl | simp at hg
theorem frame_setRpu {s : State} {x} : Frame [.rpu] s (s.setRpu x) := by intro g hg; cases g <;> first | rfl | simp at hg
theorem frame_setSerial {s : State} {x} : Frame [.serial] s (s.setSerial x) := by intro g hg; cases g <;> first | rfl | simp at hg
theorem frame_setFreeIdx {s : State} {x} : Frame [.freeIdx] s (s.setFreeIdx x) := by intro g hg; cases g <;> first | rfl | simp at hg
theorem frame_setPending {s : State} {x} : Frame [.pending] s (s.setPending x) := by intro g hg; cases g <;> first | rfl | simp at hg

/-! ### Latches, reports and the M-port -/

theorem frame_setLatch {l : Latch} {s : State} : Frame [.rpu] s (setLatch l s) := frame_setRpu

theorem frame_setFlag {f : CoalFlag} {s : State} : Frame [.rpu] s (setFlag f s) := frame_setRpu

theorem frame_pushReport {a b : Nat} {r : RepBody} {s : State} : Frame [.rpu] s (pushReport a b r s) := by
  unfold pushReport; exact Frame.ite (fun _ => frame_setRpu) (fun _ => Frame.refl)

theorem frame_requestM {k : MKind} {c : MClass} {w : Bool} {a n : Nat} {bs : List Byte} {s : State} :
    Frame [.serial, .mpa] s (requestM k c w a n bs s) := (frame_setSerial).trans (frame_setMpa)

theorem frame_answered {n : Nat} {s : State} : Frame [.mpa] s (answered n s) := frame_setMpa

theorem frame_stopIssuer {p : MTxn → Bool} {s : State} : Frame [.mpa] s (stopIssuer p s) := frame_setMpa

theorem frame_memErr {e : Bool} {s : State} : Frame [.rpu] s (memErr e s) := by
  unfold memErr; exact Frame.ite (fun _ => frame_setLatch) (fun _ => Frame.refl)

theorem frame_noteErr {r : Resp} {s : State} : Frame [.rpu] s (noteErr r s) := by
  unfold noteErr; exact Frame.ite (fun _ => (frame_setLatch).seq (frame_setLatch)) (fun _ => Frame.refl)

theorem frame_requestTaken {n : Fin 8} {s : State} : Frame [.serial, .mpa] s (requestTaken n s) := frame_requestM

theorem frame_requestDone {n : Fin 8} {r : Result} {s : State} : Frame [.serial, .mpa] s (requestDone n r s) :=
  frame_requestM

theorem frame_requestHead {v : Nat} {b : Bool} {s : State} : Frame [.serial, .mpa, .rpu] s (requestHead v b s) :=
  (frame_requestM).seq (frame_setRpu)

/-! ### Entries and the cell port -/

theorem frame_putSlot {i : Fin 4} {x : JobSlot} {s : State} : Frame [.slots] s (putSlot i x s) := frame_setSlots

theorem frame_putArea {i : Fin 4} {x : Area} {s : State} : Frame [.atb] s (putArea i x s) := frame_setAtb

theorem frame_putBank {i : Fin 2} {x : Bank} {s : State} : Frame [.fst] s (putBank i x s) := frame_setFst

theorem frame_putSeq {q : Seq} {s : State} : Frame [.mge] s (putSeq q s) := frame_setMge

theorem frame_setPort {p : List CellAcc} {s : State} : Frame [.mge] s (setPort p s) := frame_setMge

theorem frame_pumpList {ds as : List CellAcc} {s : State} : Frame [.serial, .mpa] s (pumpList ds as s).2 := by
  induction as generalizing ds s with
  | nil => exact Frame.refl
  | cons a as ih =>
    unfold pumpList
    split
    · exact (frame_requestM).seq (ih)
    · exact ih

theorem frame_pumpPort {s : State} : Frame [.mge, .serial, .mpa] s (pumpPort s) :=
  (frame_pumpList).seq (frame_setPort)

theorem frame_beginAccess {u : CellUse} {a n : Nat} {s : State} : Frame [.mge, .serial, .mpa] s (beginAccess u a n s) :=
  ((frame_setSerial).trans (frame_setPort)).seq (frame_pumpPort)

theorem frame_endAccess {n : Nat} {s : State} : Frame [.mge, .serial, .mpa] s (endAccess n s) :=
  (frame_setPort).seq (frame_pumpPort)

theorem frame_unhandMerges {s : State} : Frame [.mge] s (unhandMerges s) := frame_setPort

/-! ### The intake -/

theorem frame_putCmdSlot {n : Fin 8} {x : CmdSlot} {s : State} : Frame [.cin] s (putCmdSlot n x s) := frame_setCin

theorem frame_setShadow {m : Sparse} {s : State} : Frame [.cin] s (setShadow m s) := frame_setCin

theorem frame_setWaits {w : List DoneWait} {s : State} : Frame [.cin] s (setWaits w s) := frame_setCin

theorem frame_setLong {l : Option LongOp} {s : State} : Frame [.cin] s (setLong l s) := frame_setCin

theorem frame_issueSlot {n : Fin 8} {s : State} : Frame [.cin] s (issueSlot n s) := by
  unfold issueSlot; exact Frame.ite (fun _ => Frame.refl) (fun _ => frame_setCin)

theorem frame_withdrawSlot {n : Fin 8} {s : State} : Frame [.cin] s (withdrawSlot n s) := by
  unfold withdrawSlot
  exact Frame.ite (fun _ => frame_setCin)
    (fun _ => Frame.ite (fun _ => frame_putCmdSlot) (fun _ => Frame.refl))

theorem frame_takeEvent {s : State} : Frame [.cin] s (takeEvent s) := frame_setCin

theorem frame_judgeByte {o : Nat} {b : Byte} {s : State} : Frame [.cin] s (judgeByte o b s) := by
  unfold judgeByte
  repeat' split
  all_goals first
    | exact Frame.refl
    | exact frame_issueSlot.seq frame_takeEvent
    | exact frame_withdrawSlot.seq frame_takeEvent

theorem frame_judgeBytes {bs : List (Nat × Byte)} {s : State} : Frame [.cin] s (judgeBytes bs s) := by
  induction bs generalizing s with
  | nil => exact Frame.refl
  | cons p bs ih => exact (frame_judgeByte).seq (ih)

theorem frame_tailAfter {bs : List (Nat × Byte)} {s : State} : Frame [.rpu] s (tailAfter bs s) := by
  unfold tailAfter; exact Frame.ite (fun _ => frame_setRpu) (fun _ => Frame.refl)

theorem frame_handBytes {bs : List (Nat × Byte)} {s : State} : Frame [.cin, .rpu] s (handBytes bs s) :=
  ((frame_setShadow).trans (frame_tailAfter)).seq (frame_judgeBytes)

theorem frame_openSlot {n : Fin 8} {s : State} : Frame [.cin, .serial, .mpa] s (openSlot n s) :=
  ((frame_setCin).trans (frame_putCmdSlot)).seq (frame_requestTaken)

theorem frame_pumpWaits {ks ds : List DoneWait} {s : State} : Frame [.serial, .mpa] s (pumpWaits ks ds s).2 := by
  induction ds generalizing ks s with
  | nil => exact Frame.refl
  | cons d ds ih =>
    unfold pumpWaits
    split
    · exact ih
    · exact (frame_requestDone).seq (ih)

theorem frame_pumpDone {s : State} : Frame [.cin, .serial, .mpa] s (pumpDone s) :=
  (frame_pumpWaits).seq (frame_setWaits)

theorem frame_complete {n : Fin 8} {r : Result} {s : State} : Frame [.cin, .serial, .mpa] s (complete n r s) :=
  (frame_setWaits.trans frame_pumpDone).seq frame_takeEvent

/-! ### The sweep and the start decision -/

theorem frame_setSweep {w : Option Sweep} {s : State} : Frame [.atb] s (setSweep w s) := frame_setAtb

theorem frame_requestSweep {a : Area} {n : Nat} {s : State} : Frame [.serial, .mpa] s (requestSweep a n s) :=
  frame_requestM

theorem frame_sweepKick {s : State} : Frame [.atb, .serial, .mpa] s (sweepKick s) := by
  unfold sweepKick
  split
  · exact Frame.ite (fun _ => (frame_requestSweep).seq (frame_setSweep)) (fun _ => Frame.refl)
  · exact Frame.refl

theorem frame_stopSweep {s : State} : Frame [.atb, .mpa] s (stopSweep s) := by
  unfold stopSweep
  split
  · exact ((frame_putArea).trans (frame_stopIssuer)).seq (frame_setSweep)
  · exact Frame.refl

theorem frame_endDueAt {i : Fin 4} {e : JobEnd} {s : State} : Frame [.slots] s (endDueAt i e s) := by
  unfold endDueAt; exact Frame.ite (fun _ => Frame.refl) (fun _ => frame_putSlot)

theorem frame_failDue {i : Fin 4} {r : EndReason} {s : State} : Frame [.slots] s (failDue i r s) := by
  unfold failDue
  split
  · exact frame_endDueAt
  · exact Frame.refl

theorem frame_tookGeneration {i : Fin 4} {g : Nat} {s : State} : Frame [.slots] s (tookGeneration i g s) := by
  unfold tookGeneration
  dsimp only
  split
  · exact frame_putSlot
  · exact Frame.refl

theorem frame_generationStep {i n : Fin 4} {s : State} : Frame [.slots, .atb, .serial, .mpa] s (generationStep i n s) := by
  unfold generationStep
  exact Frame.ite (fun _ => (frame_putArea).seq (frame_tookGeneration))
    (fun _ => (frame_setSweep).seq (frame_sweepKick))

theorem frame_plateStarting {i : Fin 4} {j : JobRecord} {s : State} :
    Frame [.slots, .atb, .serial, .mpa] s (plateStarting i j s) := by
  unfold plateStarting
  exact Frame.ite (fun _ => (frame_putArea).seq (frame_failDue))
    (fun _ => Frame.ite (fun _ => (frame_putArea).seq (frame_failDue))
      (fun _ => (frame_putArea).seq (frame_generationStep)))

theorem frame_flatStarting {i : Fin 4} {j : JobRecord} {s : State} :
    Frame [.fst, .tsa, .slots] s (flatStarting i j s) :=
  ((frame_putBank).trans (frame_setTsa)).seq (frame_putSlot)

theorem frame_enterStarting {i : Fin 4} {s : State} : Frame startFields s (enterStarting i s) := by
  unfold enterStarting
  dsimp only
  split
  · split
    · exact (frame_putSlot).seq (frame_plateStarting)
    · exact (frame_putSlot).seq (frame_flatStarting)
  · exact (frame_putSlot).wide

theorem frame_startDecision {s : State} : Frame startFields s (startDecision s) := by
  unfold startDecision
  split
  · exact frame_enterStarting
  · exact Frame.refl

/-- Slots none of which is eligible: the start decision starts none (R60). -/
theorem startDecision_none (s : State) (h : ∀ i, eligible s i = false) : startDecision s = s := by
  have : ∀ l, pickStart s l = none := by
    intro l
    induction l with
    | nil => rfl
    | cons i l ih => simp [pickStart, ih, h i]
  simp [startDecision, this]

theorem startDecision_of_busy (s : State) (h : (busySlot s).isSome = true) : startDecision s = s :=
  startDecision_none s fun i => by
    cases hb : busySlot s with
    | none => rw [hb] at h; cases h
    | some _ => simp [eligible, hb]

theorem startDecision_of_lamp (s : State) (h : s.lamp.state ≠ .steady) : startDecision s = s :=
  startDecision_none s fun i => by simp [eligible, lampAllows, h]

theorem startDecision_of_hold (s : State) (h : s.device = .hold) : startDecision s = s :=
  startDecision_none s fun i => by simp [eligible, h]

theorem startDecision_of_holdRunning (s : State) (h : holdRunning s = true) : startDecision s = s :=
  startDecision_none s fun i => by simp [eligible, h]

theorem startDecision_of_noPending (s : State) (h : ∀ i, (vget s.slots i).state ≠ .pending) : startDecision s = s :=
  startDecision_none s fun i => by simp [eligible, h i]

theorem frame_setCecValue {v : Nat} {s : State} : Frame (.cec :: .rpu :: startFields) s (setCecValue v s) := by
  unfold setCecValue
  dsimp only
  exact Frame.ite (fun _ => (frame_setCec).wide)
    (fun _ => ((frame_setCec).trans (frame_setFlag)).seq (frame_startDecision))

theorem frame_scoreUp {n : Nat} {s : State} : Frame (.cec :: .rpu :: startFields) s (scoreUp n s) := frame_setCecValue

theorem frame_scoreDown {s : State} : Frame (.cec :: .rpu :: startFields) s (scoreDown s) := frame_setCecValue

/-! ### Leaving states and the end of a job -/

theorem frame_dropAttempt {s : State} : Frame [.mge] s (dropAttempt s) :=
  (frame_setMge).seq (frame_unhandMerges)

theorem frame_stopScan {s : State} : Frame [.mge, .mpa, .scan, .serial] s (stopScan s) :=
  ((frame_stopIssuer).trans ((frame_setScan).trans (frame_setPort))).seq (frame_pumpPort)

theorem frame_stopFinishing {s : State} : Frame [.fst, .mge, .mpa, .scan, .serial] s (stopFinishing s) :=
  (frame_stopScan).seq (frame_setFst)

/-- The fields that leaving a job's state may change. -/
abbrev leaveFields : List Field := [.atb, .fst, .mge, .mpa, .scan, .serial]

theorem frame_leaveState {x : SlotState} {k : JobKind} {s : State} : Frame leaveFields s (leaveState x k s) := by
  unfold leaveState
  split
  · exact (frame_stopSweep).wide
  · exact (frame_dropAttempt).wide
  · split
    · exact (frame_stopScan).wide
    · exact (frame_setFst).wide
  · exact Frame.refl

theorem frame_bankAtEnd {j : JobRecord} {o : JobOutcome} {s : State} : Frame [.fst] s (bankAtEnd j o s) := by
  unfold bankAtEnd
  repeat' split
  all_goals first | exact Frame.refl | exact frame_putBank

theorem frame_pushEnded {i : Fin 4} {j : JobRecord} {e : JobEnd} {s : State} : Frame [.rpu] s (pushEnded i j e s) :=
  frame_pushReport

theorem frame_endJob {i : Fin 4} {e : JobEnd} {s : State} : Frame (.rpu :: .mge :: startFields) s (endJob i e s) := by
  unfold endJob
  dsimp only
  split
  · split
    · exact (((frame_pushEnded).trans (frame_putSlot)).trans ((frame_putSeq).trans (frame_bankAtEnd))).seq
        (frame_startDecision)
    · exact ((frame_pushEnded).trans (frame_putSlot)).seq (frame_startDecision)
  · exact Frame.refl

/-- The fields that ending a job from outside may change. -/
abbrev abortFields : List Field := [.rpu, .mge, .slots, .atb, .fst, .tsa, .mpa, .serial, .scan]

theorem frame_abortSlot {i : Fin 4} {r : EndReason} {s : State} : Frame abortFields s (abortSlot i r s) := by
  unfold abortSlot
  dsimp only
  split
  · exact (frame_leaveState).seq (frame_endJob)
  · exact Frame.refl

theorem frame_monitorsHold {s : State} : Frame [.rpu, .lamp, .pdt, .cec] s (monitorsHold s) := by
  unfold monitorsHold
  dsimp only
  have h1 : Frame [.rpu] s (if s.lamp.state = .offline then s else setFlag .lamp s) :=
    Frame.ite (fun _ => Frame.refl) (fun _ => frame_setFlag)
  have h2 : ∀ u : State, Frame [.rpu] u (if u.pdt.presence = .unknown then u else setFlag .presence u) := fun u =>
    Frame.ite (fun _ => Frame.refl) (fun _ => frame_setFlag)
  exact (h1.trans (h2 _)).seq ((frame_setLamp.trans frame_setPdt).trans frame_setCec)

theorem frame_jobsHold {s : State} : Frame abortFields s (jobsHold s) := by
  unfold jobsHold
  repeat' split
  · exact (frame_endJob).wide
  · exact frame_abortSlot
  · exact Frame.refl

/-- The fields that HOLD entry may change. -/
abbrev holdFields : List Field :=
  [.device, .lamp, .pdt, .cec, .rpu, .mge, .slots, .atb, .fst, .tsa, .mpa, .serial, .scan]

theorem frame_holdEntry {s : State} : Frame holdFields s (holdEntry s) :=
  ((frame_jobsHold).trans (frame_monitorsHold)).seq (frame_setDevice)

theorem frame_finishHold {n : Fin 8} {s : State} : Frame (.cin :: holdFields) s (finishHold n s) :=
  ((frame_holdEntry).trans (frame_setLong)).seq (frame_complete)

theorem frame_holdAfterEnd {s : State} : Frame (.cin :: holdFields) s (holdAfterEnd s) := by
  unfold holdAfterEnd
  split
  · exact Frame.ite (fun _ => frame_finishHold) (fun _ => Frame.refl)
  · exact Frame.refl

/-! ### The monitors -/

/-- The fields a measurement or a presence change may change. -/
abbrev monFields : List Field := [.lamp, .pdt, .cec, .rpu, .mge, .slots, .atb, .fst, .tsa, .mpa, .serial, .scan]

theorem frame_completeRecovery {s : State} : Frame (.lamp :: .cec :: .rpu :: startFields) s (completeRecovery s) :=
  ((frame_setLamp).trans (frame_setCec)).seq (frame_setCecValue)

theorem frame_countRecovery {s : State} : Frame (.lamp :: .cec :: .rpu :: startFields) s (countRecovery s) := by
  unfold countRecovery
  exact Frame.ite (fun _ => Frame.ite (fun _ => frame_completeRecovery) (fun _ => (frame_setLamp).wide))
    (fun _ => Frame.refl)

theorem frame_departure {s : State} : Frame [.lamp, .rpu] s (departure s) :=
  (frame_setLatch).seq (frame_setLamp)

theorem frame_lampChanged {s : State} : Frame (.rpu :: startFields) s (lampChanged s) :=
  (frame_setFlag).seq (frame_startDecision)

theorem frame_applyMeas {m : Meas} {s : State} : Frame (.lamp :: .cec :: .rpu :: startFields) s (applyMeas m s) := by
  unfold applyMeas
  dsimp only
  have h1 : ∀ (p : Prop) [Decidable p] (u : State), Frame [.lamp, .rpu] u (if p then departure u else u) := fun p _ u =>
    Frame.ite (fun _ => frame_departure) (fun _ => Frame.refl)
  have h2 : ∀ (p : Prop) [Decidable p] (u : State), Frame (.rpu :: startFields) u (if p then u else lampChanged u) :=
    fun p _ u => Frame.ite (fun _ => Frame.refl) (fun _ => frame_lampChanged)
  cases m
  · exact (frame_setLamp.trans (h1 _ _)).seq (h2 _ _)
  · exact (frame_setLamp.trans (h1 _ _)).seq (h2 _ _)
  · exact ((frame_setLamp.trans (h1 _ _)).trans (h2 _ _)).seq frame_countRecovery

theorem frame_presenceActs {p : Presence} {s : State} : Frame (.slots :: leaveFields) s (presenceActs p s) := by
  unfold presenceActs
  dsimp only
  repeat' split
  all_goals first | exact Frame.refl | exact (frame_leaveState).seq (frame_failDue)

theorem frame_changePresence {p : Presence} {s : State} :
    Frame [.pdt, .rpu, .slots, .atb, .fst, .mge, .tsa, .mpa, .scan, .serial] s (changePresence p s) :=
  ((frame_setPdt).trans ((frame_setFlag).trans ((frame_setLatch).trans (frame_presenceActs)))).seq
    (frame_startDecision)

theorem frame_voteFor {p : Presence} {s : State} :
    Frame [.pdt, .rpu, .slots, .atb, .fst, .mge, .tsa, .mpa, .scan, .serial] s (voteFor p s) := by
  unfold voteFor
  dsimp only
  repeat' split
  all_goals first | exact (frame_setPdt).wide | exact frame_changePresence

/-- The fields a presence change may change. -/
abbrev presFields : List Field := [.pdt, .rpu, .slots, .atb, .fst, .mge, .tsa, .mpa, .scan, .serial]

theorem frame_putTotals {i : Fin 16} {t : Totals} {s : State} : Frame [.pdt] s (putTotals i t s) := frame_setPdt

theorem frame_frameLamp {e : Nat} {t : Totals} {s : State} :
    Frame (.lamp :: .cec :: .rpu :: startFields) s (frameLamp e t s) := frame_applyMeas

theorem frame_framePresence {t : Totals} {s : State} : Frame presFields s (framePresence t s) := by
  unfold framePresence
  split
  · exact frame_voteFor
  · exact Frame.refl

/-- The fields a looked-at monitor sample may change. -/
abbrev monitorFields : List Field := .freeIdx :: .lamp :: .cec :: presFields

theorem frame_evaluateFrame {e : Nat} {t : Totals} {s : State} : Frame monitorFields s (evaluateFrame e t s) := by
  unfold evaluateFrame
  exact Frame.ite (fun _ => Frame.refl) (fun _ => Frame.ite
    (fun _ => (frame_setFreeIdx.trans frame_frameLamp).seq frame_framePresence)
    (fun _ => (frame_setFreeIdx.trans frame_framePresence).seq frame_frameLamp))

theorem frame_monitorSample {n : Fin 16} {w h r e : Nat} {iv : Nat × Nat} {s : State} :
    Frame monitorFields s (monitorSample n w h r e iv s) := by
  unfold monitorSample
  exact Frame.ite (fun _ => Frame.refl) (fun _ => Frame.ite
    (fun _ => frame_evaluateFrame.seq frame_putTotals) (fun _ => frame_putTotals.wide))

theorem frame_monitorAll {n : Fin 16} {w h r e : Nat} {ivs : List (Nat × Nat)} {s : State} :
    Frame monitorFields s (monitorAll n w h r e ivs s) := by
  induction ivs generalizing s with
  | nil => exact Frame.refl
  | cons iv ivs ih => exact frame_monitorSample.seq ih

theorem frame_runEntry {s : State} : Frame (.device :: .lamp :: .rpu :: startFields) s (runEntry s) :=
  ((frame_setDevice.trans frame_setLamp).trans frame_setFlag).seq frame_startDecision

/-! ### Finishing -/

theorem frame_scanRequest {s : State} : Frame [.mge, .scan, .serial, .mpa] s (scanRequest s) := by
  unfold scanRequest
  split
  · exact Frame.ite (fun _ => frame_setScan.seq frame_beginAccess) (fun _ => Frame.refl)
  · exact Frame.refl

theorem frame_scanComplete {j : JobRecord} {s : State} : Frame [.slots, .scan] s (scanComplete j s) := by
  unfold scanComplete
  exact Frame.ite (fun _ => frame_setScan.seq frame_endDueAt) (fun _ => Frame.refl)

theorem frame_enterFinishing {i : Fin 4} {j : JobRecord} {s : State} :
    Frame [.slots, .mge, .scan, .serial, .mpa, .fst] s (enterFinishing i j s) := by
  unfold enterFinishing
  dsimp only
  split
  · exact ((frame_putSlot.trans frame_setMge).trans frame_setScan).seq frame_scanRequest
  · exact (frame_putSlot.trans frame_setMge).seq frame_setFst

/-! ### The sequencer -/

theorem frame_popPixel {s : State} : Frame [.mge] s (popPixel s) := frame_setMge

theorem frame_takeStray {s : State} : Frame [.mge, .freeIdx] s (takeStray s) := by
  unfold takeStray
  exact Frame.ite (fun _ => frame_popPixel.wide) (fun _ => Frame.ite (fun _ => frame_popPixel.seq frame_putSeq)
    (fun _ => (frame_popPixel.trans frame_setFreeIdx).seq frame_putSeq))

theorem frame_beginAttempt {s : State} : Frame [.mge, .tsa] s (beginAttempt s) := by
  unfold beginAttempt
  exact Frame.ite (fun _ => frame_putSeq.seq frame_setTsa) (fun _ => Frame.refl)

theorem frame_countSample {j : JobRecord} {s : State} : Frame [.mge] s (countSample j s) := frame_putSeq

/-- The fields a measurement inside an attempt may change. -/
abbrev sampleFields : List Field := .mge :: .freeIdx :: .lamp :: .cec :: .rpu :: startFields

theorem frame_verdictPoint {j : JobRecord} {s : State} : Frame sampleFields s (verdictPoint j s) := by
  unfold verdictPoint
  exact Frame.ite (fun _ => frame_applyMeas.seq frame_putSeq) (fun _ => frame_applyMeas.seq frame_putSeq)

theorem frame_takeReference {j : JobRecord} {v : Nat} {s : State} : Frame sampleFields s (takeReference j v s) := by
  unfold takeReference
  exact Frame.ite (fun _ => frame_putSeq.seq frame_verdictPoint) (fun _ => frame_putSeq.wide)

theorem frame_admitFlat {j : JobRecord} {p v : Nat} {s : State} : Frame [.mge, .tsa] s (admitFlat j p v s) := by
  unfold admitFlat
  dsimp only
  split
  · exact frame_putSeq.seq frame_setTsa
  · exact frame_putSeq.wide

theorem frame_takeAdmitted {i : Fin 4} {j : JobRecord} {p v : Nat} {s : State} :
    Frame [.mge, .tsa, .serial, .mpa] s (takeAdmitted i j p v s) := by
  unfold takeAdmitted
  split
  · exact (frame_beginAccess (s := s)).wide
  · exact frame_admitFlat.wide

theorem frame_handleSample {i : Fin 4} {j : JobRecord} {p v : Nat} {s : State} :
    Frame sampleFields s (handleSample i j p v s) := by
  unfold handleSample
  dsimp only
  split
  · exact Frame.ite (fun _ => frame_takeReference) (fun _ => (frame_putSeq (s := s)).wide)
  · exact Frame.ite (fun _ => Frame.refl) (fun _ => frame_takeAdmitted.wide)
  · exact Frame.refl
  · exact Frame.refl

theorem frame_countTest {j : JobRecord} {s : State} : Frame [.mge] s (countTest j s) := by
  unfold countTest; exact Frame.ite (fun _ => frame_putSeq) (fun _ => Frame.refl)

theorem frame_takeHead {i : Fin 4} {j : JobRecord} {p : Sample} {s : State} : Frame sampleFields s (takeHead i j p s) := by
  unfold takeHead
  exact Frame.ite (fun _ => frame_takeStray.wide) (fun _ => Frame.ite (fun _ => frame_putSeq.wide)
    (fun _ => (((frame_popPixel.trans frame_beginAttempt).trans frame_countSample).trans frame_handleSample).seq
      frame_countTest))

theorem frame_handRead {m : Merge} {b : Bool} {s : State} : Frame [.mge] s (handRead m b s) := by
  unfold handRead; exact Frame.ite (fun _ => frame_putSeq) (fun _ => Frame.refl)

theorem frame_handWrite {m : Merge} {o : MergeOutcome} {b : Bool} {s : State} : Frame [.mge] s (handWrite m o b s) := by
  unfold handWrite; exact Frame.ite (fun _ => frame_putSeq) (fun _ => Frame.refl)

theorem frame_endMerge {n : Nat} {s : State} : Frame [.mge, .serial, .mpa, .atb] s (endMerge n s) :=
  frame_endAccess.seq frame_sweepKick

theorem frame_noteReject {m : Merge} {o : MergeOutcome} {s : State} : Frame [.tsa] s (noteReject m o s) := by
  unfold noteReject
  split
  · exact Frame.ite (fun _ => frame_setTsa) (fun _ => Frame.refl)
  · exact Frame.refl

theorem frame_setWriting {n : Nat} {o : MergeOutcome} {s : State} : Frame [.mge] s (setWriting n o s) := frame_setPort

theorem frame_writeCell {a : CellAcc} {m : Merge} {j : Option Cell} {s : State} :
    Frame [.mge, .tsa, .serial, .mpa] s (writeCell a m j s) :=
  (frame_noteReject.trans frame_setWriting).seq frame_requestM

theorem frame_mergeRead {a : CellAcc} {m : Merge} {d : RData} {s : State} :
    Frame [.mge, .tsa, .serial, .mpa, .atb, .rpu] s (mergeRead a m d s) := by
  unfold mergeRead
  exact Frame.ite (fun _ => (frame_setLatch.trans frame_handRead).seq frame_endMerge)
    (fun _ => Frame.ite (fun _ => frame_handRead.seq frame_endMerge) (fun _ => frame_writeCell.wide))

/-- The fields the end of an attempt may change. -/
abbrev attemptFields : List Field := .mge :: .rpu :: .cec :: .scan :: startFields

theorem frame_failJob {i : Fin 4} {j : JobRecord} {r : EndReason} {s : State} :
    Frame (.rpu :: .mge :: startFields) s (failJob i j r s) := frame_dropAttempt.seq frame_endJob

theorem frame_waitAgain {j : JobRecord} {q : Seq} {s : State} : Frame [.mge] s (waitAgain j q s) := frame_putSeq

theorem frame_failAttempt {i : Fin 4} {j : JobRecord} {r : AttReason} {s : State} :
    Frame attemptFields s (failAttempt i j r s) := by
  unfold failAttempt
  dsimp only
  refine Frame.ite (fun _ => ?_) (fun _ => Frame.ite (fun _ => ?_) (fun _ => ?_))
  · exact ((frame_putSeq.trans frame_pushReport).trans frame_scoreUp).seq frame_failJob
  · exact ((frame_putSeq.trans frame_pushReport).trans frame_scoreUp).seq frame_failJob
  · exact ((frame_putSeq.trans frame_pushReport).trans frame_scoreUp).seq frame_waitAgain

theorem frame_scoreClose {u m : Nat} {s : State} : Frame (.cec :: .rpu :: startFields) s (scoreClose u m s) := by
  unfold scoreClose; exact Frame.ite (fun _ => frame_scoreUp) (fun _ => frame_scoreDown)

theorem frame_closeExposure {i : Fin 4} {j : JobRecord} {s : State} : Frame attemptFields s (closeExposure i j s) := by
  unfold closeExposure
  dsimp only
  refine Frame.ite (fun _ => ?_) (fun _ => Frame.ite (fun _ => ?_) (fun _ => ?_))
  · exact (frame_pushReport.trans frame_scoreClose).seq frame_failJob
  · exact (frame_pushReport.trans frame_scoreClose).seq frame_enterFinishing
  · exact (frame_pushReport.trans frame_scoreClose).seq frame_waitAgain

theorem frame_takeEnd {i : Fin 4} {j : JobRecord} {e : AttEnd} {s : State} : Frame attemptFields s (takeEnd i j e s) := by
  unfold takeEnd
  dsimp only
  split
  · exact frame_failAttempt
  · exact frame_failAttempt
  · split
    · exact Frame.ite (fun _ => frame_failAttempt) (fun _ => frame_closeExposure)
    · exact frame_failAttempt

/-! ### Reports, flat images and commands -/

theorem frame_reportsKick {s : State} : Frame [.cin, .rpu, .serial, .mpa] s (reportsKick s) := by
  unfold reportsKick
  split
  · exact Frame.ite (fun _ => Frame.refl) (fun _ => (frame_setRpu.trans frame_setLong).seq frame_requestHead)
  · exact Frame.refl

theorem frame_advance {b : Bool} {s : State} : Frame [.rpu, .serial, .mpa] s (advance b s) :=
  frame_setRpu.seq frame_requestHead

theorem frame_post {v q : Nat} {s : State} : Frame [.rpu] s (post v q s) := by
  unfold post; exact Frame.ite (fun _ => frame_setRpu) (fun _ => Frame.refl)

theorem frame_storeNext {s : State} : Frame [.cin, .serial, .mpa] s (storeNext s) := by
  unfold storeNext
  split
  · exact Frame.ite (fun _ => frame_setLong.seq frame_requestM) (fun _ => Frame.refl)
  · exact Frame.refl

theorem frame_storeEnd {n : Fin 8} {b : Bank} {d : Nat} {e : Bool} {s : State} :
    Frame [.cin, .serial, .mpa] s (storeEnd n b d e s) := by
  unfold storeEnd
  exact Frame.ite (fun _ => Frame.refl) (fun _ => Frame.ite (fun _ => frame_setLong.seq frame_complete)
    (fun _ => Frame.ite (fun _ => frame_setLong.seq frame_complete) (fun _ => Frame.refl)))

theorem frame_fetchNext {s : State} : Frame [.cin, .serial, .mpa] s (fetchNext s) := by
  unfold fetchNext
  split
  · exact Frame.ite (fun _ => frame_setLong.seq frame_requestM) (fun _ => Frame.refl)
  · exact Frame.refl

theorem frame_fetchEnd {s : State} : Frame (.cin :: startFields) s (fetchEnd s) := by
  unfold fetchEnd
  split
  · exact Frame.ite (fun _ => Frame.refl) (fun _ => Frame.ite (fun _ => frame_setLong.seq frame_complete)
      (fun _ => Frame.ite (fun _ => Frame.refl)
        (fun _ => ((frame_putBank.trans frame_setLong).trans frame_complete).seq frame_startDecision)))
  · exact Frame.refl

/-- A command that completes at its take may change what its effect may, and the intake's part. -/
theorem frame_answer {c : List Field} {t : Taken} {r : Result} {f : State → State} {s : State}
    (h : r = .ok → Frame c s (f s)) : Frame (c ++ [.cin, .serial, .mpa]) s (answer t r f s) := by
  unfold answer
  exact (Frame.ite h (fun _ => Frame.refl)).trans frame_complete

theorem frame_putWindow {i : Fin 16} {w : Option Win} {s : State} : Frame [.wmu] s (putWindow i w s) := frame_setWmu

theorem frame_setWindowNow {t : Taken} {s : State} : Frame [.wmu, .pdt] s (setWindowNow t s) := by
  unfold setWindowNow
  split
  · exact frame_putWindow.seq frame_putTotals
  · exact Frame.refl

theorem frame_clearWindowNow {t : Taken} {s : State} : Frame [.wmu, .pdt] s (clearWindowNow t s) := by
  unfold clearWindowNow
  split
  · exact frame_putWindow.seq frame_putTotals
  · exact Frame.refl

theorem frame_setMatchNow {t : Taken} {s : State} : Frame [.wmu] s (setMatchNow t s) := by
  unfold setMatchNow
  split
  · exact frame_setWmu
  · exact Frame.refl

theorem frame_runDefineArea {t : Taken} {s : State} : Frame [.atb, .cin, .serial, .mpa] s (runDefineArea t s) := by
  have h : ∀ r f, (∀ u : State, Frame [.atb] u (f u)) → Frame [.atb, .cin, .serial, .mpa] s (answer t r f s) :=
    fun r f k => frame_answer fun _ => k s
  unfold runDefineArea
  dsimp only
  repeat' split
  all_goals first | exact h _ _ (fun _ => frame_putArea) | exact h _ _ (fun _ => Frame.refl)

theorem frame_runSetReports {t : Taken} {s : State} : Frame [.cin, .rpu, .serial, .mpa] s (runSetReports t s) := by
  unfold runSetReports
  exact Frame.ite (fun _ => frame_setLong.seq frame_reportsKick) (fun _ => frame_complete.wide)

theorem frame_runFlatStore {t : Taken} {s : State} : Frame [.cin, .serial, .mpa] s (runFlatStore t s) := by
  unfold runFlatStore
  exact Frame.ite (fun _ => frame_setLong.seq frame_storeNext) (fun _ => frame_complete)

theorem frame_runFlatFetch {t : Taken} {s : State} : Frame [.fst, .cin, .serial, .mpa] s (runFlatFetch t s) := by
  unfold runFlatFetch
  exact Frame.ite (fun _ => (frame_putBank.trans frame_setLong).seq frame_requestM) (fun _ => frame_complete.wide)

theorem frame_runHold {t : Taken} {s : State} : Frame (.cin :: holdFields) s (runHold t s) := by
  unfold runHold
  exact Frame.ite (fun _ => frame_complete.wide)
    (fun _ => Frame.ite (fun _ => frame_setLong.wide) (fun _ => frame_setLong.seq frame_finishHold))

theorem frame_arm {s : State} : Frame [.cec, .lamp] s (arm s) := by
  unfold arm; exact Frame.ite (fun _ => Frame.refl) (fun _ => frame_setCec.seq frame_setLamp)

theorem frame_snapNow {t : Taken} {s : State} : Frame [.rpu] s (snapNow t s) := frame_pushReport.seq frame_setRpu

/-- The fields that a soft reset of the blocks may change. -/
abbrev softFields : List Field := [.device, .slots, .atb, .fst, .scan, .mge, .lamp, .pdt, .cec, .rpu, .mpa, .serial]

theorem frame_softBlocks {s : State} : Frame softFields s (softBlocks s) := by
  have h1 := frame_stopSweep (s := s).trans (frame_stopFinishing.trans (frame_stopIssuer (p := isJobFetch)))
  exact (((((((h1.trans frame_setAtb).trans frame_setSlots).trans frame_setFst).trans
    (frame_dropAttempt.trans frame_putSeq)).trans (frame_setLamp.trans frame_setPdt)).trans frame_setCec).trans
      frame_setRpu).seq frame_setDevice

theorem frame_openAll {ns : List (Fin 8)} {s : State} : Frame [.cin] s (openAll ns s) := by
  induction ns generalizing s with
  | nil => exact Frame.refl
  | cons n ns ih => exact frame_putCmdSlot.seq ih

theorem frame_softIntake {n : Fin 8} {s : State} : Frame [.cin, .serial, .mpa] s (softIntake n s) :=
  ((frame_openAll.trans frame_setCin).trans frame_setWaits).seq frame_pumpDone

theorem frame_runLoadJob {t : Taken} {s : State} : Frame [.slots, .cin, .serial, .mpa] s (runLoadJob t s) := by
  unfold runLoadJob
  exact Frame.ite (fun _ => ((frame_putSlot.trans frame_setLong).trans frame_requestM).seq frame_takeEvent)
    (fun _ => frame_complete.wide)

theorem frame_runAbortJob {t : Taken} {s : State} : Frame (.cin :: abortFields) s (runAbortJob t s) := by
  unfold runAbortJob
  split
  · exact (frame_answer fun _ => frame_abortSlot).wide
  · exact (frame_answer (c := []) fun _ => Frame.refl).wide

theorem frame_runReleaseJob {t : Taken} {s : State} : Frame (.cin :: startFields) s (runReleaseJob t s) := by
  unfold runReleaseJob
  split
  · exact (frame_answer fun _ => (frame_putSlot.trans frame_setAtb).seq (c := startFields) frame_startDecision).wide
  · exact (frame_answer (c := []) fun _ => Frame.refl).wide

/-- The fields that a command of the command page may change. -/
abbrev takeFields : List Field :=
  [.device, .atb, .mge, .tsa, .fst, .scan, .slots, .lamp, .pdt, .cec, .wmu, .mpa, .cin, .rpu, .serial]

theorem frame_runCmd {c : Option Cmd} {t : Taken} {s : State} : Frame takeFields s (runCmd c t s) := by
  unfold runCmd
  split
  · exact (frame_answer fun _ => frame_setMge).wide
  · exact (frame_answer fun _ => frame_setLamp).wide
  · exact (frame_answer fun _ => frame_setMge).wide
  · exact (frame_answer fun _ => frame_setWindowNow).wide
  · exact (frame_answer fun _ => frame_clearWindowNow).wide
  · exact (frame_answer fun _ => frame_setMatchNow).wide
  · exact frame_runDefineArea.wide
  · exact frame_runSetReports.wide
  · exact frame_runFlatStore.wide
  · exact frame_runFlatFetch.wide
  · exact (frame_answer fun _ => frame_putBank).wide
  · exact (frame_answer fun _ => frame_runEntry).wide
  · exact frame_runHold.wide
  · exact (frame_answer fun _ => frame_arm).wide
  · exact (frame_answer fun _ => frame_snapNow).wide
  · exact frame_softBlocks.seq frame_softIntake
  · exact frame_runLoadJob.wide
  · exact frame_runAbortJob.wide
  · exact frame_runReleaseJob.wide
  · exact frame_complete.wide

theorem frame_takeNow {n : Fin 8} {s : State} : Frame takeFields s (takeNow n s) := frame_openSlot.seq frame_runCmd

theorem frame_makeTakes {k : Nat} {s : State} : Frame takeFields s (makeTakes k s) := by
  induction k generalizing s with
  | zero => exact Frame.refl
  | succ k ih =>
    unfold makeTakes
    split
    · exact frame_takeNow.seq ih
    · exact Frame.refl

theorem frame_dueTakes {s : State} : Frame takeFields s (dueTakes s) := frame_makeTakes.seq frame_setCin

/-! ### The S-port -/

theorem frame_releaseReads {s : State} : Frame [.wmu] s (releaseReads s) := frame_setWmu

theorem frame_releaseWrites {s : State} : Frame [.wmu] s (releaseWrites s) := frame_setWmu

theorem frame_putSWrite {n : Nat} {x : SWrite} {s : State} : Frame [.wmu] s (putSWrite n x s) := frame_setWmu

theorem frame_openWrite {h : TxnHdr} {p : WritePath} {s : State} : Frame [.serial, .wmu] s (openWrite h p s) :=
  frame_setSerial.trans frame_setWmu

theorem frame_requestSys {w : SWrite} {s : State} : Frame [.serial, .mpa] s (requestSys w s) := frame_requestM

theorem frame_forwardBeat {w : SWrite} {d : WData} {p : Bool} {s : State} :
    Frame [.wmu, .mpa, .serial] s (forwardBeat w d p s) := by
  unfold forwardBeat
  exact (Frame.ite (fun _ => Frame.refl) (fun _ => frame_requestSys)).seq frame_putSWrite

theorem frame_swallowBeat {w : SWrite} {d : WData} {s : State} : Frame [.wmu] s (swallowBeat w d s) := frame_putSWrite

theorem frame_answerCaptured {n : Nat} {s : State} : Frame [.wmu] s (answerCaptured n s) := by
  unfold answerCaptured
  split
  · exact Frame.ite (fun _ => frame_putSWrite) (fun _ => Frame.refl)
  · exact Frame.refl

theorem frame_enqueuePixels {ps : List Sample} {s : State} : Frame [.mge] s (enqueuePixels ps s) := frame_setMge

theorem frame_takeCapture {w : SWrite} {base : Nat} {b : WBeat} {s : State} :
    Frame [.mge, .wmu, .mpa, .serial] s (takeCapture w base b s) := by
  unfold takeCapture
  refine Frame.ite (fun _ => ?_) (fun _ => frame_forwardBeat.wide)
  exact (frame_enqueuePixels.trans (Frame.ite (c := [.wmu, .mpa, .serial]) (fun _ => frame_forwardBeat)
    (fun _ => frame_swallowBeat.wide))).seq frame_answerCaptured

theorem frame_takePage {w : SWrite} {b : WBeat} {s : State} :
    Frame takeFields s (takePage w b s) := (frame_dueTakes.trans frame_forwardBeat).seq frame_handBytes

theorem frame_lookAt {n : Fin 16} {b : WBeat} {s : State} : Frame monitorFields s (lookAt n b s) := by
  unfold lookAt
  split
  · exact frame_monitorAll
  · exact Frame.refl

theorem frame_takeMonitor {w : SWrite} {n : Fin 16} {b : WBeat} {s : State} :
    Frame (.wmu :: monitorFields) s (takeMonitor w n b s) := by
  unfold takeMonitor
  exact Frame.ite (fun _ => frame_forwardBeat.seq frame_lookAt) (fun _ => frame_forwardBeat.wide)

theorem frame_takeWhole {w : SWrite} {ds : List WData} {s : State} :
    Frame [.wmu, .mpa, .serial] s (takeWhole w ds s) := frame_requestSys.seq frame_putSWrite

theorem frame_takeIllegal {w : SWrite} {s : State} : Frame [.wmu] s (takeIllegal w s) := frame_putSWrite

/-- The fields a write beat may change. -/
abbrev beatFields : List Field := .freeIdx :: takeFields

theorem frame_takeBeat {w : SWrite} {b : WBeat} {s : State} : Frame beatFields s (takeBeat w b s) := by
  unfold takeBeat
  split
  · exact frame_takeCapture.wide
  · exact frame_takePage.wide
  · exact frame_takeMonitor.wide
  · exact frame_forwardBeat.wide
  · exact Frame.refl

theorem frame_takeItem {it : HeldItem} {s : State} : Frame beatFields s (takeItem it s) := by
  unfold takeItem
  repeat' split
  all_goals first
    | exact Frame.refl
    | exact frame_takeBeat
    | exact frame_takeWhole.wide
    | exact frame_takeIllegal.wide
    | exact frame_dueTakes.seq frame_handBytes

theorem frame_setHeld {l : List HeldItem} {s : State} : Frame [.wmu] s (setHeld l s) := frame_setWmu

theorem frame_stall {l : List HeldItem} {s : State} : Frame [.wmu, .rpu] s (stall l s) := frame_setHeld.seq frame_setLatch

theorem frame_drain {l : List HeldItem} {s : State} : Frame beatFields s (drain l s) := by
  induction l generalizing s with
  | nil => exact frame_setHeld.wide
  | cons it its ih =>
    unfold drain
    exact Frame.ite (fun _ => frame_dueTakes.seq frame_stall) (fun _ => (frame_dueTakes.trans frame_takeItem).seq ih)

theorem frame_offer {it : HeldItem} {s : State} : Frame beatFields s (offer it s) := by
  unfold offer
  exact Frame.ite (fun _ => (Frame.ite (c := beatFields) (fun _ => frame_stall.wide)
    (fun _ => frame_takeItem.seq frame_setHeld)).seq frame_releaseWrites) (fun _ => frame_setHeld.wide)

theorem frame_handAlone {o : Nat} {v : Byte} {s : State} : Frame beatFields s (handAlone o v s) := by
  unfold handAlone
  exact Frame.ite (fun _ => frame_takeItem) (fun _ => frame_setHeld.wide)

theorem frame_setCur {c : Option Nat} {s : State} : Frame [.wmu] s (setCur c s) := frame_setWmu

theorem frame_present {b : WBeat} {ours : WritePath → Bool} {s s' : State} {no : Nat}
    (h : present b ours s = some (no, s')) : Frame [.serial, .wmu] s s' := by
  unfold present at h
  split at h
  · cases h
  · split at h
    · dsimp only at h
      split at h
      · cases h; exact frame_openWrite.seq frame_setCur
      · cases h
    · split at h
      · split at h
        · cases h; exact frame_setCur.wide
        · cases h
      · cases h
    · cases h

theorem frame_beatStep {b : WBeat} {ours : WritePath → Bool} {s : State} : Frame beatFields s (beatStep b ours s) := by
  unfold beatStep
  split
  · exact (frame_present ‹_›).seq frame_offer
  · exact Frame.refl

theorem frame_openRead {h : TxnHdr} {p : ReadPath} {s : State} : Frame [.serial, .wmu] s (openRead h p s) :=
  frame_setSerial.trans frame_setWmu

theorem frame_putReadPath {n : Nat} {p : ReadPath} {s : State} : Frame [.wmu] s (putReadPath n p s) := frame_setWmu

theorem frame_passRead {h : TxnHdr} {s : State} : Frame [.wmu, .mpa, .serial] s (passRead h s) :=
  frame_openRead.seq frame_requestM

theorem frame_illegalRead {h : TxnHdr} {s : State} : Frame [.wmu, .serial] s (illegalRead h s) :=
  frame_openRead.seq frame_releaseReads

theorem frame_wholeWrite {h : TxnHdr} {p : WritePath} {it : Nat → HeldItem} {s : State} :
    Frame beatFields s (wholeWrite h p it s) := frame_openWrite.seq frame_offer

theorem frame_returnWrite {x n : Nat} {r : Resp} {s : State} : Frame [.wmu, .mpa] s (returnWrite x n r s) := by
  unfold returnWrite
  split
  · exact (frame_answered.trans frame_putSWrite).seq frame_releaseWrites
  · exact Frame.refl

/-! ### Rendered reads -/

theorem frame_readCells {c : Capt} {no b : Nat} {ps : List Nat} {s : State} :
    Frame [.mge, .serial, .mpa] s (readCells c no b ps s) := by
  induction ps generalizing s with
  | nil => exact Frame.refl
  | cons p ps ih => exact frame_beginAccess.seq ih

theorem frame_readBeats {c : Capt} {no b : Nat} {xs : List RenderBeat} {s : State} :
    Frame [.mge, .serial, .mpa] s (readBeats c no b xs s) := by
  induction xs generalizing b s with
  | nil => exact Frame.refl
  | cons x xs ih => exact frame_readCells.seq ih

theorem frame_renderRead {c : Capt} {h : TxnHdr} {s : State} : Frame [.wmu, .mge, .serial, .mpa] s (renderRead c h s) :=
  (frame_openRead.trans frame_readBeats).seq frame_releaseReads

theorem frame_answerCell {no b p : Nat} {w : BitVec 64} {e : Bool} {s : State} : Frame [.wmu] s (answerCell no b p w e s) := by
  unfold answerCell
  repeat' split
  all_goals first | exact Frame.refl | exact frame_putReadPath

end Sys2Proof.Machine
end

