-- ==== Sys2Proof/Laws/Intake.lean ====
section
/-! SUPPORT. What requests, a take, a completion and the start decision do, said once for the statements. -/
namespace Sys2Proof.Machine
set_option Elab.async false

/-! ### Requests -/

theorem OnlyRequests.refl (s : State) : OnlyRequests s s := ⟨[], [], [], [], by simp⟩

theorem OnlyRequests.trans {s t u : State} (h : OnlyRequests s t) (k : OnlyRequests t u) : OnlyRequests s u := by
  obtain ⟨a, b, c, d, h⟩ := h
  obtain ⟨a', b', c', d', k⟩ := k
  exact ⟨a ++ a', b ++ b', c ++ c', d ++ d', by simp [k, h]⟩

theorem OnlyRequests.of_eq {s t : State} (h : t.mpa = s.mpa) : OnlyRequests s t := ⟨[], [], [], [], by simp [h]⟩

/-- A request reaches the tail of its class's queue under the next number, and nothing else of the arbiter changes. -/
theorem requestM_mpa (k : MKind) (c : MClass) (w : Bool) (a n : Nat) (bs : List Byte) (s : State) :
    (requestM k c w a n bs s).mpa = s.mpa.enqueue ⟨s.serial, k, c, w, a, n, bs⟩ := rfl

@[simp] theorem requestM_serial (k : MKind) (c : MClass) (w : Bool) (a n : Nat) (bs : List Byte) (s : State) :
    (requestM k c w a n bs s).serial = s.serial + 1 := rfl

theorem onlyRequests_requestM (k : MKind) (c : MClass) (w : Bool) (a n : Nat) (bs : List Byte) (s : State) :
    OnlyRequests s (requestM k c w a n bs s) := by
  rw [OnlyRequests, requestM_mpa]
  cases c
  · exact ⟨[⟨s.serial, k, .note, w, a, n, bs⟩], [], [], [], by simp [Mpa.enqueue]⟩
  · exact ⟨[], [⟨s.serial, k, .sys, w, a, n, bs⟩], [], [], by simp [Mpa.enqueue]⟩
  · exact ⟨[], [], [⟨s.serial, k, .cell, w, a, n, bs⟩], [], by simp [Mpa.enqueue]⟩
  · exact ⟨[], [], [], [⟨s.serial, k, .bulk, w, a, n, bs⟩], by simp [Mpa.enqueue]⟩

theorem OnlyRequests.note {s t : State} (h : OnlyRequests s t) {x : MTxn} (hx : x ∈ s.mpa.note) : x ∈ t.mpa.note := by
  obtain ⟨a, b, c, d, h⟩ := h
  simp [h, hx]

theorem OnlyRequests.bulk {s t : State} (h : OnlyRequests s t) {x : MTxn} (hx : x ∈ s.mpa.bulk) : x ∈ t.mpa.bulk := by
  obtain ⟨a, b, c, d, h⟩ := h
  simp [h, hx]

theorem OnlyRequests.cell {s t : State} (h : OnlyRequests s t) {x : MTxn} (hx : x ∈ s.mpa.cell) : x ∈ t.mpa.cell := by
  obtain ⟨a, b, c, d, h⟩ := h
  simp [h, hx]

theorem OnlyRequests.granted {s t : State} (h : OnlyRequests s t) : t.mpa.granted = s.mpa.granted := by
  obtain ⟨a, b, c, d, h⟩ := h
  simp [h]

/-! ### Vectors -/

@[simp] theorem vget_vput_self {α : Type} {n : Nat} (v : Vector α n) (i : Fin n) (x : α) : vget (vput v i x) i = x := by
  simp [vget, vput]

theorem vget_vput_ne {α : Type} {n : Nat} (v : Vector α n) (i k : Fin n) (x : α) (h : k ≠ i) :
    vget (vput v i x) k = vget v k := by
  have : i.1 ≠ k.1 := fun e => h (Fin.ext e.symm)
  simp [vget, vput, this]

theorem vput_vput {α : Type} {n : Nat} (v : Vector α n) (i : Fin n) (x y : α) : vput (vput v i x) i y = vput v i y := by
  simp [vput]

theorem vput_self {α : Type} {n : Nat} (v : Vector α n) (i : Fin n) : vput v i (vget v i) = v := by
  simp [vput, vget]

/-! ### The take and the completion -/

/-- The take, whole (R168). -/
theorem openSlot_taken (n : Fin 8) (s : State) : TakenNow n s (openSlot n s) ∧ OnlyRequests s (openSlot n s) ∧
    (openSlot n s).cin.long = s.cin.long ∧ (openSlot n s).cin.waits = s.cin.waits ∧
    (openSlot n s).serial = s.serial + 1 := by
  refine ⟨⟨rfl, rfl, ?_, ?_, ?_⟩, ?_, rfl, rfl, rfl⟩
  · exact vget_vput_self ..
  · intro m hm; exact vget_vput_ne _ _ _ _ hm
  · exact List.mem_append_right _ (List.mem_singleton.2 rfl)
  · exact onlyRequests_requestM ..

/-- What requesting the DONE writes that may go leaves alone, and that it only adds NOTE requests. -/
theorem pumpWaits_spec (ks ds : List DoneWait) (s : State) :
    (pumpWaits ks ds s).2.cin = s.cin ∧ OnlyRequests s (pumpWaits ks ds s).2 ∧
    (pumpWaits ks ds s).2.mpa.bulk = s.mpa.bulk ∧ (pumpWaits ks ds s).2.mpa.cell = s.mpa.cell ∧
    (pumpWaits ks ds s).2.mpa.sys = s.mpa.sys ∧
    (∀ k ∈ ks, k ∈ (pumpWaits ks ds s).1) ∧
    (∀ d ∈ ds, (cmdSlot s d.slot).takenWait = true → d ∈ (pumpWaits ks ds s).1) ∧
    (∀ d ∈ ds, (cmdSlot s d.slot).takenWait = false → d.after = [] → ∃ x ∈ (pumpWaits ks ds s).2.mpa.note,
      x.kind = .done d.slot d.res (cmdSlot s d.slot).late ∧ x.write = true ∧ x.addr = pageBase s + 64 * d.slot.1 ∧
      x.len = 8 ∧ x.bytes = doneBytes d.res (cmdSlot s d.slot).late) := by
  induction ds generalizing ks s with
  | nil => exact ⟨rfl, OnlyRequests.refl s, rfl, rfl, rfl, fun k hk => hk, by simp, by simp⟩
  | cons d ds ih =>
    unfold pumpWaits
    split
    · rename_i hc
      obtain ⟨h1, h2, h3, h4, h5, h6, h7, h8⟩ := ih (ks ++ [d]) s
      refine ⟨h1, h2, h3, h4, h5, fun k hk => h6 k (List.mem_append_left _ hk), ?_, ?_⟩
      · intro e he ht
        cases List.mem_cons.1 he with
        | inl he => subst he; exact h6 _ (List.mem_append_right _ (List.mem_singleton.2 rfl))
        | inr he => exact h7 e he ht
      · intro e he ht ha
        cases List.mem_cons.1 he with
        | inl he => subst he; simp [ht, ha] at hc
        | inr he => exact h8 e he ht ha
    · rename_i hc
      obtain ⟨h1, h2, h3, h4, h5, h6, h7, h8⟩ := ih ks (requestDone d.slot d.res s)
      have hf := frame_requestDone (n := d.slot) (r := d.res) (s := s)
      have hs : ∀ m, cmdSlot (requestDone d.slot d.res s) m = cmdSlot s m := fun m => by simp only [cmdSlot, hf.cin]
      have hp : pageBase (requestDone d.slot d.res s) = pageBase s := by simp only [pageBase, hf.wmu]
      refine ⟨h1.trans hf.cin, (onlyRequests_requestM ..).trans h2, h3, h4, h5, h6, ?_, ?_⟩
      · intro e he ht
        cases List.mem_cons.1 he with
        | inl he => subst he; simp [ht] at hc
        | inr he => exact h7 e he (by rw [hs]; exact ht)
      · intro e he ht ha
        cases List.mem_cons.1 he with
        | inl he =>
          subst he
          exact ⟨_, h2.note (List.mem_append_right _ (List.mem_singleton.2 rfl)), rfl, rfl, rfl, rfl, rfl⟩
        | inr he =>
          have := h8 e he (by rw [hs]; exact ht) ha
          rw [hs, hp] at this
          exact this

/-- An event of R168 changes only whether a take is due, which the choice does not read. -/
@[simp] theorem takable_takeEvent (s : State) : takable (takeEvent s) = takable s := rfl

theorem takeJudged_takeEvent (s : State) : TakeJudged (takeEvent s) := rfl

/-- With nothing queued an event makes no take due. -/
theorem takable_nil {s : State} (h : s.cin.queue = []) : takable s = none := by simp [takable, chosen, h]

/-- Which of the DONE writes that wait still wait, those kept before them given: one whose own TAKEN write has not been answered,
and one that follows a write kept (R169, R174). -/
def keptOf (waiting : DoneWait → Bool) : List DoneWait → List DoneWait → List Bool
  | _, [] => []
  | kept, d :: ds =>
    let k := waiting d || kept.any (fun e => d.after.contains e.slot)
    k :: keptOf waiting (if k then kept ++ [d] else kept) ds

theorem keptOf_length (w : DoneWait → Bool) (kept ds : List DoneWait) : (keptOf w kept ds).length = ds.length := by
  induction ds generalizing kept with
  | nil => rfl
  | cons d ds ih => simp [keptOf, ih]

theorem keptOf_spec (w : DoneWait → Bool) (kept ds : List DoneWait) : ∀ (i : Nat) (d : DoneWait), ds[i]? = some d →
    ((keptOf w kept ds)[i]? = some true ↔ w d = true ∨ (∃ e ∈ kept, e.slot ∈ d.after) ∨
      ∃ (j : Nat) (e : DoneWait), j < i ∧ ds[j]? = some e ∧ (keptOf w kept ds)[j]? = some true ∧ e.slot ∈ d.after) := by
  induction ds generalizing kept with
  | nil => intro i d h; simp at h
  | cons x xs ih =>
    intro i d h
    cases i with
    | zero =>
      simp at h; subst h
      simp [keptOf]
    | succ i =>
      have := ih (if (w x || kept.any (fun e => x.after.contains e.slot)) then kept ++ [x] else kept) i d (by simpa using h)
      simp only [keptOf, List.getElem?_cons_succ]
      rw [this]
      constructor
      · rintro (hx | ⟨e, he, hx⟩ | ⟨j, e, hj, h1, h2, h3⟩)
        · exact .inl hx
        · split at he
          · rename_i hk
            rcases List.mem_append.1 he with he | he
            · exact .inr (.inl ⟨e, he, hx⟩)
            · simp at he; subst he
              exact .inr (.inr ⟨0, e, by omega, by simp, by simp only [List.getElem?_cons_zero]; rw [hk], hx⟩)
          · exact .inr (.inl ⟨e, he, hx⟩)
        · exact .inr (.inr ⟨j + 1, e, by omega, by simpa using h1, by simpa using h2, h3⟩)
      · rintro (h | ⟨e, he, h⟩ | ⟨j, e, hj, h1, h2, h3⟩)
        · exact .inl h
        · exact .inr (.inl ⟨e, by split <;> simp [he], h⟩)
        · cases j with
          | zero =>
            simp at h1 h2; subst h1
            refine .inr (.inl ⟨x, ?_, h3⟩)
            rw [if_pos (by simpa using h2)]; simp
          | succ j => exact .inr (.inr ⟨j, e, by omega, by simpa using h1, by simpa using h2, h3⟩)

/-- Pumping the DONE writes, whole: those kept wait on, and the others are requested in order (R169, R174, log 38). -/
theorem pumpWaits_kept (w : DoneWait → Bool) (kept ds : List DoneWait) (s : State)
    (hw : ∀ d ∈ ds, (cmdSlot s d.slot).takenWait = w d) :
    (pumpWaits kept ds s).1 = kept ++ ((ds.zip (keptOf w kept ds)).filter Prod.snd).map Prod.fst ∧
    (pumpWaits kept ds s).2.mpa.note = s.mpa.note ++
      (((ds.zip (keptOf w kept ds)).filter fun p => !p.2).map Prod.fst).mapIdx fun k e =>
        ⟨s.serial + k, .done e.slot e.res (cmdSlot s e.slot).late, .note, true, pageBase s + 64 * e.slot.1, 8,
          doneBytes e.res (cmdSlot s e.slot).late⟩ := by
  induction ds generalizing kept s with
  | nil => simp [pumpWaits, keptOf]
  | cons d ds ih =>
    have hd := hw d (by simp)
    unfold pumpWaits
    split
    · rename_i hc
      rw [hd] at hc
      obtain ⟨h1, h2⟩ := ih (kept ++ [d]) s (fun e he => hw e (by simp [he]))
      simp only [keptOf, hc, if_true, List.zip_cons_cons, List.filter_cons, Bool.not_true, Bool.false_eq_true, if_false]
      refine ⟨by rw [h1]; simp, h2⟩
    · rename_i hc
      rw [hd] at hc
      have hc : (w d || kept.any fun e => d.after.contains e.slot) = false := by simpa using hc
      have hf := frame_requestDone (n := d.slot) (r := d.res) (s := s)
      have hs : ∀ m, cmdSlot (requestDone d.slot d.res s) m = cmdSlot s m := fun m => by simp only [cmdSlot, hf.cin]
      have hp : pageBase (requestDone d.slot d.res s) = pageBase s := by simp only [pageBase, hf.wmu]
      obtain ⟨h1, h2⟩ := ih kept (requestDone d.slot d.res s) (fun e he => by rw [hs]; exact hw e (by simp [he]))
      simp only [keptOf, hc, if_false, List.zip_cons_cons, List.filter_cons, Bool.not_false, Bool.false_eq_true, if_true]
      refine ⟨h1, ?_⟩
      rw [h2]
      simp only [hs, hp]
      have hn : (requestDone d.slot d.res s).mpa.note = s.mpa.note ++ [⟨s.serial, .done d.slot d.res (cmdSlot s d.slot).late, .note, true, pageBase s + 64 * d.slot.1, 8,
          doneBytes d.res (cmdSlot s d.slot).late⟩] := rfl
      have hser : (requestDone d.slot d.res s).serial = s.serial + 1 := rfl
      rw [hn, hser]
      simp [List.mapIdx_cons, Nat.add_assoc, Nat.add_comm 1]

/-- A completion, whole (R169). -/
theorem complete_spec (n : Fin 8) (r : Result) (s : State) :
    (complete n r s).cin =
      { s.cin with waits := (complete n r s).cin.waits, takeDue := (takable (complete n r s)).isSome } ∧
    OnlyRequests s (complete n r s) ∧
    (complete n r s).mpa.bulk = s.mpa.bulk ∧ (complete n r s).mpa.cell = s.mpa.cell ∧
    (complete n r s).mpa.sys = s.mpa.sys ∧
    ((cmdSlot s n).takenWait = true → ⟨n, r, []⟩ ∈ (complete n r s).cin.waits) ∧
    ((cmdSlot s n).takenWait = false → ∃ x ∈ (complete n r s).mpa.note,
      x.kind = .done n r (cmdSlot s n).late ∧ x.write = true ∧ x.addr = pageBase s + 64 * n.1 ∧ x.len = 8 ∧
      x.bytes = doneBytes r (cmdSlot s n).late) := by
  obtain ⟨h1, h2, h3, h4, h5, _, h7, h8⟩ :=
    pumpWaits_spec [] (s.cin.waits ++ [⟨n, r, []⟩]) (setWaits (s.cin.waits ++ [⟨n, r, []⟩]) s)
  refine ⟨?_, h2, h3, h4, h5, ?_, ?_⟩
  · simp only [complete, takable_takeEvent]
    simp only [takeEvent, pumpDone, setWaits, State.setCin_cin] at h1 ⊢
    rw [h1]
  · intro ht
    exact h7 ⟨n, r, []⟩ (List.mem_append_right _ (List.mem_singleton.2 rfl)) ht
  · intro ht
    exact h8 ⟨n, r, []⟩ (List.mem_append_right _ (List.mem_singleton.2 rfl)) ht rfl

/-- A command that has been taken, and whose effect left the intake and the NOTE requests standing, completes. -/
theorem completes_of_taken {n : Fin 8} {r : Result} {s u : State} (h : TakenNow n s u)
    (hl : u.cin.long = s.cin.long) : Completes n r s (complete n r u) := by
  obtain ⟨h1, h2, -, -, -, h6, -⟩ := complete_spec n r u
  obtain ⟨a, b, c, d, e⟩ := h
  have hs : ∀ m, cmdSlot (complete n r u) m = cmdSlot u m := fun m => by rw [cmdSlot, h1]; rfl
  refine ⟨⟨by rw [h1]; exact a, by rw [h1]; exact b, by rw [hs]; exact c, fun m hm => by rw [hs]; exact d m hm,
    h2.note e⟩, by rw [h1]; exact hl, h6 (by rw [c]), takeJudged_takeEvent _⟩

/-- A taken state stays taken under changes that leave the intake alone and withdraw no NOTE request. -/
theorem TakenNow.keep {n : Fin 8} {s u v : State} (h : TakenNow n s u) (hc : v.cin = u.cin)
    (hn : ∀ x ∈ u.mpa.note, x ∈ v.mpa.note) : TakenNow n s v := by
  obtain ⟨a, b, c, d, e⟩ := h
  refine ⟨by rw [hc]; exact a, by rw [hc]; exact b, ?_, ?_, hn _ e⟩
  · rw [cmdSlot, hc]; exact c
  · intro m hm; rw [cmdSlot, hc]; exact d m hm

/-- A command that ends after a while (R169). -/
theorem doneFollows_complete {n : Fin 8} {r : Result} {s u : State} (hs : u.cin.slots = s.cin.slots)
    (hw : u.wmu.windows = s.wmu.windows) (hl : u.cin.long = none) : DoneFollows n r s (complete n r u) := by
  obtain ⟨h1, -, -, -, -, h6, h7⟩ := complete_spec n r u
  have hc : cmdSlot u n = cmdSlot s n := by simp only [cmdSlot, hs]
  have hp : pageBase u = pageBase s := by simp only [pageBase, hw]
  rw [hc] at h6 h7; rw [hp] at h7
  exact ⟨by rw [h1]; exact hl, takeJudged_takeEvent _, h6, h7⟩

/-- A take of the slot's own command runs its body. -/
theorem takeCmd_of {c : Option Cmd} {body : Taken → State → State} {s : State} {n : Fin 8} (ht : takes s = some n)
    (hc : cmdOf s n = c) : takeCmd c body s = body (takenOf s n) (openSlot n s) := by
  simp [takeCmd, ht, hc]

/-- A take needs room and no command in execution, or a LOAD_JOB in execution (R168). -/
theorem takes_room {s : State} {n : Fin 8} (h : takes s = some n) :
    roomFor (cmdOf s n) ≤ s.free ∧ idleFor s n = true ∧ n ∈ s.cin.queue := by
  have h : takable s = some n := by
    unfold takes at h
    split at h
    · exact h
    · cases h
  unfold takable at h
  split at h
  · rename_i m hm
    split at h
    · rename_i hc
      cases h
      simp only [Bool.and_eq_true, decide_eq_true_eq] at hc
      refine ⟨hc.2, hc.1, ?_⟩
      unfold chosen at hm
      split at hm
      · rename_i k hk; cases hm; exact List.mem_of_find?_eq_some hk
      · exact List.mem_of_mem_head? hm
    · cases h
  · cases h

/-! ### Commands leave the shadow as it stands (R165) -/

theorem pumpDone_shadow (s : State) : (pumpDone s).cin.shadow = s.cin.shadow := by
  have h := (pumpWaits_spec [] s.cin.waits s).1
  simp only [pumpDone, setWaits, State.setCin_cin, h]

theorem complete_shadow (n : Fin 8) (r : Result) (s : State) : (complete n r s).cin.shadow = s.cin.shadow := by
  rw [(complete_spec n r s).1]

/-- A command that answers at once, and whose effect leaves the intake alone, keeps the shadow. -/
theorem answer_shadow {t : Taken} {r : Result} {f : State → State} {s : State} (h : (f s).cin = s.cin) :
    (answer t r f s).cin.shadow = s.cin.shadow := by
  unfold answer
  rw [complete_shadow]
  split
  · rw [h]
  · rfl

theorem runDefineArea_shadow (t : Taken) (s : State) : (runDefineArea t s).cin.shadow = s.cin.shadow := by
  unfold runDefineArea
  dsimp only
  split
  · split
    · split
      · exact answer_shadow rfl
      · exact answer_shadow rfl
    · exact complete_shadow ..
  · exact complete_shadow ..

theorem reportsKick_shadow (s : State) : (reportsKick s).cin.shadow = s.cin.shadow := by
  unfold reportsKick
  split
  · split <;> rfl
  · rfl

theorem storeNext_shadow (s : State) : (storeNext s).cin.shadow = s.cin.shadow := by
  unfold storeNext
  split
  · dsimp only
    split <;> rfl
  · rfl

theorem openAll_shadow (ns : List (Fin 8)) (s : State) : (openAll ns s).cin.shadow = s.cin.shadow := by
  induction ns generalizing s with
  | nil => rfl
  | cons n ns ih => exact (ih _).trans rfl

theorem runResetPart_shadow (t : Taken) (s : State) : (runResetPart t s).cin.shadow = s.cin.shadow := by
  unfold runResetPart softIntake
  dsimp only
  rw [pumpDone_shadow]
  simp only [setWaits, State.setCin_cin, openAll_shadow]
  rw [frame_softBlocks.cin]

theorem runHold_shadow (t : Taken) (s : State) : (runHold t s).cin.shadow = s.cin.shadow := by
  unfold runHold finishHold
  dsimp only
  split
  · exact complete_shadow ..
  · split
    · rfl
    · rw [complete_shadow]
      simp only [setLong, State.setCin_cin]
      rw [frame_holdEntry.cin]
      rfl

/-- No command of the command page changes the shadow (R165). -/
theorem runCmd_shadow (c : Option Cmd) (t : Taken) (s : State) : (runCmd c t s).cin.shadow = s.cin.shadow := by
  unfold runCmd
  split
  · exact answer_shadow rfl
  · exact answer_shadow rfl
  · exact answer_shadow rfl
  · exact answer_shadow frame_setWindowNow.cin
  · exact answer_shadow frame_clearWindowNow.cin
  · exact answer_shadow frame_setMatchNow.cin
  · exact runDefineArea_shadow ..
  · unfold runSetReports
    dsimp only
    split
    · exact reportsKick_shadow _
    · exact complete_shadow ..
  · unfold runFlatStore
    dsimp only
    split
    · exact storeNext_shadow _
    · exact complete_shadow ..
  · unfold runFlatFetch
    dsimp only
    split
    · rfl
    · exact complete_shadow ..
  · exact answer_shadow rfl
  · exact answer_shadow frame_runEntry.cin
  · exact runHold_shadow ..
  · exact answer_shadow frame_arm.cin
  · exact answer_shadow frame_snapNow.cin
  · exact runResetPart_shadow ..
  · unfold runLoadJob
    dsimp only
    split
    · rfl
    · exact complete_shadow ..
  · unfold runAbortJob
    split
    · exact answer_shadow frame_abortSlot.cin
    · exact complete_shadow ..
  · unfold runReleaseJob
    split
    · exact answer_shadow ((frame_putSlot.trans frame_setAtb).seq (c := startFields) frame_startDecision).cin
    · exact complete_shadow ..
  · exact complete_shadow ..

/-- The takes that are due leave the shadow as it stands (R165, R188). -/
theorem dueTakes_shadow (s : State) : (dueTakes s).cin.shadow = s.cin.shadow := by
  change (makeTakes s.cin.queue.length s).cin.shadow = s.cin.shadow
  generalize s.cin.queue.length = k
  induction k generalizing s with
  | zero => rfl
  | succ k ih =>
    unfold makeTakes
    split
    · exact (ih _).trans ((runCmd_shadow ..).trans rfl)
    · rfl

/-! ### The start decision -/

/-- The start decision leaves the intake, the reports and the NOTE requests alone, and its requests are tails. -/
theorem onlyRequests_startDecision (s : State) : OnlyRequests s (startDecision s) := by
  have sweep : ∀ t : State, OnlyRequests t (sweepKick t) := by
    intro t
    unfold sweepKick
    split
    · dsimp only
      split
      · exact OnlyRequests.trans (t := requestSweep _ 0 t) (onlyRequests_requestM ..) (OnlyRequests.of_eq rfl)
      · exact OnlyRequests.refl t
    · exact OnlyRequests.refl t
  have gen : ∀ (i n : Fin 4) (t : State), OnlyRequests t (generationStep i n t) := by
    intro i n t
    unfold generationStep
    dsimp only
    split
    · exact OnlyRequests.of_eq (frame_tookGeneration.mpa.trans rfl)
    · exact sweep _
  have plate : ∀ (i : Fin 4) (j : JobRecord) (t : State), OnlyRequests t (plateStarting i j t) := by
    intro i j t
    unfold plateStarting
    dsimp only
    split
    · exact OnlyRequests.of_eq (frame_failDue.mpa.trans rfl)
    · split
      · exact OnlyRequests.of_eq (frame_failDue.mpa.trans rfl)
      · exact (OnlyRequests.of_eq rfl).trans (gen ..)
  unfold startDecision
  split
  · unfold enterStarting
    dsimp only
    split
    · split
      · exact (OnlyRequests.of_eq rfl).trans (plate ..)
      · exact OnlyRequests.of_eq (frame_flatStarting.mpa.trans rfl)
    · exact OnlyRequests.of_eq rfl
  · exact OnlyRequests.refl s

end Sys2Proof.Machine
end

