-- ==== Sys2Proof/Laws/CellPort.lean ====
section
/-! SUPPORT. What the operations of the cell port and the stopping of a sweep do, said once for the statements. -/
namespace Sys2Proof.Machine
set_option Elab.async false

/-! ### Accesses that may go -/

/-- Whether an access may go looks at where the accesses before it lie and which are merges, not at how far they have come. -/
theorem mayGo_congr {ds es : List CellAcc} (a : CellAcc)
    (h : ds.map (fun d => (d.isMerge, d.addr, d.len)) = es.map fun d => (d.isMerge, d.addr, d.len)) :
    a.mayGo ds = a.mayGo es := by
  have key : ∀ l : List CellAcc, a.mayGo l = (decide (a.stage = .waiting) &&
      (l.map fun d => (d.isMerge, d.addr, d.len)).all fun x =>
        !((x.1 || a.isMerge) && decide (x.2.1 < a.addr + a.len) && decide (a.addr < x.2.1 + x.2.2))) := by
    intro l
    unfold CellAcc.mayGo
    by_cases hs : a.stage = .waiting
    · rw [Bool.eq_iff_iff]
      simp only [hs, true_and, decide_true, Bool.true_and, decide_eq_true_eq, List.all_map, List.all_eq_true]
      refine forall_congr' fun d => forall_congr' fun _ => ?_
      by_cases h1 : d.addr < a.addr + a.len <;> by_cases h2 : a.addr < d.addr + d.len <;>
        cases h3 : d.isMerge <;> cases a.isMerge <;> simp [h1, h2, h3]
    · simp [hs]
  rw [key, key, h]

/-- The pump's own test is that of `mayGo`. -/
theorem mayGo_eq (ds : List CellAcc) (a : CellAcc) : (a.stage == .waiting && !blockedBy ds a) = a.mayGo ds := by
  unfold CellAcc.mayGo blockedBy overlaps
  rw [Bool.eq_iff_iff]
  simp

/-! ### The pump -/

/-- The pump's list and its requests: the port from `as` on, and the reads of those that may go (R4). -/
theorem pumpList_spec (ds es as : List CellAcc) (s : State)
    (h : ds.map (fun d => (d.isMerge, d.addr, d.len)) = es.map fun d => (d.isMerge, d.addr, d.len)) :
    (pumpList ds as s).1 = ds ++ portFrom es as ∧
    (pumpList ds as s).2.mpa = { s.mpa with
      cell := s.mpa.cell ++ (goersFrom es as).mapIdx (fun k a => ⟨s.serial + k, .cellRead a.no, .cell, false, a.addr, a.len, []⟩) } ∧
    (pumpList ds as s).2.serial = s.serial + (goersFrom es as).length := by
  induction as generalizing ds es s with
  | nil => simp [pumpList, portFrom, goersFrom]
  | cons a as ih =>
    unfold pumpList portFrom goersFrom
    rw [mayGo_eq, mayGo_congr a h]
    split
    · rename_i hg
      obtain ⟨h1, h2, h3⟩ := ih (ds ++ [{ a with stage := .reading }]) (es ++ [a])
        (requestM (.cellRead a.no) .cell false a.addr a.len [] s) 
        (by rw [List.map_append, List.map_append, h]; rfl)
      refine ⟨by rw [h1]; simp, ?_, ?_⟩
      · rw [h2, requestM_mpa]
        simp [Mpa.enqueue, List.mapIdx_cons, Nat.add_comm, Nat.add_left_comm]
      · rw [h3, requestM_serial, List.length_append, List.length_singleton, Nat.add_assoc]
    · obtain ⟨h1, h2, h3⟩ := ih (ds ++ [a]) (es ++ [a]) s (by simp [h])
      exact ⟨by rw [h1]; simp, by rw [h2]; simp, by rw [h3]; simp⟩

/-- The pump, whole (R4). -/
theorem pumpPort_spec (s : State) : PortGoesOn s.mge.port s.mpa s.serial (pumpPort s) ∧
    (pumpPort s).mge = { s.mge with port := portOn s.mge.port } ∧ Frame [.mge, .mpa, .serial] s (pumpPort s) := by
  obtain ⟨h1, h2, h3⟩ := pumpList_spec [] [] s.mge.port s rfl
  have hm := (frame_pumpList (ds := []) (as := s.mge.port) (s := s)).mge
  refine ⟨⟨h1, h2, ?_⟩, ?_, frame_pumpPort.wide⟩
  · simp only [readsOf, List.length_mapIdx]; exact h3
  · simp only [pumpPort, setPort, State.setMge_mge, h1, hm]; rfl

/-- A new access, whole: it joins the port at the tail, and those that may go have come to their reads (R4). -/
theorem beginAccess_spec (u : CellUse) (a n : Nat) (s : State) :
    PortGoesOn (s.mge.port ++ [⟨s.serial, a, n, u, .waiting⟩]) s.mpa (s.serial + 1) (beginAccess u a n s) ∧
    (beginAccess u a n s).mge = { s.mge with port := portOn (s.mge.port ++ [⟨s.serial, a, n, u, .waiting⟩]) } := by
  obtain ⟨h1, h2, -⟩ := pumpPort_spec
    (setPort (s.mge.port ++ [⟨s.serial, a, n, u, .waiting⟩]) (s.setSerial (s.serial + 1)))
  exact ⟨h1, h2⟩

/-- The end of an access, whole: those that waited for it go on (R4). -/
theorem endAccess_spec (n : Nat) (s : State) :
    PortGoesOn (s.mge.port.filter fun a => a.no != n) s.mpa s.serial (endAccess n s) ∧
    (endAccess n s).mge = { s.mge with port := portOn (s.mge.port.filter fun a => a.no != n) } := by
  obtain ⟨h1, h2, -⟩ := pumpPort_spec (setPort (s.mge.port.filter fun a => a.no != n) s)
  exact ⟨h1, h2⟩

/-- Where nothing may go, the port stands. -/
theorem portFrom_of_none (es as : List CellAcc) (h : goersFrom es as = []) : portFrom es as = as := by
  induction as generalizing es with
  | nil => rfl
  | cons a as ih =>
    unfold goersFrom at h
    unfold portFrom
    have hg : ¬ a.mayGo es = true := by intro hg; simp [hg] at h
    simp only [hg] at h ⊢
    exact congrArg _ (ih _ (by simpa using h))

/-- The accesses of a port keep their numbers as their reads go. -/
theorem portFrom_no (es as : List CellAcc) : (portFrom es as).map CellAcc.no = as.map CellAcc.no := by
  induction as generalizing es with
  | nil => rfl
  | cons a as ih =>
    unfold portFrom
    rw [List.map_cons, List.map_cons, ih]
    split <;> rfl

/-- An access that stands at its read after the pump stood there before, or is one whose read may go. -/
theorem portFrom_reading (es as : List CellAcc) : ∀ a ∈ portFrom es as, a.stage = .reading →
    (∃ d ∈ as, d.no = a.no ∧ d.stage = .reading) ∨
    ∃ d ∈ goersFrom es as, d.no = a.no ∧ d.addr = a.addr ∧ d.len = a.len := by
  induction as generalizing es with
  | nil => intro a h; cases h
  | cons b as ih =>
    intro a ha hr
    unfold portFrom at ha
    unfold goersFrom
    cases List.mem_cons.1 ha with
    | inl h =>
      subst h
      by_cases hg : b.mayGo es = true
      · simp only [hg, if_true]
        exact .inr ⟨b, by simp, rfl, rfl, rfl⟩
      · simp only [hg] at hr ⊢
        exact .inl ⟨b, by simp, rfl, hr⟩
    | inr h =>
      obtain ⟨d, hd, h1⟩ | ⟨d, hd, h1⟩ := ih _ a h hr
      · exact .inl ⟨d, List.mem_cons_of_mem _ hd, h1⟩
      · exact .inr ⟨d, List.mem_append_right _ hd, h1⟩

/-- Where the port goes on, every access that comes to its read has had it requested (R4, R161). -/
theorem PortGoesOn.requested {p : List CellAcc} {m : Mpa} {n : Nat} {t : State} (h : PortGoesOn p m n t) :
    ∀ a ∈ t.mge.port, a.stage = .reading → (∃ d ∈ p, d.no = a.no ∧ d.stage = .reading) ∨
      ∃ x ∈ t.mpa.cell, x.kind = .cellRead a.no ∧ x.write = false ∧ x.addr = a.addr ∧ x.len = a.len := by
  intro a ha hr
  rw [h.1] at ha
  obtain hd | ⟨d, hd, h1, h2, h3⟩ := portFrom_reading _ _ a ha hr
  · exact .inl hd
  · obtain ⟨k, hk, rfl⟩ := List.mem_iff_getElem.1 hd
    refine .inr ⟨⟨n + k, .cellRead _, .cell, false, _, _, []⟩, ?_, by rw [← h1], rfl, by rw [← h2], by rw [← h3]⟩
    rw [h.2.1]
    exact List.mem_append_right _ (List.mem_mapIdx.2 ⟨k, hk, rfl⟩)

/-- In a port kept in order, nothing may go: each access waits exactly where it must (R4). -/
theorem goers_of_inOrder {s : State} (h : PortInOrder s) : goersFrom [] s.mge.port = [] := by
  suffices H : ∀ as es, s.mge.port = es ++ as → goersFrom es as = [] from H _ [] rfl
  intro as
  induction as with
  | nil => intro es _; rfl
  | cons a as ih =>
    intro es hp
    unfold goersFrom
    have hn : a.mayGo es = false := by
      unfold CellAcc.mayGo
      rw [decide_eq_false_iff_not]
      rintro ⟨hw, hc⟩
      obtain ⟨d, hd, hk⟩ := (h es a as hp).1 hw
      exact hc d hd hk
    simp only [hn]
    exact ih _ (by simp [hp])

/-- In a port kept in order, the pump changes nothing. -/
theorem portOn_of_inOrder {s : State} (h : PortInOrder s) : portOn s.mge.port = s.mge.port :=
  portFrom_of_none _ _ (goers_of_inOrder h)

/-! ### Stopping -/

/-- A stopped issuer's requests are withdrawn, and its granted transactions are left to be absorbed (R163). -/
theorem stop_eq (m : Mpa) (p : MTxn → Bool) : m.stop p = m.issuerStopped p := rfl

theorem isSweep_eq : isSweep = fun x => decide (x.kind = .sweep) := by
  funext x; rw [Bool.eq_iff_iff]; simp [isSweep]

theorem isScan_eq (a : CellAcc) : a.isScan = decide (a.use = .scan) := by
  unfold CellAcc.isScan; split <;> simp_all

/-- The same arbiter, with no NOTE request added. -/
theorem NotesAdded.of_eq {m m' : Mpa} (h : m' = m) : NotesAdded m m' := ⟨[], by simp [h]⟩

theorem isScanRead_eq (p : List CellAcc) : isScanRead p = scanRead p := by
  funext x
  unfold isScanRead scanRead
  split
  · rename_i n h
    refine congrArg (List.any p) (funext fun a => ?_)
    rw [Bool.eq_iff_iff, h, isScan_eq, Bool.and_eq_true, beq_iff_eq, decide_eq_true_eq, decide_eq_true_eq,
      MKind.cellRead.injEq, and_comm, eq_comm (a := a.no)]
  · rename_i h
    symm
    simp only [List.any_eq_false, decide_eq_true_eq, not_and]
    exact fun a _ _ => h a.no

/-- The stop of a sweep, whole (R13). -/
theorem stopSweep_spec (s : State) : SweepStopped s (stopSweep s) := by
  refine ⟨fun w hw => ?_, fun hw => ?_⟩
  · refine ⟨?_, NotesAdded.of_eq ?_⟩
    · simp only [stopSweep, hw]; rfl
    · simp only [stopSweep, hw, ← isSweep_eq]; rfl
  · have h : stopSweep s = s := by simp only [stopSweep, hw]
    rw [h]
    exact ⟨rfl, NotesAdded.of_eq rfl⟩

/-- The stop of the finish scan, whole (R99). -/
theorem stopScan_spec (s : State) : ScanStopped s (stopScan s) ∧
    (stopScan s).mge = { s.mge with port := portOn (notScan s.mge.port) } := by
  have hp : s.mge.port.filter (fun a => !a.isScan) = notScan s.mge.port := by
    unfold notScan; exact congrArg (List.filter · _) (funext fun a => by rw [isScan_eq, decide_not])
  obtain ⟨⟨h1, h2, -⟩, h4, h3⟩ := pumpPort_spec (setPort (s.mge.port.filter fun a => !a.isScan)
    ((stopIssuer (isScanRead s.mge.port) s).setScan Scan.idle))
  rw [← hp]
  refine ⟨⟨h3.scan, ?_, s.serial, NotesAdded.of_eq ?_⟩, h4⟩
  · rw [← hp]; exact h1
  · rw [← isScanRead_eq, ← stop_eq, ← hp]; exact h2

/-- Leaving the merges to go on unhanded, whole (R30). -/
theorem unhandMerges_port (s : State) : (unhandMerges s).mge = { s.mge with port := s.mge.port.map CellAcc.unhanded } := rfl

end Sys2Proof.Machine
end

