-- ==== Sys2Proof/Laws/Ranges.lean ====
section
/-! SUPPORT. The range checks of the commands, the window look-up and the cell port's order as the statements say them (R4, R8,
R152, R153, R156, R177). -/
namespace Sys2Proof.Machine

theorem overlaps_iff {a n b m : Nat} : overlaps a n b m = true ↔ a < b + m ∧ b < a + n := by
  simp [overlaps]

/-- Every window number stands in the list the look-ups run over. -/
theorem mem_sixteen (i : Fin 16) : i ∈ sixteen := by revert i; decide

/-- Every slot and area number stands in the list the look-ups run over. -/
theorem mem_four (i : Fin 4) : i ∈ four := by revert i; decide

/-- A range that hits no window is clear of the windows (R8, R153). -/
theorem clearOfWindows_of {s : State} {e : Option (Fin 16)} {base size : Nat}
    (h : hitsWindow s e base size = false) : ClearOfWindows s e base size := by
  intro i w hi hw ho
  have h1 := List.any_eq_false.mp h i (mem_sixteen i)
  simp [hw, hi, overlaps, ho.1, ho.2] at h1

/-- A range that hits no area is clear of the areas (R8, R153). -/
theorem clearOfAreas_of {s : State} {e : Option (Fin 4)} {base size : Nat}
    (h : hitsArea s e base size = false) : ClearOfAreas s e base size := by
  intro i hi hd ho
  have h1 := List.any_eq_false.mp h i (mem_four i)
  simp [hi, hd, overlaps, ho.1, ho.2] at h1

/-- A range that does not hit the ring is clear of it (R8, R88). -/
theorem clearOfRing_of {s : State} {base size : Nat} (h : hitsRing s base size = false) : ClearOfRing s base size := by
  intro r hr ho
  simp [hitsRing, hr, overlaps, Config.ringBytes, ho.1, ho.2] at h

/-- An address that the look-up finds in no window falls in none (R156). -/
theorem fallsInNone_of {s : State} {h : TxnHdr} (hw : windowAt s h.addr.toNat = none) : FallsInNone s h := by
  intro i w hf
  have h1 := List.find?_eq_none.mp hw i (mem_sixteen i)
  obtain ⟨hv, hl, hr⟩ := hf
  simp [hv, hl, hr] at h1

/-- Windows of which no two overlap are apart (R152). -/
theorem windowsDisjoint_of {s : State}
    (h : (sixteen.all fun i => (vget s.wmu.windows i).all fun w => !hitsWindow s (some i) w.base w.size) = true) :
    WindowsDisjoint s := by
  intro i j v w hij hv hw ho
  have h1 := List.all_eq_true.mp h i (mem_sixteen i)
  simp only [hv, Option.all_some, Bool.not_eq_true'] at h1
  exact clearOfWindows_of h1 j w (fun e => hij (Option.some.inj e)) hw ho

/-- A cell port each of whose accesses waits exactly when the earlier ones block it keeps its order (R4). -/
theorem portInOrder_of {s : State}
    (h : ∀ n a, s.mge.port[n]? = some a → (a.stage == .waiting) = blockedBy (s.mge.port.take n) a) : PortInOrder s := by
  intro ds a as hp
  have h1 := h ds.length a (by simp [hp])
  rw [hp, List.take_left] at h1
  have h2 := Bool.eq_iff_iff.mp h1
  simpa [blockedBy, overlaps_iff] using h2

end Sys2Proof.Machine
end

