-- ==== Sys2Proof/Laws/Sparse.lean ====
section
/-! SUPPORT. The laws of the sparse tables: read after write, and that a write keeps the canonical form. -/
namespace Sys2Proof.Machine

@[simp] theorem sget_nil (k : Nat) : sget [] k = 0 := rfl

/-- Indices of a table above `lo` read as 0 at `lo`. -/
theorem sget_sortedAbove_low (m : Sparse) (lo k : Nat) (h : sortedAbove (some lo) m = true) (hk : k ≤ lo) :
    sget m k = 0 := by
  induction m generalizing lo with
  | nil => rfl
  | cons p m ih =>
    obtain ⟨i, v⟩ := p
    simp only [sortedAbove, Bool.and_eq_true, decide_eq_true_eq] at h
    have hi : i ≠ k := by omega
    simp only [sget, hi, if_false]
    exact ih i h.2 (by omega)

/-- Reading another index after a write gives what it gave before. -/
theorem sget_sput_ne (m : Sparse) (k v k' : Nat) (hk : k' ≠ k) : sget (sput m k v) k' = sget m k' := by
  induction m with
  | nil =>
    by_cases hv : v = 0
    · simp [sput, hv]
    · simp [sput, hv, sget, Ne.symm hk]
  | cons p m ih =>
    obtain ⟨i, w⟩ := p
    simp only [sput]
    by_cases h1 : k < i
    · by_cases hv : v = 0 <;> simp [h1, hv, sget, Ne.symm hk]
    · by_cases h2 : k = i
      · subst h2; by_cases hv : v = 0 <;> simp [hv, sget, Ne.symm hk]
      · simp only [h1, h2, if_false, sget]
        by_cases h3 : i = k' <;> simp [h3, ih]

/-- Reading an index after a non-zero write gives the value written. -/
theorem sget_sput_self_pos (m : Sparse) (k v : Nat) (hv : v ≠ 0) : sget (sput m k v) k = v := by
  induction m with
  | nil => simp [sput, hv, sget]
  | cons p m ih =>
    obtain ⟨i, w⟩ := p
    simp only [sput]
    by_cases h1 : k < i
    · simp [h1, hv, sget]
    · by_cases h2 : k = i
      · subst h2; simp [hv, sget]
      · have h3 : i ≠ k := fun h => h2 h.symm
        simp [h1, h2, sget, h3, ih]

/-- A write keeps a table sorted above its bound. -/
theorem sput_sortedAbove (m : Sparse) (lo : Option Nat) (k v : Nat) (h : sortedAbove lo m = true)
    (hk : ∀ l, lo = some l → l < k) : sortedAbove lo (sput m k v) = true := by
  induction m generalizing lo with
  | nil =>
    by_cases hv : v = 0
    · simp [sput, hv, sortedAbove]
    · cases lo with
      | none => simp [sput, hv, sortedAbove]
      | some l => simp [sput, hv, sortedAbove, hk l rfl]
  | cons p m ih =>
    obtain ⟨i, w⟩ := p
    simp only [sortedAbove, Bool.and_eq_true, decide_eq_true_eq] at h
    obtain ⟨⟨h0, hw⟩, hm⟩ := h
    simp only [sput]
    by_cases h1 : k < i
    · by_cases hv : v = 0
      · simp [h1, hv, sortedAbove, h0, hw, hm]
      · simp only [h1, hv, if_true, if_false, sortedAbove, Bool.and_eq_true, decide_eq_true_eq]
        refine ⟨⟨?_, hv⟩, ⟨trivial, hw⟩, hm⟩
        cases lo with
        | none => rfl
        | some l => simpa using hk l rfl
    · by_cases h2 : k = i
      · subst h2
        by_cases hv : v = 0
        · simp only [Nat.lt_irrefl, if_false, if_true, hv]
          cases m with
          | nil => rfl
          | cons q m =>
            obtain ⟨i', w'⟩ := q
            simp only [sortedAbove, Bool.and_eq_true, decide_eq_true_eq] at hm ⊢
            refine ⟨⟨?_, hm.1.2⟩, hm.2⟩
            cases lo with
            | none => rfl
            | some l => have := hk l rfl; simp; omega
        · simp only [Nat.lt_irrefl, if_false, if_true, hv, sortedAbove, Bool.and_eq_true, decide_eq_true_eq]
          exact ⟨⟨h0, hv⟩, hm⟩
      · simp only [h1, h2, if_false, sortedAbove, Bool.and_eq_true, decide_eq_true_eq]
        exact ⟨⟨h0, hw⟩, ih (some i) hm (by intro l hl; cases hl; omega)⟩

/-- A write keeps the canonical form. -/
theorem swf_sput (m : Sparse) (k v : Nat) (h : swf m = true) : swf (sput m k v) = true :=
  sput_sortedAbove m none k v h (by intro l hl; cases hl)

/-- A run of writes keeps the canonical form. -/
theorem swf_sputAll (m : Sparse) (k : Nat) (vs : List Nat) (h : swf m = true) : swf (sputAll m k vs) = true := by
  induction vs generalizing m k with
  | nil => exact h
  | cons v vs ih => exact ih _ _ (swf_sput m k v h)

/-- Reading an index after a write gives the value written, in a table in its canonical form. -/
theorem sget_sput_self (m : Sparse) (k v : Nat) (h : swf m = true) : sget (sput m k v) k = v := by
  by_cases hv : v = 0
  · subst hv
    suffices ∀ lo, sortedAbove lo m = true → sget (sput m k 0) k = 0 from this none h
    induction m with
    | nil => intro lo _; simp [sput]
    | cons p m ih =>
      obtain ⟨i, w⟩ := p
      intro lo hm
      simp only [sortedAbove, Bool.and_eq_true, decide_eq_true_eq] at hm
      simp only [sput]
      by_cases h1 : k < i
      · have h3 : i ≠ k := by omega
        simp [h1, sget, h3, sget_sortedAbove_low m i k hm.2 (by omega)]
      · by_cases h2 : k = i
        · subst h2; simp [sget_sortedAbove_low m k k hm.2 (Nat.le_refl k)]
        · have h3 : i ≠ k := fun e => h2 e.symm
          simp only [h1, h2, if_false, sget, h3]
          have hs : swf m = true := by
            cases m with
            | nil => rfl
            | cons q m => simp only [swf, sortedAbove, Bool.and_eq_true, decide_eq_true_eq] at hm ⊢; exact ⟨⟨trivial, hm.2.1.2⟩, hm.2.2⟩
          exact ih hs (some i) hm.2
  · exact sget_sput_self_pos m k v hv

end Sys2Proof.Machine
end

