-- ==== Sys2Proof/Tests/Slice0.lean ====
section
/-! SUPPORT. Tests: the well-formedness checks, the spec's worked examples and tables, one or two small steps per command,
and for each statement with hypotheses a concrete state that meets them. -/
namespace Sys2Proof.Tests
set_option Elab.async false
open Sys2Proof Sys2Proof.Machine

/-! ### Well-formedness: a term that each check refuses -/

/-- An incrementing one-beat 16-byte transaction at an address. -/
def hdr (addr : Nat) (len : Nat := 0) : TxnHdr :=
  { id := 1, addr := BitVec.ofNat 40 addr, burst := .incr, size := 4, len := BitVec.ofNat 8 len, lock := false,
    cache := 0, prot := 0, qos := 0 }

/-- Beat `j` of a transaction with data and strobes. -/
def beat (h : TxnHdr) (j : Nat) (data : Nat) (strb : Nat := 0xFFFF) : WBeat :=
  { hdr := h, beat := j, w := { data := BitVec.ofNat 128 data, strb := BitVec.ofNat 16 strb } }

/-- A read response beat. -/
def rd (data : Nat) (r : Resp := .okay) : RData := { data := BitVec.ofNat 128 data, resp := r }

theorem test_wf_page_beat : (Instr.commandPageWrite (beat (hdr 0x20000000 3) 3 0)).wf = true := by decide
theorem test_wf_beat_past_end : (Instr.commandPageWrite (beat (hdr 0x20000000) 1 0)).wf = false := by decide
theorem test_wf_capture_illegal : (Instr.captureBeat (beat (hdr 0x40000F80 15) 0 0)).wf = false := by decide
theorem test_wf_strobe_outside_lanes :
    (Instr.monitorBeat (beat { hdr 0x50000000 with size := 1 } 0 0 0b100)).wf = false := by decide
theorem test_wf_header_beats : (Instr.flatFetchHeaderResponse 0 [rd 0]).wf = false := by decide
theorem test_wf_gain_beats : (Instr.flatFetchGainResponse 0 []).wf = false := by decide
theorem test_wf_record_beats : (Instr.jobRecordResponse 0 (List.replicate 7 (rd 0))).wf = false := by decide
theorem test_wf_scan_beats : (Instr.finishScanResponse 0 (List.replicate 17 (rd 0))).wf = false := by decide
theorem test_wf_stopped_beats : (Instr.stoppedIssuerResponse 0 (.read [])).wf = false := by decide
theorem test_wf_pass_beats : (Instr.passThrough (.write (hdr 0 1) [{ data := 0, strb := 0 }])).wf = false := by decide
theorem test_wf_pass_response : (Instr.passThroughResponse 0 (.read [])).wf = false := by decide
theorem test_wf_result_read_illegal : (Instr.resultRead (hdr 0x60000000 16)).wf = false := by decide
theorem test_wf_legal_is_not_illegal : (Instr.illegalTransaction true (hdr 0)).wf = false := by decide
theorem test_wf_presence_unknown : (Instr.presenceChange .unknown).wf = false := by decide

/-- The table gives no row any bits, so no word spells a command. -/
theorem test_no_word_decodes : decodeTableWord 16 0x0101 = none := rfl

/-! ### Bursts (R148) -/

/-- Section 9.8: 0F80h + 16 × 16 crosses 1000h. -/
theorem test_burst_crossing : (hdr 0x40000F80 15).illegal = true ∧ (hdr 0x40000F00 15).illegal = false := by decide

/-- R148: an incrementing burst aligns its later beats, a wrapping one wraps at its base. -/
theorem test_beat_addresses :
    (hdr 0x1004 3).beatAddr 0 = 0x1004 ∧ (hdr 0x1004 3).beatAddr 1 = 0x1010 ∧
    ({ hdr 0x1010 3 with burst := .wrap } : TxnHdr).beatAddr 3 = 0x1000 ∧
    ({ hdr 0x1010 3 with burst := .fixed } : TxnHdr).beatAddr 3 = 0x1010 := by decide

/-- R148: a wrapping burst of 3 beats is illegal, and so is one whose start is not a multiple of its size. -/
theorem test_wrap_illegal :
    ({ hdr 0x1000 2 with burst := .wrap } : TxnHdr).illegal = true ∧
    ({ hdr 0x1008 3 with burst := .wrap } : TxnHdr).illegal = true := by decide

/-! ### Layouts (chapter 11) -/

/-- Section 11.7: the DONE write of a late-withdrawn LOAD_JOB. -/
theorem test_done_bytes : doneBytes .ok true = [4, 0, 0, 0, 0, 1, 0, 0] := by decide

/-- R184: a TAKEN write is value 2 in byte 0 of 4 bytes. -/
theorem test_taken_bytes : takenBytes = [2, 0, 0, 0] := by decide

/-- Table 11-1: the final mid-tone cell of Table 2-5, SUM 241,252 (3AE64h), WSUM 8, GEN 2, LASTK 2, NUSE 2, CLIP_HI. -/
theorem test_cell_bytes :
    Cell.bytes ⟨241252, 8, 2, 2, 2, 0, true, false, false, false⟩ = [0x64, 0xAE, 0x03, 0, 8, 2, 0x22, 0x10] ∧
    Cell.ofWord 0x102202080003AE64 = ⟨241252, 8, 2, 2, 2, 0, true, false, false, false⟩ := by decide

/-- Section 11.7: the JOB_STARTED record, generation 9 and depth 3, slot 1. -/
theorem test_job_started_record :
    (Report.bytes ⟨1, 0x01020304, 0x42, .jobStarted 9 3⟩).take 16 =
      [1, 1, 0, 0, 4, 3, 2, 1, 0x42, 0, 0, 0, 9, 3, 0, 0] ∧
    (Report.bytes ⟨1, 0x01020304, 0x42, .jobStarted 9 3⟩).length = 64 := by decide

/-- Table 11-10: offsets of a LAMP and a CEC_LEVEL report, SLOT FFh. -/
theorem test_coalesced_records :
    ((Report.bytes ⟨255, 0, 0, .lamp .steady 1503232⟩).drop 12).take 8 = [3, 0, 0, 0, 0, 0xF0, 0x16, 0] ∧
    ((Report.bytes ⟨255, 0, 0, .cecLevel .halted 256⟩).drop 12).take 4 = [3, 0, 0, 1] := by decide

/-- Table 11-8: a 40-byte image has 3 beats (section 5.8), FORMAT 1 first, TW and TH after it. -/
theorem test_flat_image :
    imageLen 4 1 = 40 ∧ imageBytes ⟨.valid, 4, 1, 12600000, 393750, [(0, 17203)]⟩ 0 6 = [1, 0, 4, 0, 1, 0] ∧
    imageBytes ⟨.valid, 4, 1, 12600000, 393750, [(0, 17203)]⟩ 32 2 = [0x33, 0x43] := by decide

/-- R185: a 16-bit W of 20,000 makes a record invalid; the same record with W 64 is valid. -/
def recordBytes (w : Nat) : List Byte :=
  [1, 0, 0, 0] ++ leBytes 4 7 ++ [40, 1, 0, 2] ++ leBytes 2 w ++ leBytes 2 64 ++ [2, 5, 1, 0] ++ leBytes 2 4 ++
    leBytes 2 60000 ++ leBytes 2 500 ++ leBytes 2 1024 ++ leBytes 2 13312 ++ leBytes 2 50 ++ leBytes 2 9950 ++
    leBytes 2 1 ++ leBytes 2 4 ++ leBytes 2 16 ++ leBytes 2 1 ++ leBytes 2 1 ++ leBytes 2 1 ++ leBytes 2 1 ++
    leBytes 2 1 ++ [2, 6, 12, 1, 1, 1, 1, 1] ++ List.replicate 70 0xFF

theorem test_record_width : (JobRecord.ofBytes (recordBytes 20000)).isNone = true ∧
    (JobRecord.ofBytes (recordBytes 64)).isSome = true := by decide

/-! ### Worked merges (section 2.9): B 256, F 32, S 16000, g 18,022, E 1, 4, 16, WT 2, 6, 12, c 5, generation 2 -/

/-- A merge of the section's setting. -/
def merge (k e w v : Nat) (retake : Bool := false) : Merge :=
  { v := v, k := k, e := e, w := w, c := 5, g := 18022, gen := 2, retake := retake, tile := 0,
    sensor := { b := 256, f := 32, s := 16000 }, live := true }

/-- Table 2-5: the mid-tone pixel. -/
theorem test_mid_tone :
    (mergeCell Cell.empty (merge 0 1 2 1100)).1 = ⟨59416, 2, 2, 0, 1, 0, false, false, false, false⟩ ∧
    mergeCell ⟨59416, 2, 2, 0, 1, 0, false, false, false, false⟩ (merge 1 4 6 3700) =
      (⟨241252, 8, 2, 1, 2, 0, false, false, false, false⟩, .accepted) ∧
    mergeCell ⟨241252, 8, 2, 1, 2, 0, false, false, false, false⟩ (merge 2 16 12 16200) =
      (⟨241252, 8, 2, 2, 2, 0, true, false, false, false⟩, .clipped false) := by decide

/-- Section 2.9: v = 3,893 is rejected. -/
theorem test_rejected :
    mergeCell ⟨59416, 2, 2, 0, 1, 0, false, false, false, false⟩ (merge 1 4 6 3893) =
      (⟨59416, 2, 2, 1, 1, 1, false, false, true, false⟩, .rejected) := by decide

/-- Table 2-6: the dark pixel; its last deviation equals the limit. -/
theorem test_dark_pixel :
    mergeCell Cell.empty (merge 0 1 2 270) = (⟨0, 0, 2, 0, 0, 0, false, true, false, false⟩, .clipped true) ∧
    (mergeCell ⟨0, 0, 2, 0, 0, 0, false, true, false, false⟩ (merge 1 4 6 300)).1 =
      ⟨2322, 6, 2, 1, 1, 0, false, true, false, false⟩ ∧
    mergeCell ⟨2322, 6, 2, 1, 1, 0, false, true, false, false⟩ (merge 2 16 12 420) =
      (⟨6642, 18, 2, 2, 2, 0, false, true, false, false⟩, .accepted) := by decide

/-- Table 2-7: P is a duplicate in the retake, Q is merged and carries RETAKE. -/
theorem test_retake :
    isDuplicate (judge ⟨241252, 8, 2, 1, 2, 0, false, false, false, false⟩ 2 (some 1)) 1 = true ∧
    (mergeCell ⟨59600, 2, 2, 0, 1, 0, false, false, false, false⟩ (merge 1 4 6 3720 true)).1 =
      ⟨242492, 8, 2, 1, 2, 0, false, false, false, true⟩ := by decide

/-- Table 2-3: the floor of 8 governs up to m = 113 at code 5 and up to 42 at code 15. -/
theorem test_spread_floor : spreadLimit 113 5 = 8 ∧ spreadLimit 128 5 = 9 ∧ spreadLimit 42 15 = 8 ∧ spreadLimit 48 15 = 9 := by
  decide

/-- Table 2-2 and R20: classes under the reset profile, and the largest estimates. -/
theorem test_classes :
    classify 287 Sensor.reset = .dim ∧ classify 288 Sensor.reset = .usable ∧ classify 16199 Sensor.reset = .usable ∧
    classify 16200 Sensor.reset = .saturated ∧ rawValue 0xFFFF = 16383 ∧
    estimate 16382 0 32767 1 = 1048416 ∧ estimate 16383 0 32767 1 = maxEstimate := by decide

/-- R2: another generation, generation 0, a LASTK of 8, and a LASTK above k read as empty. -/
theorem test_judge_empty :
    judge ⟨10, 1, 3, 0, 1, 0, false, false, false, false⟩ 2 none = none ∧
    judge ⟨10, 1, 0, 0, 1, 0, false, false, false, false⟩ 0 none = none ∧
    judge ⟨10, 1, 2, 8, 1, 0, false, false, false, false⟩ 2 none = none ∧
    judge ⟨10, 1, 2, 3, 1, 0, false, false, false, false⟩ 2 (some 2) = none ∧
    (judge ⟨10, 1, 2, 3, 1, 0, false, false, false, false⟩ 2 none).isSome = true := by decide

/-! ### Density and output (sections 6.6 and 6.7) -/

/-- Section 6.6: the logarithms of the worked cells. -/
theorem test_log : logL 400000 = 18970 ∧ logL 30156 = 15196 ∧ logL 369 = 8644 ∧ logL 29708 = 15168 ∧ logL 1 = 0 := by
  decide

/-- A cell with accepted samples of mean m. -/
def meanCell (m : Nat) : Option Cell := some ⟨m, 1, 2, 0, 1, 0, false, false, false, false⟩

/-- A gap cell. -/
def gapCell (hi lo : Bool) : Option Cell := some ⟨0, 0, 2, 0, 0, 0, hi, lo, false, false⟩

/-- Table 6-5, densities under OPEN 400,000. -/
theorem test_densities :
    density (meanCell 30156) 400000 = some 3774 ∧ density (meanCell 369) 400000 = some 10326 ∧
    density (meanCell 401000) 400000 = some 0 ∧ density (meanCell 1) 400000 = some 16383 ∧
    density (meanCell 0) 400000 = some 16383 ∧ density (gapCell true true) 400000 = some 0 ∧
    density (gapCell false true) 400000 = some 16383 ∧ density none 400000 = none := by decide

/-- Table 6-5, POSITIVE outputs under 1,024..13,312, and section 6.7's D16 value under 1,024..13,327. -/
theorem test_positive :
    outPositive (some 3774) 1024 13312 .d16 = 14666 ∧ outPositive (some 3774) 1024 13312 .d8 = 57 ∧
    outPositive (some 10326) 1024 13312 .d16 = 49609 ∧ outPositive (some 10326) 1024 13312 .d8 = 193 ∧
    outPositive (some 3802) 1024 13312 .d16 = 14815 ∧ outPositive none 1024 13312 .d16 = 0 ∧
    outPositive (some 16383) 1024 13312 .d8 = 255 ∧ outPositive (some 3774) 1024 13327 .d16 = 14648 := by decide

/-- Table 6-5, LINEAR outputs. -/
theorem test_linear :
    outLinear (meanCell 30156) .d16 = 1884 ∧ outLinear (meanCell 30156) .d8 = 7 ∧ outLinear (meanCell 401000) .d8 = 97 ∧
    outLinear (meanCell 369) .d16 = 23 ∧ outLinear (gapCell true false) .d16 = 65535 ∧
    outLinear (gapCell true true) .d8 = 255 ∧ outLinear (gapCell false true) .d16 = 0 ∧ outLinear none .d8 = 0 := by decide

/-- Table 6-6's histogram. -/
def hist66 : Sparse :=
  [(3, 4), (40, 5), (64, 30), (100, 400), (180, 900), (300, 500), (700, 150), (832, 6), (1023, 5)]

/-- Section 6.7: the range of Table 6-6. -/
theorem test_auto_range : autoRange hist66 2000 50 9950 = (1024, 13327) := by decide +kernel

/-- Table 6-7: one cell in bin 500. -/
theorem test_auto_range_one : autoRange [(500, 1)] 1 50 9950 = (8000, 8015) := by decide +kernel

/-! ### Monitors and the counter (sections 7.11, 7.12, Tables 2-1, 8-2, 3-6) -/

/-- Section 7.11: R̄ = 12,000 at E = 8 gives 1,503,232, and a mean below B + F is DIM. -/
theorem test_measure :
    measure Sensor.reset (12000 * 1280) 1280 false 8 = .level 1503232 ∧ measure Sensor.reset 287 1 false 8 = .dim ∧
    measure Sensor.reset 12000 1 true 8 = .sat := by decide

/-- Section 7.11: the half-widths 11,744, 11,406 and 11,640 at BAND 3. -/
theorem test_band :
    inBand (1503232 + 11744) 1503232 3 = true ∧ inBand (1503232 + 11745) 1503232 3 = false ∧
    inBand 1490000 1460000 3 = false ∧ inBand 1500500 1490000 3 = true ∧ inBand 1503232 1490000 3 = false := by decide

/-- Section 7.12: ρ of 250 votes absent, of 95 present; a saturated frame gives no vote. -/
theorem test_votes :
    presenceVote Sensor.reset 160 ⟨1, 12000, 1, false, 11500, 1⟩ = some .absent ∧
    presenceVote Sensor.reset 160 ⟨1, 12000, 1, false, 4400, 1⟩ = some .present ∧
    presenceVote Sensor.reset 160 ⟨1, 12000, 1, true, 4400, 1⟩ = none ∧
    presenceVote Sensor.reset 160 ⟨1, 12000, 1, false, 0, 0⟩ = none := by decide

/-- Section 7.12: the centre of 640 × 480 with R = 2 is x 160..479, y 120..359. -/
theorem test_centre :
    inCentre 640 480 2 ((120 + 2) * 640 + 160) = true ∧ inCentre 640 480 2 ((359 + 2) * 640 + 479) = true ∧
    inCentre 640 480 2 ((120 + 2) * 640 + 159) = false ∧ inCentre 640 480 2 ((360 + 2) * 640 + 160) = false := by decide

/-- Table 8-2: the boundaries of the levels. -/
theorem test_levels :
    levelOf 95 = .normal ∧ levelOf 96 = .warning ∧ levelOf 127 = .warning ∧ levelOf 128 = .guarded ∧
    levelOf 255 = .guarded ∧ levelOf 256 = .halted := by decide

/-- Table 3-6: depths under the reset ladder. -/
theorem test_ladder :
    ladderDepth Ladder.reset 0 = 2 ∧ ladderDepth Ladder.reset 15 = 2 ∧ ladderDepth Ladder.reset 16 = 3 ∧
    ladderDepth Ladder.reset 90 = 4 ∧ ladderDepth Ladder.reset 128 = 6 ∧ ladderDepth Ladder.reset 192 = 8 ∧
    ladderDepth Ladder.reset 256 = 8 := by decide

/-! ### Gains (section 5.7) -/

/-- Table 5-4's statistics. -/
def tsa54 : Tsa :=
  { flatSum := [(0, 98304000000), (1, 103219200000), (2, 108134400000)],
    flatCount := [(0, 8192), (1, 8192), (2, 8192)], rejects := [] }

/-- Tables 5-4 and 5-5: the target, N_good and the gains. -/
theorem test_gains :
    firstPass tsa54 4 = (3, 37800000) ∧ gainsFrom tsa54 12600000 4 0 = [17203, 16384, 15639, 16384] ∧
    clampedCount tsa54 12600000 4 = 0 := by decide

/-- Table 5-6: the dark corner's gain is clamped and counted. -/
theorem test_gains_clamped :
    let a : Tsa := { tsa54 with flatSum := tsa54.flatSum ++ [(3, 3000000)], flatCount := tsa54.flatCount ++ [(3, 1)] }
    gainsFrom a 10200000 4 0 = [13926, 13263, 12660, 32767] ∧ clampedCount a 10200000 4 = 1 := by decide

/-- R78: a 12,232 × 9,180 plate has the grid of 12,288 × 9,216, and pixel (64, 64) of a 256-wide image lies in tile 5. -/
theorem test_tiles :
    tilesOf 12232 = 192 ∧ tilesOf 9180 = 144 ∧ tilesOf 12288 = 192 ∧ tileOf 256 (64 * 256 + 64) = 5 := by decide

/-! ### Helpers: small states and what a command answers -/

/-- The state an outcome goes on with. -/
def after (o : Host.Outcome State Fault Refusal) : State :=
  match o with
  | .next s => s
  | .fault _ => State.reset
  | .refused _ => State.reset

/-- RESET_N released with CPSEL 0020h: the page at 2000_0000h (section 9.8). -/
def on : State := after (exec (.resetNRelease 0x20) State.reset)

/-- Command slot 0 queued with a CODE, TAG 0042h and ARGS. -/
def cmd (code : Nat) (args : List Nat) (s : State) : State :=
  { s with cin := { s.cin with
      shadow := sputAll [] 8 ([code % 256, code / 256, 0x42, 0] ++ args)
      queue := [0]
      takeDue := true } }

/-- The results of the commands that have completed and wait for their DONE write. -/
def results (o : Host.Outcome State Fault Refusal) : List Result := (after o).cin.waits.map DoneWait.res

/-- ARGS with a first byte and an 8-byte field at slot offset 16. -/
def argAddr (a : Nat) (addr : List Nat) : List Nat := [a, 0, 0, 0] ++ addr

/-- The job of section 3.15. -/
def plate : JobRecord :=
  { kind := .plate, dmode := .fixed, render := .positive, range := .fixed, tag := 7, prio := 40, area := 1, bank := 0,
    r := 2, w := 64, h := 64, depth := 2, spread := 5, retakeLim := 1, tee := 0, tileRejLim := 4, expWaitMs := 60000,
    frameGapMs := 500, dlo := 1024, dhi := 13312, plo := 50, phi := 9950,
    e := #v[1, 4, 16, 1, 1, 1, 1, 1], wt := #v[2, 6, 12, 1, 1, 1, 1, 1] }

/-- A FLAT job of the same size for bank 1. -/
def flat : JobRecord := { plate with kind := .flat, bank := 1 }

/-- Job slot 0 in a state with a job. -/
def withJob (x : SlotState) (j : JobRecord) (s : State) : State :=
  putSlot 0 { JobSlot.loaded j with state := x, gen := 2, opn := 400000 } s

/-- Area 1 at 1_0000_0000h, 64 KiB, owned by slot 0. -/
def area1 (a : AreaState) (gen : Nat) (owner : Option (Fin 4)) (s : State) : State :=
  putArea 1 { state := a, base := 0x100000000, size := 65536, gen := gen, owner := owner } s

/-- Bank 0 VALID on the plate's grid with gain 18,022. -/
def bank0 (s : State) : State := putBank 0 ⟨.valid, 1, 1, 12600000, 393750, [(0, 18022)]⟩ s

/-- The device in RUN with a ring at 2000_1000h and a STEADY lamp. -/
def running1 (s : State) : State :=
  { s with device := .run, rpu := { s.rpu with ringSet := true, ringBase := 0x20001000 },
           lamp := { s.lamp with state := .steady, base := some 1503232, last := ⟨0, true⟩, steady := ⟨0, true⟩ },
           pdt := { s.pdt with presence := .present } }

/-- The section 3.15 job ACTIVE in slot 0 with depth 2. -/
def active (j : JobRecord) : State :=
  putSeq { Seq.idle with depth := some 2 } (withJob .active j (area1 .ready 2 (some 0) (bank0 (running1 on))))

/-- The pixel queue holds one sample. -/
def pixel (idx raw : Nat) (s : State) : State :=
  { s with mge := { s.mge with pixels := [⟨false, idx, BitVec.ofNat 16 raw⟩] } }

/-- One granted M-port transaction of number 5. -/
def granted (k : MKind) (write : Bool) (s : State) : State :=
  { s with mpa := { s.mpa with granted := [⟨5, k, .bulk, write, 0, 16, []⟩] }, serial := 6 }

/-- A merge of the section 2.9 setting on the cell port as access 3. -/
def port (stage : CellStage) (m : Merge) (s : State) : State :=
  { s with mge := { s.mge with port := [⟨3, 0x100000000, 8, .merge m, stage⟩] } }

/-- A sweep of area 1 whose 256 bursts have all been requested, or all but one. -/
def sweeping (requested : Nat) : State :=
  granted .sweep true (setSweep (some ⟨0, 1, requested⟩)
    (withJob .starting plate (area1 .needsClear 0 (some 0) (bank0 (running1 on)))))

/-- The report queue holds n reports. -/
def queued (n : Nat) (s : State) : State :=
  { s with rpu := { s.rpu with queue := List.replicate n ⟨255, 0, 0, .presence .absent⟩ } }

/-- A window. -/
def win (i : Fin 16) (k : WinKind) (base size : Nat) (s : State) : State := putWindow i (some ⟨k, base, size⟩) s

/-- Section 9.8's windows 1 (CAPTURE), 2 (MONITOR) and 3 (RESULT). -/
def windows (s : State) : State :=
  win 1 .capture 0x40000000 0x10000000 (win 2 (.monitor 640 480 2 8) 0x50000000 0x100000
    (win 3 (.result 0 .d16) 0x60000000 0x10000000 s))

/-! ### Resets and the intake -/

/-- Section 9.8: CPSEL 0020h puts the page at 2000_0000h. -/
theorem test_page_base : pageBase on = 0x20000000 ∧ on.resetN = true := by decide

theorem test_pin_reset : (after (exec .pinReset (active plate))).slots = State.reset.slots ∧
    (after (exec .pinReset (queued 3 (active plate)))).rpu = State.reset.rpu := by decide

/-- Table 10-6: ISSUED queues slot 2; while a HOLD is in execution a second one is ignored, and WITHDRAWN takes it out. -/
theorem test_issue_withdraw :
    let s := after (exec (.issued 2) (setLong (some (.hold 1)) on))
    (after (exec (.issued 2) on)).cin.queue = [2] ∧ (after (exec (.issued 2) s)).cin.queue = [2] ∧
    (after (exec (.withdrawn 2) s)).cin.queue = [] := by decide

/-- R166: an open slot's ISSUED is ignored; R167: its WITHDRAWN marks it. -/
theorem test_open_slot :
    let s := putCmdSlot 2 ⟨true, false, true⟩ on
    (after (exec (.issued 2) s)).cin.queue = [] ∧ (cmdSlot (after (exec (.withdrawn 2) s)) 2).late = true := by decide

/-- R180: TAIL is the word modulo 64. -/
theorem test_tail : (after (exec (.reportTail 0 69) on)).rpu.tail = 5 := by decide

/-- R188: a beat that carries CODE and ISSUED places every byte first; R157: it is forwarded as SYS. -/
theorem test_page_write :
    let s := after (exec (.commandPageWrite (beat (hdr 0x20000000) 0 0x04010000000000000001 0x0FFF)) on)
    s.cin.queue = [0] ∧ cmdOf s 0 = some .loadJob ∧ s.mpa.sys.length = 1 := by decide

/-- R168: a RESET_PART behind an older slot is chosen first. -/
theorem test_reset_first :
    let s := cmd 0x03FF [] on
    takes { s with cin := { s.cin with queue := [3, 0] } } = some 0 := by decide

/-- R168: with nothing in execution a waiting HOLD lacks room; its CODE rewritten to RUN without a STATE byte makes no take due,
and an ISSUED handed for it, ignored by R166, or a freed entry does. -/
theorem test_take_at_events :
    let s := after (exec (.issued 0) (queued 8 (cmd 0x0302 [] (running1 on))))
    let t := handBytes [(8, 0x01), (9, 0x03)] s
    takes s = none ∧ cmdOf t 0 = some .run ∧ takable t = some 0 ∧ takes t = none ∧ takes (dueTakes t) = none ∧
    takes (after (exec (.issued 0) t)) = some 0 ∧ takes (after (exec (.withdrawn 5) t)) = some 0 ∧
    takes (after (exec (.reportRecordResponse 5 .okay)
      (granted .record true { s with rpu := { s.rpu with busy := some true } }))) = some 0 := by decide

/-- R168: a CODE that names none completes with UNKNOWN, by either row. -/
theorem test_unknown : results (exec .unknownCode (cmd 0x0999 [] on)) = [.unknown] ∧
    results (exec .commandTake (cmd 0x0999 [] on)) = [.unknown] := by decide

/-- R169: the DONE write follows the TAKEN write's answer and carries LATE_WITHDRAW. -/
theorem test_taken_answer :
    let s := putCmdSlot 0 ⟨true, true, true⟩ (granted (.taken 0) true on)
    ((after (exec (.takenWriteResponse 5 .okay)
      { s with cin := { s.cin with waits := [⟨0, .ok, []⟩] } })).mpa.note.map MTxn.bytes) =
      [[4, 0, 0, 0, 0, 1, 0, 0]] := by decide

/-- R170: a DONE write answered with an error closes the slot and sets NOTE_LOST. -/
theorem test_done_answer :
    let s := after (exec (.doneWriteResponse 5 .slverr) (putCmdSlot 0 ⟨true, false, false⟩ (granted (.done 0 .ok false) true on)))
    (cmdSlot s 0).opened = false ∧ s.rpu.noteLost = true ∧ s.rpu.memerrSeen = true := by decide

/-! ### Configuration commands -/

/-- R17: B 2047 and F 1023 need S of 3071 at least. -/
theorem test_set_sensor :
    (after (exec .setSensor (cmd 0x0101 [0xFF, 7, 0xFF, 3, 0xFF, 0x0B] on))).mge.sensor = ⟨2047, 1023, 3071⟩ ∧
    results (exec .setSensor (cmd 0x0101 [0xFF, 7, 0xFF, 3, 0xFE, 0x0B] on)) = [.range] := by decide

/-- R133: SETTLE_FRAMES 0 is out of range; a whole configuration is taken. -/
theorem test_set_lamp :
    results (exec .setLamp (cmd 0x0102 [3, 0, 0, 0, 0, 0, 0, 0, 0, 0, 160] on)) = [.range] ∧
    (after (exec .setLamp (cmd 0x0102 [15, 64, 0xD0, 7, 0, 0, 1, 0, 1, 0, 255, 0, 2] on))).lamp.cfg =
      ⟨15, 64, 2000, 65536, 1, 255, 2⟩ := by decide

/-- R49: thresholds out of order give ORDER, a depth of 9 RANGE before it. -/
theorem test_set_ladder :
    results (exec .setLadder (cmd 0x0103 [1, 2, 0, 0, 1, 1, 1, 1, 1] on)) = [.order] ∧
    results (exec .setLadder (cmd 0x0103 [1, 2, 0, 0, 1, 1, 1, 1, 9] on)) = [.range] := by decide

/-- Section 9.8: a window on the page overlaps, one at 2000_2000h does not; its kind and range are set. -/
theorem test_set_window :
    results (exec .setWindow (cmd 0x0104 ([4, 1, 0, 0] ++ [0, 0, 0, 0x20, 0, 0, 0, 0] ++ [0, 0x10]) on)) = [.overlap] ∧
    vget (after (exec .setWindow (cmd 0x0104 ([4, 1, 0, 0] ++ [0, 0x20, 0, 0x20, 0, 0, 0, 0] ++ [0, 0x10]) on))).wmu.windows 4 =
      some ⟨.capture, 0x20002000, 4096⟩ := by decide

/-- R152, R154: window 0 is refused with RANGE, window 1 freed. -/
theorem test_clear_window :
    results (exec .clearWindow (cmd 0x0105 [0] on)) = [.range] ∧
    vget (after (exec .clearWindow (cmd 0x0105 [1] (windows on)))).wmu.windows 1 = none := by decide

/-- R155: BYPASS, and a mode that is neither. -/
theorem test_set_match : (after (exec .setMatch (cmd 0x0106 [1] on))).wmu.mode = .bypass ∧
    results (exec .setMatch (cmd 0x0106 [2] on)) = [.range] := by decide

/-- Table 1-3: area 2 at 1_0000_0000h becomes NEEDS_CLEAR; R8: an owned area is BUSY. -/
theorem test_define_area :
    vget (after (exec .defineArea (cmd 0x0107 (argAddr 2 [0, 0, 0, 0, 1, 0, 0, 0] ++ [0, 0, 0, 0x36]) on))).atb.areas 2 =
      ⟨.needsClear, 0x100000000, 905969664, 0, none⟩ ∧
    results (exec .defineArea (cmd 0x0107 (argAddr 1 [0, 0, 0, 0, 1, 0, 0, 0] ++ [0, 0x10]) (area1 .ready 2 (some 0) on))) =
      [.busy] := by decide

/-- R177: the ring is set, HEAD and TAIL 0, and the HEAD write of 0 requested; its answer completes with OK. -/
theorem test_set_reports :
    let s := after (exec .setReports (cmd 0x0108 (argAddr 1 [0, 0x10, 0, 0x20]) on))
    s.rpu.ring = some 0x20001000 ∧ s.rpu.irqEn = true ∧ s.cin.long = some (.reportsHead 0) ∧
    (after (exec (.setReportsHeadResponse 5 .okay)
      (granted (.head 0 1 true) true { s with mpa := Mpa.reset }))).cin.long = none := by decide

/-! ### Flat banks -/

/-- Section 5.8: the image of 34 bytes here is one burst; its answer completes the store with OK. -/
theorem test_flat_store :
    let s := after (exec .flatStore (cmd 0x0201 (argAddr 0 [0x40, 0, 0, 0, 2]) (bank0 on)))
    s.mpa.bulk.map MTxn.len = [34] ∧
    results (exec (.flatStoreResponse 5 .okay) (granted .flatWrite true { s with mpa := Mpa.reset })) = [.ok] ∧
    results (exec .flatStore (cmd 0x0201 (argAddr 1 [0x40]) (bank0 on))) = [.state] := by decide

/-- R90: a fetch makes the bank INVALID and reads 32 bytes; a header of FORMAT 2 ends it with RANGE. -/
theorem test_flat_fetch :
    let s := after (exec .flatFetch (cmd 0x0202 (argAddr 0 [0x40, 0, 0, 0, 2]) (bank0 on)))
    (vget s.fst.banks 0).state = .invalid ∧ s.mpa.bulk.map MTxn.len = [32] ∧
    results (exec (.flatFetchHeaderResponse 5 [rd 2, rd 0]) (granted .flatHeader false { s with mpa := Mpa.reset })) = [.range] := by
  decide

/-- The header of Table 5-5's bank: FORMAT 1, TW 4, TH 1, T 12,600,000, OPEN 393,750. -/
def header : RData := rd 0x00060216_00C042C0_0000_0001_0004_0001

/-- R91: four gains are read, 5,000 stored as 8,192 and 65,535 as 32,767, and the bank becomes VALID. -/
theorem test_flat_gains :
    let s := setLong (some (.flatHeader 0 0 0x40)) (granted .flatHeader false on)
    let t := after (exec (.flatFetchHeaderResponse 5 [header, rd 0]) s)
    t.mpa.bulk.map MTxn.len = [8] ∧
    vget (after (exec (.flatFetchGainResponse 5 [rd 0x4000_3D17_FFFF_1388])
      (granted (.flatGain 0 4) false { t with mpa := Mpa.reset }))).fst.banks 0 =
      ⟨.valid, 4, 1, 12600000, 393750, [(0, 8192), (1, 32767), (2, 15639), (3, 16384)]⟩ := by decide

/-- R91: after an error the fetch waits for the gain read still granted, and ends with MEMORY_ERROR at its answer. -/
theorem test_flat_gains_error :
    let s := setLong (some (.flatGains 0 0 0x40 192 1 12600000 393750 384 false [])) (putCmdSlot 0 ⟨true, false, true⟩ on)
    let two := { s with mpa := { s.mpa with granted := [⟨5, .flatGain 0 96, .bulk, false, 0x60, 192, []⟩,
      ⟨6, .flatGain 96 96, .bulk, false, 0x120, 192, []⟩] } }
    let t := after (exec (.flatFetchGainResponse 5 (List.replicate 12 (rd 0 .slverr))) two)
    t.cin.long = some (.flatGains 0 0 0x40 192 1 12600000 393750 384 true []) ∧ t.cin.waits = [] ∧
    results (exec (.flatFetchGainResponse 6 (List.replicate 12 (rd 0))) t) = [.memoryError] := by decide

/-- R92: a drop makes the bank INVALID; bank 2 is out of range. -/
theorem test_flat_drop :
    (vget (after (exec .flatDrop (cmd 0x0203 [0] (bank0 on)))).fst.banks 0).state = .invalid ∧
    results (exec .flatDrop (cmd 0x0203 [2] (bank0 on))) = [.range] := by decide

/-! ### Device commands -/

/-- R171: RUN without a ring is refused; with one the lamp is SETTLING. -/
theorem test_run :
    results (exec .run (cmd 0x0301 [] on)) = [.state] ∧
    (after (exec .run (cmd 0x0301 [] { on with rpu := { on.rpu with ringSet := true, ringBase := 0x20001000 } }))).lamp.state = .settling := by
  decide

/-- R172, R72: HOLD aborts the ACTIVE job with one report; it waits for a FINISHING one. -/
theorem test_hold :
    let s := after (exec .hold (cmd 0x0302 [] (active plate)))
    s.device = .hold ∧ (vget s.slots 0).state = .aborted ∧ s.rpu.queue.length = 1 ∧ s.lamp.state = .offline ∧
    (after (exec .hold (cmd 0x0302 [] (withJob .finishing plate (active plate))))).cin.long = some (.hold 0) := by decide

/-- R143: RESUME at HALTED arms recovery; at NORMAL it is refused with STATE. -/
theorem test_resume :
    (after (exec .resume (cmd 0x0303 [] { active plate with cec := ⟨256, false⟩ }))).cec = ⟨256, true⟩ ∧
    results (exec .resume (cmd 0x0303 [] (active plate))) = [.state] := by decide

/-- R173: SNAPSHOT takes the latches and clears them; R186: its TAG is the slot's. -/
theorem test_snapshot :
    let s := after (exec .snapshot (cmd 0x0304 [] (setLatch .memerrSeen on)))
    s.rpu.memerrSeen = false ∧ s.rpu.queue.map Report.tag = [0x42] ∧
    s.rpu.queue.map (fun r => (r.bytes[31]?.getD 0)) = [8] := by decide

/-- R174: RESET_PART completes the queued slot 3 with RESET and empties slot 0. -/
theorem test_reset_part :
    let c := cmd 0x03FF [] (active plate)
    let s := after (exec .resetPart { c with cin := { c.cin with queue := [3, 0] } })
    (vget s.slots 0).state = .empty ∧ (vget s.atb.areas 1).state = .needsClear ∧
    s.mpa.note.map MTxn.bytes = [takenBytes, doneBytes .reset false] := by decide +kernel

/-! ### Job commands and transitions -/

/-- R56, R57: a fetch of 128 bytes; a valid record makes the slot PENDING, an invalid one leaves it EMPTY with RANGE. -/
theorem test_load_job :
    let s := after (exec .loadJob (cmd 0x0401 (argAddr 1 [0x80, 0, 0, 0, 3]) on))
    (vget s.slots 1).state = .fetching ∧ s.mpa.bulk.map (fun t => (t.addr, t.len)) = [(0x300000080, 128)] ∧
    results (exec (.jobRecordResponse 5 (List.replicate 8 (rd 0))) (granted .jobFetch false { s with mpa := Mpa.reset })) =
      [.range] := by decide

/-- The beats of a record's bytes. -/
def beatsOf : Nat → List Byte → List RData
  | 0, _ => []
  | n + 1, bs => { data := beatOf (bs.take 16), resp := .okay } :: beatsOf n (bs.drop 16)

theorem test_job_record :
    let s := after (exec (.jobRecordResponse 5 (beatsOf 8 (recordBytes 64)))
      (granted .jobFetch false (setLong (some (.loadJob 0 1)) on)))
    (vget s.slots 1).state = .pending ∧ (vget s.slots 1).job = some plate ∧ (vget s.slots 1).dhi = 13312 := by decide

/-- R68: ABORT_JOB of an ACTIVE slot; of an EMPTY one STATE. -/
theorem test_abort :
    (vget (after (exec .abortJob (cmd 0x0402 [0] (active plate)))).slots 0).state = .aborted ∧
    results (exec .abortJob (cmd 0x0402 [1] (active plate))) = [.state] := by decide

/-- R94: the abort of a FLAT job's finishing leaves the counts of the last scan held. -/
theorem test_abort_flat_keeps_scan :
    let s := withJob .finishing flat (running1 on)
    (after (exec .abortJob (cmd 0x0402 [0] { s with scan := { Scan.idle with nData := 9 } }))).scan.nData = 9 := by decide

/-- R70: RELEASE_JOB empties a DONE slot and its area's ownership ends; of an ACTIVE one STATE. -/
theorem test_release :
    let s := after (exec .releaseJob (cmd 0x0403 [0] (withJob .done plate (area1 .ready 2 (some 0) on))))
    (vget s.slots 0).state = .empty ∧ vget s.atb.areas 1 = ⟨.ready, 0x100000000, 65536, 2, none⟩ ∧
    results (exec .releaseJob (cmd 0x0403 [0] (active plate))) = [.state] := by decide +kernel

/-- Table 1-3: a start in a READY area of generation 7 takes 8, and the ACTIVE transition carries it. -/
theorem test_start :
    let s := startDecision (withJob .pending plate (area1 .ready 7 none (bank0 (running1 on))))
    (vget s.slots 0).state = .starting ∧ (vget s.slots 0).gen = 8 ∧ (vget s.atb.areas 1).owner = some 0 ∧
    (vget (after (exec .jobStarted s)).slots 0).state = .active ∧
    (after (exec .jobStarted s)).rpu.queue.map Report.body = [.jobStarted 8 2] := by decide

/-- R10, R11: an area of generation 255 is swept; its one outstanding burst answered, the job takes generation 1. -/
theorem test_sweep :
    let s := startDecision (withJob .pending plate (area1 .ready 255 none (bank0 (running1 on))))
    s.mpa.bulk.map (fun t => (t.addr, t.bytes.length)) = [(0x100000000, 256)] ∧
    let w := granted .sweep true { s with mpa := Mpa.reset, atb := { s.atb with sweep := some ⟨0, 1, 256⟩ } }
    (vget (after (exec (.sweepBurstResponse 5 .okay) w)).atb.areas 1).gen = 1 ∧
    (vget (after (exec (.sweepBurstResponse 5 .slverr) w)).atb.areas 1).state = .needsClear := by decide +kernel

/-- Section 4.11: a due PLATE_GONE end waits for report room. -/
theorem test_job_ended :
    let s := failDue 0 .plateGone (active plate)
    (vget (after (exec .jobEnded (queued 8 s))).slots 0).state = .active ∧
    (vget (after (exec .jobEnded (queued 7 s))).slots 0).state = .failed := by decide

/-- R163: the answer to a stopped issuer's transaction is absorbed. -/
theorem test_stopped :
    let s := after (exec (.stoppedIssuerResponse 5 (.write .decerr)) (granted (.stopped true) true on))
    s.mpa.granted = [] ∧ s.rpu.memerrSeen = true := by decide

/-! ### Capture, sequencing, merging -/

/-- R32: a beat of eight samples enters the pixel queue; with TEE 0 the M-port sees nothing, and the write is OKAY. -/
theorem test_capture :
    let s := after (exec (.captureBeat (beat (hdr 0x40000010) 0 0x0001_0002)) (windows (active plate)))
    s.mge.pixels.map Sample.idx = [8, 9, 10, 11, 12, 13, 14, 15] ∧ (s.mge.pixels.map Sample.raw).take 2 = [2, 1] ∧
    s.mpa.sys = [] ∧ s.wmu.out = [.writeResp 1 0 .okay] := by decide

/-- R33: with 7 reports queued the beat is held; with room again it is taken. -/
theorem test_capture_held :
    let s := after (exec (.captureBeat (beat (hdr 0x40000010) 0 0)) (windows (queued 7 (active plate))))
    s.mge.pixels = [] ∧ s.wmu.held.length = 1 ∧ s.rpu.captureStalled = true ∧
    (after (exec .heldCaptureBeatTaken (queued 6 s))).mge.pixels.length = 8 := by decide

/-- A held capture beat: the report queue lacked room when it came. -/
def holding : State := after (exec (.captureBeat (beat (hdr 0x40000010) 0 0)) (windows (queued 7 (active plate))))

/-- R150: an ISSUED behind the hold waits, and is handed after the held beat. -/
theorem test_hand_behind_hold :
    let s := after (exec (.issued 2) holding)
    s.cin.queue = [] ∧ s.wmu.held.length = 2 ∧
    (after (exec .heldCaptureBeatTaken (queued 6 s))).cin.queue = [2] := by decide

/-- R188: a LOAD_JOB written behind the hold in one burst is taken at its ISSUED byte, with the former 0 of its record
address at offset 16, although the next beat carries another. -/
theorem test_take_at_hand_over :
    let b0 := beat (hdr 0x20000000 3) 0 0x00000001_0000_0401_0000000000000001
    let b1 := beat (hdr 0x20000000 3) 1 0x3000000080
    let s := after (exec (.commandPageWrite b1) (after (exec (.commandPageWrite b0) holding)))
    let t := after (exec .heldCaptureBeatTaken (queued 6 s))
    t.mpa.bulk.map (fun x => (x.addr, x.len)) = [(0, 128)] ∧ (vget t.slots 1).state = .fetching ∧
    sget t.cin.shadow 16 = 0x80 := by decide +kernel

/-- A write of a CAPTURE window as S-port write 3. -/
def written (passed : Bool) (s : State) : State :=
  { s with wmu := { s.wmu with writes := [⟨3, hdr 0x40000010, .capture 0x40000000, [⟨0, 0⟩], true, false, none, passed, none, false⟩] } }

/-- R158: the answer to a teed copy is absorbed; that of a write with a passed beat is returned. -/
theorem test_teed_copy :
    (after (exec (.teedCopyResponse 5 .slverr) (granted (.capWrite 3) true (written false on)))).wmu.out = [] ∧
    (after (exec (.teedCopyResponse 5 .slverr) (granted (.capWrite 3) true (written false on)))).rpu.memerrSeen = true ∧
    (after (exec (.passThroughResponse 5 (.write .slverr)) (granted (.capWrite 3) true (written true on)))).wmu.out =
      [.writeResp 1 3 .slverr] := by decide

/-- R35, R36: index 0 of the frame begins the attempt and adds to the reference sum; S sets the held mark. -/
theorem test_reference_sample :
    let q := (after (exec .sampleTake (pixel 0 0xFFFF (active plate)))).mge.seq
    q.att = .reference ∧ q.refSum = 16383 ∧ q.refCount = 1 ∧ q.sat = true ∧ q.count = 1 := by decide

/-- R35: an image sample in WAITING is an ORDER fault. -/
theorem test_order_fault :
    (after (exec .sampleTake (pixel 128 1100 (active plate)))).mge.seq.att = .discarding := by decide

/-- R34: W × (H + R) = 4,224 is the first stray index. -/
theorem test_stray :
    let s := putSeq { Seq.idle with att := .image, count := 1 } (active plate)
    (after (exec .sampleTake (pixel 4224 0 s))).mge.seq.stray = 1 ∧
    (after (exec .sampleTake (pixel 4223 1100 s))).mge.seq.stray = 0 := by decide

/-- The last reference sample but one has been counted. -/
def lastReference (s : State) : State :=
  putSeq { Seq.idle with att := .reference, count := 127, refSum := 127 * 12000, refCount := 127, depth := some 2 } s

/-- R37: the 128th reference sample makes the verdict: 11,744 × 1024 under a STEADY lamp at E 1 is out of its band. -/
theorem test_verdict :
    let s := after (exec .sampleTake (pixel 1 12000 (lastReference (active plate))))
    s.mge.seq.meas = some (.level 12025856) ∧ s.mge.seq.att = .discarding ∧ s.mge.seq.recorded = some .lamp ∧
    s.lamp.state = .settling := by decide

/-- R1, R18: the first image sample's merge reads the cell at the area's base. -/
theorem test_admitted :
    let s := putSeq { Seq.idle with att := .image, count := 128, k := 1 } (active plate)
    let t := after (exec .sampleTake (pixel 129 3700 s))
    t.mpa.cell.map (fun x => (x.addr, x.len, x.write)) = [(0x100000008, 8, false)] ∧
    (t.mge.port.map CellAcc.use) = [.merge ⟨3700, 1, 4, 6, 5, 18022, 2, false, 0, Sensor.reset, true⟩] := by decide

/-- R80: a FLAT job's sample at E 1 adds (v - B) × 1024 to its tile. -/
theorem test_flat_sample :
    let s := putSeq { Seq.idle with att := .image, count := 128 } (withJob .active flat (running1 on))
    (after (exec .sampleTake (pixel 128 1256 s))).tsa = ⟨[(0, 1024000)], [(0, 1)], []⟩ := by decide

/-- Table 2-5: exposure 1 of the mid-tone pixel read from DRAM and written back. -/
theorem test_merge_read :
    let s := granted (.cellRead 3) false (port .reading (merge 1 4 6 3700) (active plate))
    ((after (exec (.mergeReadResponse 5 (rd 0x00100202_0000E818)) s)).mpa.cell.map MTxn.bytes) =
      [[0x64, 0xAE, 0x03, 0, 8, 2, 0x21, 0]] ∧
    (after (exec (.mergeReadResponse 5 (rd 0 .slverr)) s)).mge.seq.memerr = 1 ∧
    (after (exec (.mergeReadResponse 5 (rd 0x00220202_0000E818)) s)).mge.seq.dup = 0 ∧
    (after (exec (.mergeReadResponse 5 (rd 0x00110202_0000E818)) s)).mge.seq.dup = 1 := by decide

/-- R28, Table 2-4: the write's answer hands the outcome, an error in it counts. -/
theorem test_merge_write :
    let s := granted (.cellWrite 3) true (port (.writing .rejected) (merge 1 4 6 3700) (active plate))
    let q := (after (exec (.mergeWriteResponse 5 .slverr) s)).mge.seq
    q.done = 1 ∧ q.rejects = 1 ∧ q.memerr = 1 ∧ (after (exec (.mergeWriteResponse 5 .okay) s)).mge.port = [] := by decide

/-- R44: a SHORT attempt under RETAKE_LIM 1 is retaken, the second fails the job, each + 8. -/
theorem test_failed_attempt :
    let s (r : Nat) := putSeq { Seq.idle with att := .image, retakes := r, depth := some 2, endDue := some .byCount } (active plate)
    let t := after (exec .attemptEndTaken (s 0))
    t.mge.seq.att = .waiting ∧ t.mge.seq.retakeMark = true ∧ t.cec.value = 8 ∧
    t.rpu.queue.map Report.body = [.attemptFailed 0 .short 1] ∧
    (vget (after (exec .attemptEndTaken (s 1))).slots 0).state = .failed := by decide

/-- The attempt end by count of exposure k, every pixel done. -/
def closing (k : Nat) (s : State) : State :=
  putSeq { Seq.idle with att := .image, k := k, done := 4096, depth := some 2, endDue := some .byCount } s

/-- R47, R94: exposure 0 closes into the wait for exposure 1; exposure 1, the last, into the finish scan. -/
theorem test_close :
    (after (exec .attemptEndTaken (closing 0 (active plate)))).mge.seq.k = 1 ∧
    (vget (after (exec .attemptEndTaken (closing 1 (active plate)))).slots 0).state = .finishing ∧
    (after (exec .attemptEndTaken (closing 1 (active plate)))).mpa.cell.map MTxn.len = [256] := by decide

/-- R43: the frame gap of an attempt; R50: the exposure wait discards nothing of an attempt but fails a waiting job. -/
theorem test_timers :
    (after (exec .frameGapExpiry (putSeq { Seq.idle with att := .image, gap := ⟨0, true⟩ } (active plate)))).mge.seq.endDue =
      some .gap ∧
    ((vget (after (exec .exposureWaitExpiry (putSeq { Seq.idle with wait := ⟨0, true⟩ } (active plate)))).slots 0).endDue.map
      JobEnd.reason) = some .timeout := by decide

/-! ### Finishing and rendering -/

/-- The finish scan with one read outstanding, of the last 4 cells of 4,096 or of earlier ones. -/
def scanning (next : Nat) (j : JobRecord) : State :=
  let s := withJob .finishing j (area1 .ready 2 (some 0) (bank0 (running1 on)))
  granted (.cellRead 3) false { s with
    scan := { Scan.idle with scanning := true, next := next },
    mge := { s.mge with port := [⟨3, 0x100007FE0, 32, .scan, .reading⟩] } }

/-- Table 6-2: a cell with data, a gap with RETAKE, and an unreadable beat; the last answer makes the end due. -/
theorem test_finish_scan :
    let beats := [rd 0x90_000200_00000000_102202080003AE64, rd 0 .slverr]
    let s := after (exec (.finishScanResponse 5 beats) (scanning 4096 plate))
    s.scan.nData = 2 ∧ s.scan.nGap = 1 ∧ s.scan.nRetake = 1 ∧ s.scan.nUnread = 2 ∧
    ((vget s.slots 0).endDue.map JobEnd.counts) = some ⟨2, 1, 0, 1, 0, 2⟩ ∧
    (vget (after (exec (.finishScanResponse 5 beats) (scanning 4092 plate))).slots 0).endDue = none := by decide

/-- A FLAT job of one tile whose samples have a mean. -/
def finishingFlat (mean : Nat) (c : GainComp) : State :=
  { withJob .finishing flat (running1 on) with
    tsa := { flatSum := [(0, 4096 * mean)], flatCount := [(0, 4096)], rejects := [] },
    fst := { State.reset.fst with comp := some c } }

/-- R83: OPEN of 1023 is DIM, of 1024 not; R84, R85: the one tile has the unity gain. -/
theorem test_limit :
    ((vget (after (exec .limitTest (finishingFlat 32767 .first))).slots 0).endDue.map JobEnd.reason) = some .dim ∧
    (after (exec .limitTest (finishingFlat 32768 .first))).fst.comp = some (.second 32768 1 0) ∧
    vget (after (exec .gainComputationComplete (finishingFlat 32768 (.second 32768 1 0)))).fst.banks 1 =
      ⟨.building, 1, 1, 32768, 1024, [(0, 16384)]⟩ := by decide

/-- A finished job in slot 0. -/
def doneJob : State := windows (withJob .done plate (area1 .ready 2 (some 0) (bank0 on)))

/-- Section 6.4: a D16 beat reads eight cells, from the pixel of its offset on. -/
theorem test_result_read :
    let s := after (exec (.resultRead (hdr 0x60000010)) doneJob)
    (s.mpa.cell.map MTxn.addr) = (List.range 8).map (fun i => 0x100000040 + 8 * i) ∧
    (after (exec (.resultRead (hdr 0x60001FF0)) doneJob)).mpa.cell.length = 8 ∧
    (after (exec (.resultRead (hdr 0x60002000)) doneJob)).wmu.out = [.readBeat 1 0 0 ⟨0, .okay⟩] := by decide

/-- A rendered read 2 of a beat that waits for one pixel's cell, access 3. -/
def rendering (s : State) : State :=
  let c : Capt := ⟨2, 400000, 64, 64, .positive, 0x100000000, 0x60000000, .d16, 1024, 13312⟩
  granted (.cellRead 3) false { s with
    wmu := { s.wmu with reads := [⟨2, hdr 0x60000000, .render c [⟨0, [0], [], false⟩], 0⟩] },
    mge := { s.mge with port := [⟨3, 0x100000000, 8, .render 2 0 0, .reading⟩] } }

/-- Table 6-5: the mid-tone cell, 241,252 / 8 = 30,156, is 14,666 in D16; an error sets MEMERR_SEEN. -/
theorem test_render_cell :
    (after (exec (.renderCellResponse 5 (rd 0x102202080003AE64)) (rendering doneJob))).wmu.out =
      [.readBeat 1 2 0 ⟨14666, .okay⟩] ∧
    (after (exec (.renderCellResponse 5 (rd 0 .decerr)) (rendering doneJob))).rpu.memerrSeen = true := by decide

/-! ### Monitors -/

/-- R127, R128: the first reference samples of a looked-at beat are counted; under HOLD the beat is plain memory. -/
theorem test_monitor_beat :
    (totalsOf (after (exec (.monitorBeat (beat (hdr 0x50000000) 0 0x2EE0)) (windows (running1 on)))) 2) =
      ⟨8, 12000, 8, false, 0, 0⟩ ∧
    (after (exec (.monitorBeat (beat (hdr 0x50000000) 0 0x2EE0)) (windows on))).pdt.totals = on.pdt.totals ∧
    (after (exec (.monitorBeat (beat (hdr 0x50000000) 0 0x2EE0)) (windows on))).mpa.sys.length = 1 := by decide

/-- R67, R132: the plate gone at the third vote makes the active job's failure due. -/
theorem test_presence_change :
    let s := active plate
    let t := after (exec (.presenceChange .absent) { s with pdt := { s.pdt with debounce := 2, dir := .absent } })
    t.pdt.presence = .absent ∧ ((vget t.slots 0).endDue.map JobEnd.reason) = some .plateGone ∧ t.rpu.fPresence = true := by
  decide

/-- R122, R61, R144: staleness, the guard time, and the 64th steady measurement. -/
theorem test_lamp_events :
    (after (exec .stalenessExpiry (active plate))).lamp.state = .settling ∧
    (let s := active plate
     (after (exec .guardTime { s with lamp := { s.lamp with guardDue := true } })).lamp.guardDue = false ∧
     (after (exec .recoveryComplete { s with cec := ⟨256, true⟩, lamp := { s.lamp with recovery := 63 } })).cec = ⟨0, false⟩) := by
  decide

/-! ### Reports and the bus path -/

/-- R176: a flag is served with 3 free entries, not with 2. -/
theorem test_serve_flag :
    let s (n : Nat) := queued n (setFlag .lamp (running1 on))
    (after (exec (.coalescedReportServed .lamp) (s 5))).rpu.queue.length = 6 ∧
    (after (exec (.coalescedReportServed .lamp) (s 6))).rpu.queue.length = 6 := by decide

/-- R178: record 5 is written at the ring's base + 140h; a ring of 63 unconsumed records takes none. -/
theorem test_record_write :
    let s (tail : Nat) := { queued 1 (running1 on) with rpu := { (queued 1 (running1 on)).rpu with head := 5, tail := tail } }
    ((after (exec .reportRecordWrite (s 5))).mpa.note.map (fun t => (t.addr, t.len))) = [(0x20001140, 64)] ∧
    (after (exec .reportRecordWrite (s 6))).mpa.note = [] := by decide

/-- R178: HEAD advances past 63 to 0, and its write goes to the page's offset 200h; R181: its answer posts it. -/
theorem test_record_response :
    let s := queued 1 (running1 on)
    let t := after (exec (.reportRecordResponse 5 .okay) (granted .record true { s with rpu := { s.rpu with head := 63, busy := some true } }))
    t.rpu.head = 0 ∧ t.rpu.queue = [] ∧ (t.mpa.note.map (fun x => (x.addr, x.bytes))) = [(0x20000200, [0, 0, 0, 0])] ∧
    (after (exec (.headWriteResponse 5 .okay) (granted (.head 7 1 false) true s))).rpu.posted = 7 := by decide

/-- R159: a pass-through write and read are forwarded and their answers returned. -/
theorem test_pass_through :
    let s := after (exec (.passThrough (.read (hdr 0x80000000))) on)
    s.mpa.sys.map MTxn.addr = [0x80000000] ∧
    (after (exec (.passThroughResponse 5 (.read [rd 7])) (granted (.sysRead 0) false { s with mpa := Mpa.reset }))).wmu.out =
      [.readBeat 1 0 0 ⟨7, .okay⟩] ∧
    (after (exec (.passThrough (.write (hdr 0x80000000) [⟨1, 0xFFFF⟩])) on)).mpa.sys.map MTxn.write = [true] := by decide

/-- R148: a crossing burst is not forwarded. -/
theorem test_illegal : (after (exec (.illegalTransaction true (hdr 0x40000F80 15)) (windows on))).mpa.sys = [] ∧
    (after (exec (.illegalTransaction true (hdr 0x40000F80 15)) (windows on))).wmu.out.length = 1 := by decide

/-- An arbiter with a request of each class, last granted CELL. -/
def asking (last : MClass) : State :=
  let x (c : MClass) : MTxn := ⟨0, .sysWrite 9, c, true, 0, 16, []⟩
  { on with mpa := ⟨[x .note], [x .sys], [x .cell], [x .bulk], [], last⟩ }

/-- R162: NOTE first, which leaves the rotation; without it BULK follows CELL. -/
theorem test_grant :
    let s := after (exec (.mpaGrant true true) (asking .cell))
    s.mpa.granted.map MTxn.cls = [.note] ∧ s.mpa.last = .cell ∧
    (after (exec (.mpaGrant true true) s)).mpa.granted.map MTxn.cls = [.note, .bulk] ∧
    (after (exec (.mpaGrant true false) (asking .cell))).mpa.granted = [] := by decide

/-- R114: the timebase wraps; R61: the guard time is due at the tick it is reached. -/
theorem test_tick :
    (after (exec .timebaseTick { on with time := 0xFFFFFFFF })).time = 0 ∧
    (let s := active plate
     (after (exec .timebaseTick { s with time := 9999, lamp := { s.lamp with steady := ⟨0, false⟩ } })).lamp.guardDue = true ∧
     (after (exec .timebaseTick { s with time := 9998, lamp := { s.lamp with steady := ⟨0, false⟩ } })).lamp.guardDue = false) := by
  decide

/-! ### Witnesses: a concrete state and operands for the hypotheses of each statement -/

/-- The intake takes slot 0, whose CODE names `c`. -/
abbrev Takes (c : Cmd) (s : State) : Prop := takes s = some 0 ∧ cmdOf s 0 = some c

/-- A beat is presented, and its write satisfies `q`. -/
def presents (b : WBeat) (ours : WritePath → Bool) (s : State) (q : SWrite → Bool) : Bool :=
  match present b ours s with
  | some (no, s') => match sWrite? no s' with | some w => q w | none => false
  | none => false

/-- What the check says as the statements say it. -/
theorem of_presents {b : WBeat} {ours : WritePath → Bool} {s : State} {q : SWrite → Bool}
    (h : presents b ours s q = true) : ∃ no s' w, present b ours s = some (no, s') ∧ sWrite? no s' = some w ∧ q w = true := by
  unfold presents at h
  split at h
  · split at h
    · exact ⟨_, _, _, ‹_›, ‹_›, h⟩
    · cases h
  · cases h

theorem witness_StepRunsFrontCommand :
    ({ on with pending := [.run, .hold] } : State).pending = .run :: [.hold] ∧ on.pending = [] := by decide

theorem witness_ResetReleaseSetsCommandPage : State.reset.resetN = false ∧ on.resetN = true := by decide

theorem witness_HandedBytesReplaceShadow : swf (cmd 0x0101 [1, 2] on).cin.shadow = true := by decide

/-- A first beat, the second of a burst whose write has been requested, and a first beat behind a held one. -/
theorem witness_PageBeatForwardedAndHanded :
    let s := after (exec (.commandPageWrite (beat (hdr 0x20000FE0 1) 0 0)) on)
    on.wmu.held = [] ∧ s.wmu.held = [] ∧ holding.wmu.held ≠ [] ∧
    (∃ no s' w, present (beat (hdr 0x20000000) 0 1) WritePath.isPage on = some (no, s') ∧ sWrite? no s' = some w ∧
      decide (w.path = .page ∧ w.answer = none ∧ w.sent = false ∧ w.mReq = false) = true) ∧
    (∃ no s' w, present (beat (hdr 0x20000FE0 1) 1 1) WritePath.isPage s = some (no, s') ∧ sWrite? no s' = some w ∧
      decide (w.path = .page ∧ w.answer = none ∧ w.sent = false ∧ w.mReq = true) = true) ∧
    (∃ no s' w, present (beat (hdr 0x20000000) 0 1) WritePath.isPage holding = some (no, s') ∧ sWrite? no s' = some w ∧
      decide (w.path = .page) = true) :=
  ⟨by decide, by decide, by decide, of_presents (by decide), of_presents (by decide), of_presents (by decide)⟩

/-- Beats that are presented: a first one, the second of four and the last of two; and beats that are not. -/
theorem witness_BeatsPresented :
    let two := hdr 0x20000FE0 1
    let four := hdr 0x20000FC0 3
    let s (h : TxnHdr) := after (exec (.commandPageWrite (beat h 0 0)) on)
    ((hdr 0x40000F80 15).illegal = true ∧ (hdr 0x20000000).beats ≤ 1 ∧ on.wmu.cur = none ∧ (s two).wmu.cur ≠ none) ∧
    (two.illegal = false ∧ WritePath.isPage (writePathOf on two) = true ∧ WritePath.isCapture (writePathOf on two) = false ∧
      two.beats = 2 ∧ (hdr 0x20000000).beats = 1) ∧
    ((s two).wmu.cur = some 0 ∧ ((sWrite? 0 (s two)).map fun w => (w.hdr, w.path, presented w (s two))) = some (two, .page, 1)) ∧
    (four.beats = 4 ∧ (s four).wmu.cur = some 0 ∧
      ((sWrite? 0 (s four)).map fun w => (w.hdr, w.path, presented w (s four))) = some (four, .page, 1)) := by decide

/-- The first or last address of a window of each kind, and the addresses around them. -/
theorem witness_WindowsClassify :
    let s := windows on
    WindowsDisjoint s ∧
    FallsIn s (hdr 0x20000FF0) 0 (Win.page 0x20000000) ∧ FallsIn s (hdr 0x4FFFFFF0) 1 ⟨.capture, 0x40000000, 0x10000000⟩ ∧
    FallsIn s (hdr 0x50000000) 2 ⟨.monitor 640 480 2 8, 0x50000000, 0x100000⟩ ∧
    FallsIn s (hdr 0x60000000) 3 ⟨.result 0 .d16, 0x60000000, 0x10000000⟩ ∧
    FallsInNone s (hdr 0x1FFFFFF0) ∧ FallsInNone s (hdr 0x50100000) := by
  refine ⟨windowsDisjoint_of (by decide), ?_, ?_, ?_, ?_, fallsInNone_of (by decide), fallsInNone_of (by decide)⟩ <;>
    (unfold FallsIn Win.Holds; decide)

theorem witness_IssuedAppendsAndWithdrawnLeaves :
    let s := cmd 0x0101 [] (putCmdSlot 2 ⟨true, false, true⟩ on)
    let r := { s with cin := { s.cin with long := some (.hold 1) } }
    holding.wmu.held ≠ [] ∧ s.wmu.held = [] ∧ swf s.cin.shadow = true ∧ r.wmu.held = [] ∧ swf r.cin.shadow = true ∧
    0 ∈ (dueTakes r).cin.queue ∧ 0 ∉ (dueTakes s).cin.queue ∧ (cmdSlot (dueTakes s) 2).opened = true ∧
    2 ∉ (dueTakes s).cin.queue ∧ 7 ∉ (dueTakes s).cin.queue ∧ (cmdSlot (dueTakes s) 7).opened = false := by decide

theorem witness_ReportTailTakenModulo64 : holding.wmu.held ≠ [] ∧ (cmd 0x0101 [] on).wmu.held = [] ∧
    swf (cmd 0x0101 [] on).cin.shadow = true := by decide

/-- RESET_PART behind slot 3; the oldest slot with room, and without; and both beside a LOAD_JOB, or behind a HOLD. -/
theorem witness_ResetPartChosenFirst :
    let s := cmd 0x03FF [] on
    let r := { s with cin := { s.cin with queue := [3, 0, 1] } }
    let load (x : State) := setLong (some (.loadJob 2 1)) x
    let t := cmd 0x0304 [] (queued 8 on)
    let u := cmd 0x0304 [] (queued 7 on)
    let other := cmd 0x0301 [] on
    (r.cin.queue = [3] ++ 0 :: [1] ∧ (∀ m ∈ [(3 : Fin 8)], cmdOf r m ≠ some .resetPart) ∧ cmdOf r 0 = some .resetPart ∧
      r.cin.long = none ∧ (load r).cin.queue = [3] ++ 0 :: [1] ∧ cmdOf (load r) 0 = some .resetPart ∧
      (load r).cin.long = some (.loadJob 2 1)) ∧
    (t.cin.queue = [] ++ 0 :: [] ∧ cmdOf t 0 ≠ some .resetPart ∧ t.free < roomFor (cmdOf t 0)) ∧
    (u.cin.queue = [] ++ 0 :: [] ∧ cmdOf u 0 ≠ some .resetPart ∧ u.cin.long = none ∧ roomFor (cmdOf u 0) ≤ u.free) ∧
    ((load u).cin.queue = [] ++ 0 :: [] ∧ cmdOf (load u) 0 = some .snapshot ∧ roomFor (cmdOf (load u) 0) ≤ (load u).free) ∧
    ((load other).cin.queue = [] ++ 0 :: [] ∧ cmdOf (load other) 0 = some .run) ∧
    ((setLong (some (.hold 2)) r).cin.long = some (.hold 2) ∧ on.cin.queue = []) ∧
    (r.cin.takeDue = true ∧ on.cin.takeDue = false ∧
      ∀ p ∈ [((8 : Nat), (1 : Byte)), (64, 2), (512, 1)], p.1 < 512 → p.1 % 64 = 0 → p.2 ≠ 1 ∧ p.2 ≠ 3) := by
  decide

theorem witness_CommandTakeRunsNamedCommand :
    takes (cmd 0x0999 [] on) = some 0 ∧ cmdOf (cmd 0x0999 [] on) 0 = none ∧ takes on = none ∧ Takes .setSensor (cmd 0x0101 [] on) ∧
    12 ≤ 12 ∧ 12 + 52 ≤ 64 ∧ 63 + 1 ≤ 64 := by decide

/-- Two RESET_PARTs wait, each behind others: slot 2 for slots 0 and 1, whose writes may go at the answer, and slot 5 for slots 4
and 2, of which 4 still waits for its own TAKEN write. -/
theorem witness_WaitsKept :
    let s := putCmdSlot 4 ⟨true, false, true⟩ (putCmdSlot 0 ⟨true, true, true⟩ (granted (.taken 0) true on))
    let t := { s with cin := { s.cin with waits := [⟨0, .reset, []⟩, ⟨1, .reset, []⟩, ⟨2, .ok, [1, 0]⟩, ⟨4, .reset, []⟩, ⟨5, .ok, [4, 2]⟩] } }
    let u := after (exec (.takenWriteResponse 5 .okay) t)
    grantedKind 5 t = some (.taken 0) ∧ u.cin.waits = [⟨4, .reset, []⟩, ⟨5, .ok, [4, 2]⟩] ∧
    u.mpa.note.map MTxn.addr = [pageBase on, pageBase on + 64, pageBase on + 128] := by decide

/-- Four commands wait: slots 0 and 1 for nothing else, slot 4 for its own TAKEN write, and slot 2, a RESET_PART, for 0 and 1. -/
theorem witness_StatusAnswersReleaseAndClose :
    let s := putCmdSlot 4 ⟨true, false, true⟩ (putCmdSlot 0 ⟨true, true, true⟩ (granted (.taken 0) true on))
    let ds : List DoneWait := [⟨0, .ok, []⟩, ⟨1, .reset, []⟩]
    let t := { s with cin := { s.cin with waits := ds ++ ⟨2, .ok, [1, 0]⟩ :: [⟨4, .busy, []⟩] } }
    grantedKind 5 t = some (.taken 0) ∧ t.cin.waits = ds ++ ⟨2, .ok, [1, 0]⟩ :: [⟨4, .busy, []⟩] ∧
    (∀ e ∈ ds ++ [⟨4, .busy, []⟩], e.after = []) ∧ s.cin.waits = [] ∧
    grantedKind 5 (granted (.done 7 .busy true) true on) = some (.done 7 .busy true) := by decide

theorem witness_SetSensorSetsWholeProfile : Takes .setSensor (cmd 0x0101 [0xFF, 7, 0xFF, 3, 0xFF, 0x0B] on) := by decide

theorem witness_SetLampAndLadderSetWhole : Takes .setLamp (cmd 0x0102 [15, 64] on) ∧
    Takes .setLadder (cmd 0x0103 [0, 0, 0, 0, 1, 1, 1, 1, 8] on) := by decide

/-- SET_WINDOW of a window number and kind, with an 8-byte base and size. -/
def setWin (n k slot fmt : Nat) (base size : List Nat) (rest : List Nat := []) : State :=
  cmd 0x0104 ([n, k, slot, fmt] ++ base ++ size ++ rest) on

/-- 2^40 - 4096, as 8 bytes; and 4096, and 64 GiB. -/
def lastPage : List Nat := [0, 0xF0, 0xFF, 0xFF, 0xFF, 0, 0, 0]
def onePage : List Nat := [0, 0x10, 0, 0, 0, 0, 0, 0]
def gib64 : List Nat := [0, 0, 0, 0, 0x10, 0, 0, 0]

theorem witness_SetWindowChecksThenSets :
    let n (s : State) := (takenOf s 0).arg 12 1
    let k (s : State) := (takenOf s 0).arg 13 1
    let b (s : State) := (takenOf s 0).arg 16 8
    let z (s : State) := (takenOf s 0).arg 24 8
    let run := setWin 1 1 0 0 onePage onePage |>.setDevice .run
    let num := setWin 16 1 0 0 onePage onePage
    let ali := setWin 15 3 0 0 [0xFF, 0x0F, 0, 0, 0, 0, 0, 0] onePage
    let siz := setWin 1 1 0 0 (1 :: onePage.drop 1 |>.set 0 0) gib64
    let big := setWin 1 1 0 0 ([0, 0, 0, 0, 0xF0, 0, 0, 0]) ([0, 0x10, 0, 0, 0x10, 0, 0, 0])
    let kin := setWin 1 2 4 0 onePage onePage
    let hit := setWin 1 2 3 1 [0, 0, 0, 0x20, 0, 0, 0, 0] onePage
    let ok := setWin 15 1 0 0 lastPage onePage
    (Takes .setWindow run ∧ run.device ≠ .hold) ∧
    (Takes .setWindow num ∧ num.device = .hold ∧ n num = 16) ∧
    (Takes .setWindow ali ∧ 1 ≤ n ali ∧ n ali ≤ 15 ∧ 1 ≤ k ali ∧ k ali ≤ 3 ∧ b ali % 4096 ≠ 0) ∧
    (Takes .setWindow siz ∧ b siz % 4096 = 0 ∧ z siz % 4096 = 0 ∧ z siz = 68719476736 ∧ b siz + z siz ≤ 2 ^ 40) ∧
    (Takes .setWindow big ∧ b big % 4096 = 0 ∧ z big % 4096 = 0 ∧ 68719476736 < z big ∧ 2 ^ 40 < b big + z big) ∧
    (Takes .setWindow kin ∧ b kin % 4096 = 0 ∧ z kin = 4096 ∧ (winKindArg (takenOf kin 0)).isSome = false) ∧
    (Takes .setWindow hit ∧ (winKindArg (takenOf hit 0)).isSome = true ∧ b hit % 4096 = 0 ∧ z hit = 4096 ∧
      b hit + z hit ≤ 2 ^ 40 ∧ ¬ ClearOfWindows hit (toFin? 16 (n hit)) (b hit) (z hit)) ∧
    (Takes .setWindow ok ∧ n ok = 15 ∧ k ok = 1 ∧ b ok % 4096 = 0 ∧ z ok = 4096 ∧ b ok + z ok = 2 ^ 40 ∧
      (winKindArg (takenOf ok 0)).isSome = true ∧ ClearOfWindows ok (toFin? 16 (n ok)) (b ok) (z ok) ∧
      ClearOfAreas ok none (b ok) (z ok) ∧ ClearOfRing ok (b ok) (z ok)) := by
  refine ⟨by decide, by decide, by decide, by decide, by decide, by decide,
    ⟨by decide, by decide, by decide, by decide, by decide, fun h => ?_⟩,
    ⟨by decide, by decide, by decide, by decide, by decide, by decide, by decide, ?_, ?_, ?_⟩⟩
  · exact h 0 (Win.page 0x20000000) (by decide) (by decide) (by decide)
  · exact clearOfWindows_of (by decide)
  · exact clearOfAreas_of (by decide)
  · exact clearOfRing_of (by decide)

/-- The kinds of SET_WINDOW: capture, RESULT windows of slots 3 and 4 and of a format 2, and MONITOR windows of height 9216
and 9217. -/
theorem witness_SetWindowKinds :
    let mon (h : Nat) := takenOf (setWin 2 3 0 0 onePage onePage ([0, 0x30] ++ [h % 256, h / 256] ++ [16, 0, 0, 4])) 0
    let res (slot f : Nat) := takenOf (setWin 2 2 slot f onePage onePage) 0
    (takenOf (setWin 2 1 0 0 onePage onePage) 0).arg 13 1 = 1 ∧
    ((res 3 0).arg 13 1 = 2 ∧ (res 3 0).arg 14 1 = (3 : Fin 4).1 ∧ (res 3 0).arg 15 1 = 0 ∧ (res 3 1).arg 15 1 = 1 ∧
      1 < (res 3 2).arg 15 1 ∧ 3 < (res 4 0).arg 14 1) ∧
    ((mon 9216).arg 13 1 = 3 ∧ (mon 9216).arg 32 2 = 12288 ∧ (mon 9216).arg 34 2 = 9216 ∧ (mon 9216).arg 36 1 = 16 ∧
      (mon 9216).arg 38 2 = 1024 ∧ (mon 9217).arg 34 2 = 9217) := by decide

theorem witness_ClearMatchAndDrop :
    let a (s : State) := (takenOf s 0).arg 12 1
    (Takes .clearWindow (cmd 0x0105 [15] on) ∧ a (cmd 0x0105 [15] on) = (15 : Fin 16).1 ∧ on.device = .hold) ∧
    (Takes .clearWindow (cmd 0x0105 [16] on) ∧ a (cmd 0x0105 [16] on) = 16) ∧
    Takes .setMatch (cmd 0x0106 [1] on) ∧ Takes .setMatch (cmd 0x0106 [2] on) ∧
    (Takes .flatDrop (cmd 0x0203 [1] on) ∧ a (cmd 0x0203 [1] on) = (1 : Fin 2).1) ∧
    (Takes .flatDrop (cmd 0x0203 [2] on) ∧ a (cmd 0x0203 [2] on) = 2) := by decide

/-- DEFINE_AREA of an area, with an 8-byte base and size, in a state. -/
def define (n : Nat) (base size : List Nat) (s : State) : State := cmd 0x0107 ([n, 0, 0, 0] ++ base ++ size) s

theorem witness_DefineAreaChecksThenDefines :
    let n (s : State) := (takenOf s 0).arg 12 1
    let b (s : State) := (takenOf s 0).arg 16 8
    let z (s : State) := (takenOf s 0).arg 24 8
    let zero := List.replicate 8 0
    let own := area1 .ready 2 (some 0) on
    let run := define 1 zero onePage (on.setDevice .run)
    let num := define 4 zero onePage on
    let bus := define 1 zero zero own
    let und := define 3 zero zero on
    let ali := define 1 zero [0xFF, 0x0F, 0, 0, 0, 0, 0, 0] on
    let siz := define 1 zero [0, 0x10, 0, 0x40, 0, 0, 0, 0] on
    let bsy := define 1 zero onePage own
    let hit := define 1 [0, 0, 0, 0x20, 0, 0, 0, 0] onePage on
    let ok := define 3 lastPage onePage on
    (Takes .defineArea run ∧ run.device ≠ .hold) ∧ (Takes .defineArea num ∧ num.device = .hold ∧ n num = 4) ∧
    (Takes .defineArea bus ∧ n bus = (1 : Fin 4).1 ∧ z bus = 0 ∧ (vget bus.atb.areas 1).owner ≠ none) ∧
    (Takes .defineArea und ∧ n und = (3 : Fin 4).1 ∧ z und = 0 ∧ (vget und.atb.areas 3).owner = none) ∧
    (Takes .defineArea ali ∧ z ali = 4095) ∧ (Takes .defineArea siz ∧ z siz % 4096 = 0 ∧ 1073741824 < z siz) ∧
    (Takes .defineArea bsy ∧ z bsy = 4096 ∧ (vget bsy.atb.areas 1).owner ≠ none) ∧
    (Takes .defineArea hit ∧ z hit = 4096 ∧ (vget hit.atb.areas 1).owner = none ∧ ¬ ClearOfWindows hit none (b hit) (z hit)) ∧
    (Takes .defineArea ok ∧ n ok = (3 : Fin 4).1 ∧ z ok = 4096 ∧ b ok + z ok = 2 ^ 40 ∧ (vget ok.atb.areas 3).owner = none ∧
      ClearOfAreas ok (some 3) (b ok) (z ok) ∧ ClearOfWindows ok none (b ok) (z ok) ∧ ClearOfRing ok (b ok) (z ok)) := by
  refine ⟨by decide, by decide, by decide, by decide, by decide, by decide, by decide,
    ⟨by decide, by decide, by decide, fun h => ?_⟩,
    ⟨by decide, by decide, by decide, by decide, by decide, ?_, ?_, ?_⟩⟩
  · exact h 0 (Win.page 0x20000000) (by decide) (by decide) (by decide)
  · exact clearOfAreas_of (by decide)
  · exact clearOfWindows_of (by decide)
  · exact clearOfRing_of (by decide)

theorem witness_SetReportsSetsRing :
    let b (s : State) := (takenOf s 0).arg 16 8
    let ok := cmd 0x0108 (argAddr 1 lastPage) on
    let wait := granted .record true ok
    let bad := cmd 0x0108 (argAddr 2 lastPage) on
    (Takes .setReports ok ∧ ok.device = .hold ∧ (takenOf ok 0).arg 12 1 ≤ 1 ∧ b ok % 4096 = 0 ∧ b ok + 4096 = 2 ^ 40 ∧
      ok.mpa.has isReportWrite = false ∧ ClearOfWindows ok none (b ok) 4096 ∧ ClearOfAreas ok none (b ok) 4096) ∧
    (Takes .setReports wait ∧ wait.mpa.has isReportWrite = true) ∧
    (Takes .setReports bad ∧ ¬ (takenOf bad 0).arg 12 1 ≤ 1) ∧
    (grantedKind 5 (granted (.head 0 1 true) true (setLong (some (.reportsHead 3)) on)) = some (.head 0 1 true) ∧
      (granted (.head 0 1 true) true (setLong (some (.reportsHead 3)) on)).cin.long = some (.reportsHead 3)) := by
  refine ⟨⟨by decide, by decide, by decide, by decide, by decide, by decide, ?_, ?_⟩, by decide, by decide, by decide⟩
  · exact clearOfWindows_of (by decide)
  · exact clearOfAreas_of (by decide)

theorem witness_FlatStoreWritesImage :
    let addr (s : State) := (takenOf s 0).arg 16 8
    let n (s : State) := (takenOf s 0).arg 12 1
    let at40 (k : Nat) (s : State) := cmd 0x0201 (argAddr k [0x40]) s
    let ok := at40 0 (bank0 on)
    let ali := cmd 0x0201 (argAddr 0 [0x3F]) (bank0 on)
    let inv := at40 1 (bank0 on)
    let far := cmd 0x0201 (argAddr 0 [0xE0, 0xFF, 0xFF, 0xFF, 0xFF]) (bank0 on)
    let edge := cmd 0x0201 (argAddr 0 [0xC0, 0xFF, 0xFF, 0xFF, 0xFF]) (bank0 on)
    let hit := cmd 0x0201 (argAddr 0 [0, 0, 0, 0x20]) (bank0 on)
    let run := ok.setDevice .run
    let num := at40 2 on
    let ans (done : Nat) (err : Bool) := granted .flatWrite true (setLong (some (.flatStore 0 0 0x40 done err)) (bank0 on))
    (Takes .flatStore ok ∧ ok.device = .hold ∧ n ok = (0 : Fin 2).1 ∧ addr ok = 64 ∧ (vget ok.fst.banks 0).state = .valid ∧
      pageBase ok = 0x20000000 ∧ ClearOfRing ok 64 34) ∧
    (Takes .flatStore run ∧ run.device ≠ .hold) ∧ (Takes .flatStore num ∧ n num = 2) ∧
    (Takes .flatStore ali ∧ addr ali = 63) ∧ (Takes .flatStore inv ∧ (vget inv.fst.banks 1).state ≠ .valid) ∧
    (Takes .flatStore edge ∧ addr edge % 64 = 0 ∧ addr edge + 34 ≤ 2 ^ 40) ∧
    (Takes .flatStore far ∧ 2 ^ 40 < addr far + 34) ∧
    (Takes .flatStore hit ∧ addr hit < pageBase hit + 4096 ∧ pageBase hit < addr hit + 34) ∧
    (grantedKind 5 (ans 34 false) = some .flatWrite ∧ (ans 34 false).cin.long = some (.flatStore 0 0 0x40 34 false) ∧
      grantedKind 5 (ans 33 true) = some .flatWrite) := by
  refine ⟨⟨by decide, by decide, by decide, by decide, by decide, by decide, ?_⟩, by decide, by decide, by decide, by decide,
    by decide, by decide, by decide, by decide⟩
  exact clearOfRing_of (by decide)

theorem witness_FlatFetchReadsHeader :
    let addr (s : State) := (takenOf s 0).arg 16 8
    let c (k : Nat) (a : List Nat) := cmd 0x0202 (argAddr k a) on
    let s := granted .flatHeader false (setLong (some (.flatHeader 0 1 0x40)) on)
    (Takes .flatFetch (c 1 [0x40]) ∧ (takenOf (c 1 [0x40]) 0).arg 12 1 = (1 : Fin 2).1 ∧ addr (c 1 [0x40]) = 64) ∧
    (Takes .flatFetch ((c 1 [0x40]).setDevice .run)) ∧ (Takes .flatFetch (c 2 [0x40]) ∧ 1 < (takenOf (c 2 [0x40]) 0).arg 12 1) ∧
    (Takes .flatFetch (c 0 [0x3F]) ∧ addr (c 0 [0x3F]) % 64 ≠ 0) ∧
    (Takes .flatFetch (c 0 [0, 0, 0, 0, 0, 1]) ∧ 2 ^ 40 < addr (c 0 [0, 0, 0, 0, 0, 1]) + 32) ∧
    (grantedKind 5 s = some .flatHeader ∧ s.cin.long = some (.flatHeader 0 1 0x40) ∧ [header, rd 0].length = 2 ∧
      anyErr [header, rd 0] = false ∧ anyErr [header, rd 0 .decerr] = true ∧
      field (respBytes [header, rd 0]) 0 2 = 1 ∧ field (respBytes [header, rd 0]) 2 2 = 4 ∧
      field (respBytes [header, rd 0]) 4 2 = 1 ∧ field (respBytes [header, rd 0]) 8 4 = 12600000 ∧
      field (respBytes [header, rd 0]) 12 4 = 12600000 / 32 ∧ field (respBytes [rd 2, rd 0]) 0 2 ≠ 1) := by decide

/-- The last gains with none else granted, of a fetch with and without an error, gains with more to request, and gains with
another read granted. -/
theorem witness_FlatFetchStoresGains :
    let s (done : Nat) (err : Bool) :=
      granted (.flatGain 0 4) false (setLong (some (.flatGains 0 0 0x40 4 1 12600000 393750 done err [])) on)
    let x := s 8 false
    let m (y : State) : Mpa := { y.mpa with granted := y.mpa.granted.filter (fun x => x.id != 5) }
    let two := { x with mpa := { x.mpa with granted := x.mpa.granted ++ [⟨6, .flatGain 4 4, .bulk, false, 0x70, 8, []⟩] } }
    grantedKind 5 x = some (.flatGain 0 4) ∧ x.cin.long = some (.flatGains 0 0 0x40 4 1 12600000 393750 8 false []) ∧
    [rd 0].length = ceilDiv (2 * 4) 16 ∧ anyErr [rd 0] = false ∧ anyErr [rd 0 .slverr] = true ∧ 2 * (4 * 1) ≤ 8 ∧
    grantedKind 5 (s 7 false) = some (.flatGain 0 4) ∧ (m x).has isFlatGain = false ∧
    ((s 7 true).cin.long = some (.flatGains 0 0 0x40 4 1 12600000 393750 7 true []) ∧ (m (s 7 true)).has isFlatGain = false) ∧
    (grantedKind 5 two = some (.flatGain 0 4) ∧ (m two).has isFlatGain = true) := by decide

theorem witness_RunEntersRun :
    let s := cmd 0x0301 [] on
    let t := { s with rpu := { s.rpu with ringSet := true, ringBase := 0x20001000 } }
    (Takes .run s ∧ s.rpu.ring = none) ∧ (Takes .run t ∧ t.device = .hold ∧ t.rpu.ring ≠ none) ∧
    (Takes .run (t.setDevice .run) ∧ (t.setDevice .run).device = .run) := by decide

theorem witness_ResumeArmsRecovery :
    let s := cmd 0x0303 [] { queued 8 (active plate) with cec := ⟨256, false⟩ }
    Takes .resume s ∧ s.cin.queue = [0] ∧ s.cin.long = none ∧ s.cin.takeDue = true ∧ levelOf s.cec.value = .halted := by decide

theorem witness_HoldEntryEndsJob :
    let a := cmd 0x0302 [] (active plate)
    let f := cmd 0x0302 [] (withJob .finishing plate (active plate))
    let d := failDue 0 .plateGone a
    let e := cmd 0x0302 [] (running1 on)
    let l := cmd 0x0302 [] (withJob .starting flat (running1 on))
    let w := cmd 0x0302 [] (sweeping 3)
    (Takes .hold (cmd 0x0302 [] on) ∧ on.device = .hold) ∧
    (Takes .hold f ∧ f.device = .run ∧ (vget f.slots 0).state = .finishing) ∧
    (Takes .hold a ∧ a.device = .run ∧ (∀ i, (vget a.slots i).state ≠ .finishing) ∧ busySlot a = some 0 ∧
      (vget a.slots 0).job = some plate ∧ (vget a.slots 0).endDue = none) ∧
    (Takes .hold d ∧ (vget d.slots 0).endDue ≠ none) ∧
    (Takes .hold e ∧ busySlot e = none) ∧
    (Takes .hold l ∧ (vget l.slots 0).state = .starting ∧ (vget l.slots 0).job = some flat ∧ l.atb.sweep = none) ∧
    (Takes .hold w ∧ (vget w.slots 0).state = .starting ∧ (vget w.slots 0).endDue = none ∧ w.atb.sweep = some ⟨0, 1, 3⟩) := by
  decide

theorem witness_SnapshotReportsAndClears : Takes .snapshot (cmd 0x0304 [] (active plate)) ∧
    (vget (cmd 0x0304 [] (active plate)).slots 0).state = .active ∧ Takes .snapshot (cmd 0x0304 [] on) ∧
    (∀ i, (vget (cmd 0x0304 [] on).slots i).state ≠ .active) := by decide

/-- Slot 3 is queued behind the RESET_PART, and slot 2's LOAD_JOB is in execution. -/
theorem witness_ResetPartClearsAndCompletes :
    let c := cmd 0x03FF [] (active plate)
    let s := setLong (some (.loadJob 2 1)) { c with cin := { c.cin with queue := [0, 3] } }
    Takes .resetPart s ∧ 3 ∈ s.cin.queue ∧ s.cin.long = some (.loadJob 2 1) ∧ 2 ∉ s.cin.queue := by decide

theorem witness_LoadJobFetchesRecord :
    let addr (s : State) := (takenOf s 0).arg 16 8
    let n (s : State) := (takenOf s 0).arg 12 1
    let c (k : Nat) (a : List Nat) := cmd 0x0401 (argAddr k a) on
    let ok := c 3 [0x80, 0xFF, 0xFF, 0xFF, 0xFF]
    let bsy := cmd 0x0401 (argAddr 0 [0x80]) (active plate)
    let s := granted .jobFetch false (setLong (some (.loadJob 0 1)) on)
    (Takes .loadJob ok ∧ n ok = (3 : Fin 4).1 ∧ addr ok % 128 = 0 ∧ addr ok + 128 = 2 ^ 40 ∧
      (vget ok.slots 3).state = .empty) ∧
    (Takes .loadJob (c 4 [0x80]) ∧ n (c 4 [0x80]) = 4) ∧ (Takes .loadJob (c 3 [0x7F]) ∧ addr (c 3 [0x7F]) = 127) ∧
    (Takes .loadJob (c 3 [0, 0, 0, 0, 0, 1]) ∧ 2 ^ 40 < addr (c 3 [0, 0, 0, 0, 0, 1]) + 128) ∧
    (Takes .loadJob bsy ∧ (vget bsy.slots 0).state ≠ .empty) ∧
    (grantedKind 5 s = some .jobFetch ∧ s.cin.long = some (.loadJob 0 1) ∧ (beatsOf 8 (recordBytes 64)).length = 8 ∧
      anyErr (beatsOf 8 (recordBytes 64)) = false ∧ JobRecord.ofBytes (respBytes (beatsOf 8 (recordBytes 64))) = some plate ∧
      JobRecord.ofBytes (respBytes (beatsOf 8 (recordBytes 20000))) = none ∧
      anyErr (rd 0 .slverr :: List.replicate 7 (rd 0)) = true) := by decide

theorem witness_AbortEndsJob :
    let c (s : State) (k : Nat) := cmd 0x0402 [k] s
    let n (s : State) := (takenOf s 0).arg 12 1
    let st (x : SlotState) (j : JobRecord) := c (withJob x j (running1 on)) 0
    (Takes .abortJob (c on 4) ∧ 3 < n (c on 4)) ∧ (Takes .abortJob (c on 3) ∧ (vget (c on 3).slots 3).state = .empty) ∧
    (Takes .abortJob (st .active plate) ∧ n (st .active plate) = (0 : Fin 4).1 ∧
      (vget (st .active plate).slots 0).state = .active ∧ (vget (st .active plate).slots 0).job = some plate) ∧
    (Takes .abortJob (st .pending plate) ∧ (vget (st .pending plate).slots 0).state = .pending) ∧
    (Takes .abortJob (st .starting flat) ∧ (vget (st .starting flat).slots 0).state = .starting ∧
      (st .starting flat).atb.sweep = none) ∧
    (Takes .abortJob (c (sweeping 3) 0) ∧ (vget (sweeping 3).slots 0).state = .starting ∧
      (sweeping 3).atb.sweep = some ⟨0, 1, 3⟩) ∧
    (Takes .abortJob (st .finishing plate) ∧ (vget (st .finishing plate).slots 0).state = .finishing) ∧
    (Takes .abortJob (st .finishing flat) ∧ (vget (st .finishing flat).slots 0).job = some flat) := by decide

theorem witness_ReleaseFreesSlot :
    let c (s : State) (k : Nat) := cmd 0x0403 [k] s
    let n (s : State) := (takenOf s 0).arg 12 1
    let d (x : SlotState) := c (withJob x plate (area1 .ready 2 (some 0) on)) 0
    (Takes .releaseJob (c on 4) ∧ 3 < n (c on 4)) ∧ (Takes .releaseJob (c on 3) ∧ n (c on 3) = (3 : Fin 4).1) ∧
    (Takes .releaseJob (d .done) ∧ (vget (d .done).slots 0).state = .done ∧ (vget (d .done).atb.areas 1).owner = some 0) ∧
    (Takes .releaseJob (d .failed) ∧ (vget (d .failed).slots 0).state = .failed) ∧
    (Takes .releaseJob (d .aborted) ∧ (vget (d .aborted).slots 0).state = .aborted) := by decide

/-- The level of each boundary value of Table 8-2. -/
theorem witness_levels : [0, 95, 96, 127, 128, 255, 256].map levelOf =
    [.normal, .normal, .warning, .warning, .guarded, .guarded, .halted] := by decide

/-- Slots 0 and 1 of equal PRIO are eligible, and the first is picked; under HALTED none is. -/
theorem witness_StartDecisionPicksLowestPrio :
    let s0 := withJob .pending plate (area1 .ready 7 none (bank0 (running1 on)))
    let s := putSlot 1 (vget s0.slots 0) s0
    (∀ i, eligible on i = false) ∧ eligible s 0 = true ∧ eligible s 1 = true ∧
    (∀ k, eligible s k = true → prioOf s 0 < prioOf s k ∨ (prioOf s 0 = prioOf s k ∧ 0 ≤ k)) := by decide

theorem witness_StartingChecksInOrder :
    let s (a : AreaState) (gen : Nat) (j : JobRecord) := withJob .pending j (area1 a gen none (bank0 (running1 on)))
    let tall := { plate with h := 129, area := 1 }
    let cell (t : State) := port .reading (merge 0 1 2 1100) t
    ((vget (s .ready 254 plate).slots 0).job = some plate ∧ (vget (s .ready 254 plate).slots 0).endDue = none ∧
      (vget (s .ready 254 plate).atb.areas plate.areaNo).state = .ready ∧
      (vget (s .ready 254 plate).atb.areas plate.areaNo).gen < 255 ∧
      8 * (plate.w * plate.h) ≤ (vget (s .ready 254 plate).atb.areas plate.areaNo).size ∧
      (vget (s .ready 254 plate).fst.banks plate.bankNo).tw = (plate.w + 63) / 64 ∧
      (vget (s .ready 254 plate).fst.banks plate.bankNo).th = (plate.h + 63) / 64) ∧
    ((vget (s .ready 2 tall).slots 0).job = some tall ∧ 65536 < 8 * (tall.w * tall.h)) ∧
    (let wide := { plate with h := 128 }
     (vget (s .ready 2 wide).slots 0).job = some wide ∧ 8 * (wide.w * wide.h) = 65536 ∧
       (vget (s .ready 2 wide).fst.banks wide.bankNo).th ≠ (wide.h + 63) / 64) ∧
    ((vget (s .ready 255 plate).atb.areas 1).gen = 255 ∧ (s .ready 255 plate).mge.port = []) ∧
    ((vget (s .needsClear 0 plate).atb.areas 1).state ≠ .ready ∧
      ((cell (s .needsClear 0 plate)).mge.port.any fun c => c.isMerge && overlaps c.addr c.len 0x100000000 65536) = true) ∧
    (vget (s .ready 2 flat).slots 0).job = some flat := by decide

theorem witness_JobStartedBecomesActive :
    let s (n : Nat) := queued n (startDecision (withJob .pending plate (area1 .ready 7 none (bank0 (running1 on)))))
    busySlot (s 7) = some 0 ∧ (vget (s 7).slots 0).job = some plate ∧ (vget (s 7).slots 0).state = .starting ∧
    (vget (s 7).slots 0).startDue = true ∧ (vget (s 7).slots 0).endDue = none ∧ (s 7).rpu.queue.length ≤ 7 ∧
    busySlot (s 8) = some 0 ∧ 8 ≤ (s 8).rpu.queue.length := by decide

theorem witness_JobEndedRecordsOutcome :
    let e := JobEnd.without .failed .plateGone plate
    let s (n : Nat) := queued n (failDue 0 .plateGone (active plate))
    let f := failDue 0 .dim (withJob .finishing flat (running1 on))
    let h := setLong (some (.hold 4)) (failDue 0 .plateGone (withJob .finishing plate (running1 on)))
    (busySlot (s 7) = some 0 ∧ (vget (s 7).slots 0).job = some plate ∧ (vget (s 7).slots 0).endDue = some e ∧
      (s 7).rpu.queue.length ≤ 7 ∧ holdRunning (s 7) = false ∧ 8 ≤ (s 8).rpu.queue.length) ∧
    (busySlot f = some 0 ∧ (vget f.slots 0).job = some flat ∧ (vget f.slots 0).endDue = some (JobEnd.without .failed .dim flat)) ∧
    (busySlot h = some 0 ∧ (vget h.slots 0).endDue = some e ∧ h.cin.long = some (.hold 4) ∧
      (∀ k, k ≠ 0 → (vget h.slots k).state.busy = false)) := by decide

theorem witness_SweepEndsInGeneration :
    let s := sweeping 256
    grantedKind 5 s = some .sweep ∧ s.atb.sweep = some ⟨0, 1, 256⟩ ∧ (vget s.slots 0).job = some plate ∧
    (vget s.slots 0).endDue = none ∧ respErr .decerr = true ∧ respErr .exokay = false ∧
    (vget s.atb.areas 1).size ≤ 256 * 256 ∧
    ({ s.mpa with granted := s.mpa.granted.filter (fun q => q.id != 5) } : Mpa).has isSweep = false ∧
    (sweeping 255).atb.sweep = some ⟨0, 1, 255⟩ ∧ 256 * 255 < (vget (sweeping 255).atb.areas 1).size := by decide

theorem witness_AbsorbedResponsesOnlyLatch :
    grantedKind 5 (granted (.stopped true) true on) = some (.stopped true) ∧
    (let s := granted (.capWrite 3) true (written false on)
     grantedKind 5 s = some (.capWrite 3) ∧ (sWrite? 3 s).map SWrite.full = some true ∧
       (sWrite? 3 s).map SWrite.passed = some false) := by decide

theorem witness_CaptureBeatTakenHeldOrPassed :
    let b := beat (hdr 0x40000010) 0 0
    let q (w : SWrite) := decide (w.path = .capture 0x40000000 ∧ w.mReq = false)
    let room := windows (queued 6 (active plate))
    let full := windows (queued 7 (active plate))
    let idle := windows on
    let tee := windows (queued 6 (active { plate with tee := 1 }))
    let held := holding
    let P (s : State) := ∃ no s' w, present b WritePath.isCapture s = some (no, s') ∧ sWrite? no s' = some w ∧ q w = true
    (P room ∧ room.wmu.held = [] ∧ capturing room = true ∧ (captureSamples 16 b.w).length = 8 ∧
      room.mge.pixels.length + 8 ≤ 256 ∧ room.rpu.queue.length ≤ 6 ∧ noEndDue room = true ∧ teeOn room = false) ∧
    (P full ∧ full.wmu.held = [] ∧ capturing full = true ∧ ¬ full.rpu.queue.length ≤ 6) ∧
    (P idle ∧ idle.wmu.held = [] ∧ capturing idle = false) ∧ (P tee ∧ teeOn tee = true) ∧
    (P held ∧ held.wmu.held = [.beat (full.serial) b] ∧
      (sWrite? full.serial held).map SWrite.path = some (.capture 0x40000000)) ∧
    ((queued 6 held).wmu.held = [.beat (full.serial) b] ∧ noEndDue (queued 6 held) = true ∧
      (queued 6 held).mge.pixels.length + 8 ≤ 256) :=
  ⟨⟨of_presents (by decide), by decide⟩, ⟨of_presents (by decide), by decide⟩, ⟨of_presents (by decide), by decide⟩,
    ⟨of_presents (by decide), by decide⟩, ⟨of_presents (by decide), by decide⟩, by decide⟩

/-- What waits behind a held beat: one capturing job with and without TEE and with its end due, and none; a page beat, a MONITOR
beat looked at and not, a whole write, and a number that no write has. -/
theorem witness_items :
    let due := putSlot 0 { vget (active plate).slots 0 with endDue := some (JobEnd.without .failed .timeout plate) } (active plate)
    let w (p : WritePath) (s : State) : State := { s with wmu := { s.wmu with
      writes := [⟨3, hdr 0x50000000, p, [], false, false, none, false, none, false⟩] } }
    let only (s : State) := (vget s.slots 0).state = .active ∧ ∀ m, (vget s.slots m).state = .active → m = 0
    (only (active plate) ∧ only (active { plate with tee := 1 }) ∧ only due ∧ (vget due.slots 0).endDue.isSome = true) ∧
    (∀ k, (vget on.slots k).state ≠ .active) ∧ sWrite? 3 on = none ∧
    ((sWrite? 3 (w .page on)).map SWrite.path = some .page ∧ (sWrite? 3 (w .pass on)).map SWrite.path = some .pass ∧
      (sWrite? 3 (w (.monitor 2) on)).map SWrite.path = some (.monitor 2)) ∧
    (let r := w (.monitor 2) (windows (running1 on))
     r.device = .run ∧ r.wmu.mode = .active ∧ vget r.wmu.windows 2 = some ⟨.monitor 640 480 2 8, 0x50000000, 0x100000⟩ ∧
       vget (w (.monitor 2) (running1 on)).wmu.windows 2 = none ∧ on.device ≠ .run) := by decide

/-- A capture beat with more to come and one that is the last; and an item that must be held, one that is taken for want of a
write, and a page beat among the items behind a held one. -/
theorem witness_CaptureBeatsAndDrain :
    let room := windows (queued 6 (active plate))
    let b := beat (hdr 0x40000010) 0 0
    let q (n : Nat) (w : SWrite) := decide (w.path = .capture 0x40000000 ∧ w.answer = none ∧ w.sent = false ∧ w.mDone = none ∧
      w.passed = false ∧ w.hdr.beats = n ∧ w.data = [])
    let P (n : Nat) (b : WBeat) := ∃ no s' w, present b WritePath.isCapture room = some (no, s') ∧ sWrite? no s' = some w ∧ q n w = true
    P 1 b ∧ P 2 (beat (hdr 0x40000010 1) 0 0) ∧
    (let u := dueTakes holding
     ((sWrite? (queued 7 (active plate)).serial u).map SWrite.path) = some (.capture 0x40000000) ∧ capturing u = true ∧
       ¬ u.rpu.queue.length ≤ 6 ∧ (queued 6 u).mge.pixels.length + (captureSamples 16 b.w).length ≤ 256) :=
  ⟨of_presents (by decide), of_presents (by decide), by decide⟩

theorem witness_StraysAndRestarts :
    let s (q : Seq) (idx : Nat) := pixel idx 0 (putSeq q (active plate))
    let att : Seq := { Seq.idle with att := .image, count := 1 }
    running (s att 4224) = some (0, plate) ∧ (s att 4224).mge.pixels = [⟨false, 4224, 0⟩] ∧
    plate.w * (plate.h + plate.r) ≤ 4224 ∧ (s att 4224).mge.seq.endDue = none ∧ (s att 4224).mge.seq.stray < 4294967295 ∧
    running (s Seq.idle 4224) = some (0, plate) ∧ (s Seq.idle 4224).mge.seq.att = .waiting ∧
    (s { att with stray := 4294967295 } 4224).mge.seq.stray = 4294967295 ∧
    ((s att 0).mge.pixels = [⟨false, 0, 0⟩] ∧ 0 < (s att 0).mge.seq.count) ∧
    (s { att with endDue := some .gap } 0).mge.seq.endDue ≠ none := by decide

theorem witness_ReferenceSamplesReachVerdict :
    let s := pixel 0 12000 (active plate)
    let t := pixel 1 12000 (lastReference (active plate))
    let m := measure t.mge.sensor (127 * 12000 + 12000) 128 false (plate.eAt 0)
    (running s = some (0, plate) ∧ s.mge.seq.endDue = none ∧ s.mge.seq.att = .waiting ∧ 0 < plate.w * plate.r) ∧
    (running t = some (0, plate) ∧ t.mge.seq.att = .reference ∧ t.mge.seq.refCount + 1 = plate.w * plate.r ∧
      m ≠ .dim ∧ (t.lamp.measured m t.time).state ≠ .steady) ∧
    (let u := { t with lamp := { t.lamp with base := some 12025856 } }
     m ≠ .dim ∧ (u.lamp.measured m u.time).state = .steady) := by decide

/-- R78: an image 72 wide has 2 tiles per row, the last 8 columns wide. -/
theorem witness_tiles : [0, 63, 64, 71, 63 * 72 + 71, 64 * 72, 64 * 72 + 64].map (tileOf 72) = [0, 0, 1, 1, 1, 2, 3] := by
  decide

theorem witness_ImageSamplesAdmitted :
    let s (a : AttState) (idx : Nat) := pixel idx 1100 (putSeq { Seq.idle with att := a, count := 128 } (active plate))
    let f := pixel 4223 1100 (putSeq { Seq.idle with att := .image, count := 128 } (withJob .active flat (running1 on)))
    running (s .image 4223) = some (0, plate) ∧ (s .image 4223).mge.seq.endDue = none ∧
    (s .image 4223).mge.pixels = [⟨false, 4223, 1100⟩] ∧ 4223 < plate.w * (plate.h + plate.r) ∧ plate.w * plate.r ≤ 128 ∧
    running (s .image 127) = some (0, plate) ∧ 127 < plate.w * plate.r ∧ running (s .discarding 5) = some (0, plate) ∧
    running (s .reference 128) = some (0, plate) ∧ running (pixel 128 1100 (active plate)) = some (0, plate) ∧
    (active plate).mge.seq.att = .waiting ∧ running f = some (0, flat) ∧ flat.kind = .flat ∧ plate.kind = .plate := by decide

theorem witness_MergeAnswersUpdateCounts :
    let m := merge 1 4 6 3893
    let s := granted (.cellRead 3) false (port .reading m (active plate))
    let w := granted (.cellWrite 3) true (port (.writing .rejected) m (active plate))
    let word (c : Cell) : BitVec 64 := BitVec.ofNat 64 (leNat c.bytes)
    (access? 3 s = some ⟨3, 0x100000000, 8, .merge m, .reading⟩ ∧ grantedKind 5 s = some (.cellRead 3) ∧ m.live = true ∧
      (mergeCell (Cell.judged (judge ⟨59416, 2, 2, 0, 1, 0, false, false, false, false⟩ 2 (some 1))) m).2 = .rejected ∧
      isDuplicate (judge (Cell.ofWord (word ⟨59416, 2, 2, 0, 1, 0, false, false, false, false⟩)) 2 (some 1)) 1 = false ∧
      isDuplicate (judge (Cell.ofWord (word ⟨59416, 2, 2, 1, 1, 0, false, false, false, false⟩)) 2 (some 1)) 1 = true) ∧
    (access? 3 w = some ⟨3, 0x100000000, 8, .merge m, .writing .rejected⟩ ∧ grantedKind 5 w = some (.cellWrite 3)) := by
  decide

/-- A merge's write is answered: a render of its cell waits behind it, and a sweep of its area for it or for another merge. -/
theorem witness_MergeEnds :
    let m := merge 1 4 6 3893
    let w := granted (.cellWrite 3) true (port (.writing .rejected) m (sweeping 0))
    let also (a : CellAcc) : State := { w with mge := { w.mge with port := w.mge.port ++ [a] } }
    let one := also ⟨4, 0x100000000, 8, .render 2 0 0, .waiting⟩
    let two := also ⟨4, 0x10000FFF8, 8, .merge m, .reading⟩
    (access? 3 one).map CellAcc.stage = some (.writing .rejected) ∧ grantedKind 5 one = some (.cellWrite 3) ∧
    one.atb.sweep = some ⟨0, 1, 0⟩ ∧ (vget one.atb.areas 1).base = 0x100000000 ∧ (vget one.atb.areas 1).size = 65536 ∧
    readsOf 6 (one.mge.port.filter fun x => decide (x.no ≠ 3)) = [⟨6, .cellRead 4, .cell, false, 0x100000000, 8, []⟩] ∧
    ((access? 3 two).map CellAcc.stage = some (.writing .rejected) ∧ two.atb.sweep = some ⟨0, 1, 0⟩ ∧
      0x10000FFF8 < 0x100000000 + 65536 ∧ 0x100000000 < 0x10000FFF8 + 8) := by decide

/-- R4, R11: the end of the merge requests the render's read of the cell and the sweep's first burst. -/
theorem test_merge_end_goes_on :
    let w := granted (.cellWrite 3) true (port (.writing .accepted) (merge 1 4 6 3700) (sweeping 0))
    let t := after (exec (.mergeWriteResponse 5 .okay)
      { w with mge := { w.mge with port := w.mge.port ++ [⟨4, 0x100000000, 8, .render 2 0 0, .waiting⟩] } })
    t.mpa.cell.map (fun x => (x.addr, x.len, x.write)) = [(0x100000000, 8, false)] ∧
    t.mpa.bulk.map (fun x => (x.addr, x.len, x.write)) = [(0x100000000, 256, true)] ∧
    t.mge.port.map CellAcc.stage = [.reading] := by decide

theorem witness_FailedAttemptReportsAndScores :
    let s (r n cec : Nat) (e : AttEnd) : State :=
      let q := { Seq.idle with att := .image, retakes := r, depth := some 2, done := 4095, endDue := some e }
      (queued n (putSeq q (active plate))).setCec ⟨cec, false⟩
    let d := putSeq { Seq.idle with att := .discarding, recorded := some .order, endDue := some .byCount } (active plate)
    (running (s 0 6 247 .byCount) = some (0, plate) ∧ (s 0 6 247 .byCount).mge.seq.endDue = some .byCount ∧
      liveMerges (s 0 6 247 .byCount) = false ∧ (s 0 6 247 .byCount).mge.seq.done < plate.w * plate.h ∧
      247 + 8 = 255 ∧ (s 0 6 247 .byCount).mge.seq.retakes + 1 ≤ plate.retakeLim ∧ (s 0 6 0 .gap).rpu.queue.length ≤ 6) ∧
    (running (s 1 6 0 .gap) = some (0, plate) ∧ plate.retakeLim < (s 1 6 0 .gap).mge.seq.retakes + 1) ∧
    (running (s 0 6 248 .restart) = some (0, plate) ∧ 255 < (s 0 6 248 .restart).cec.value + 8) ∧
    7 ≤ (s 0 7 0 .gap).rpu.queue.length ∧
    (running d = some (0, plate) ∧ d.mge.seq.att ≠ .image ∧ d.mge.seq.recorded = some .order) := by decide

/-- Table 3-4 at its boundaries, with the ladder of pin reset (R49). -/
theorem witness_ladder : State.reset.mge.ladder.t2 ≤ State.reset.mge.ladder.t1 ∧
    State.reset.mge.ladder.t3 ≤ State.reset.mge.ladder.t2 ∧ State.reset.mge.ladder.t4 ≤ State.reset.mge.ladder.t3 ∧
    [256, 192, 191, 128, 127, 64, 63, 16, 15, 0].map (ladderDepth State.reset.mge.ladder) =
      [8, 8, 6, 6, 4, 4, 3, 3, 2, 2] := by decide

theorem witness_ClosedExposureReportsAndGoesOn :
    let s (k : Nat) (j : JobRecord) := queued 6 (closing k (active j))
    let f := closing 1 (withJob .active flat (running1 on))
    let h := (putSeq { (closing 0 (active plate)).mge.seq with memerr := 1 } (active plate)).setCec ⟨254, false⟩
    (running (s 0 plate) = some (0, plate) ∧ (s 0 plate).mge.seq.endDue = some .byCount ∧ (s 0 plate).mge.seq.att = .image ∧
      ¬ (plate.kind = .plate ∧ (s 0 plate).mge.seq.done < plate.w * plate.h) ∧ liveMerges (s 0 plate) = false ∧
      (s 0 plate).rpu.queue.length ≤ 6 ∧ (s 0 plate).mge.seq.k + 1 ≠ 2) ∧
    (running (s 1 plate) = some (0, plate) ∧ (s 1 plate).mge.seq.k + 1 = 2 ∧ (s 1 plate).mge.seq.depth = some 2 ∧
      0 < plate.w * plate.h) ∧
    (running f = some (0, flat) ∧ flat.kind = .flat) ∧
    (running h = some (0, plate) ∧ 0 < h.mge.seq.memerr ∧ 255 < h.cec.value + 2) ∧
    (let x := (putSeq { f.mge.seq with memerr := 1 } f).setCec ⟨254, false⟩
     running x = some (0, flat) ∧ x.mge.seq.att = .image ∧ 0 < x.mge.seq.memerr ∧ 255 < x.cec.value + 2) := by decide

theorem witness_JobTimersExpire :
    let g := putSeq { Seq.idle with att := .image, gap := ⟨0, true⟩ } (active plate)
    let w := putSeq { Seq.idle with wait := ⟨0, true⟩ } (active plate)
    running g = some (0, plate) ∧ g.mge.seq.att ≠ .waiting ∧ g.mge.seq.endDue = none ∧ 0 < plate.frameGapMs ∧
    g.mge.seq.gap.held = true ∧ running w = some (0, plate) ∧ w.mge.seq.att = .waiting ∧ w.mge.seq.endDue = none ∧
    0 < plate.expWaitMs ∧ w.mge.seq.wait.held = true := by decide

theorem witness_FinishScanCountsAndEnds :
    let s := scanning 4096 plate
    let a : CellAcc := ⟨3, 0x100007FE0, 32, .scan, .reading⟩
    let beats := [rd 0, rd 0 .slverr]
    grantedKind 5 s = some (.cellRead 3) ∧ access? 3 s = some a ∧ a.use = .scan ∧ (vget s.slots s.scan.slot).job = some plate ∧
    16 * beats.length = a.len ∧ (vget s.slots s.scan.slot).endDue = none ∧
    (s.scan.beats false 2 400000 beats).next = plate.w * plate.h ∧ (∀ b ∈ s.mge.port, b.no ≠ 3 → b.use ≠ .scan) ∧
    ((scanning 4092 plate).scan.beats false 2 400000 beats).next ≠ plate.w * plate.h ∧
    (let c : Cell := ⟨0, 0, 2, 0, 0, 1, false, false, true, false⟩
     c.nuse = 0 ∧ c.clipHi = false ∧ c.clipLo = false) ∧
    (let c : Cell := ⟨0, 0, 2, 0, 0, 0, false, true, false, false⟩
     0 < c.nuse ∨ c.clipHi = true ∨ c.clipLo = true) ∧
    respErr (rd 0 .slverr).resp = true ∧ respErr (rd 0).resp = false := by decide

theorem witness_FlatGainsBuiltOrDim :
    let dim := finishingFlat 32767 .first
    let ok := finishingFlat 32768 .first
    let snd := finishingFlat 32768 (.second 32768 1 0)
    (flatFinishing dim = some (0, flat) ∧ dim.fst.comp = some .first ∧ (4096 * 32767 / 4096) / 32 < 1024) ∧
    (flatFinishing ok = some (0, flat) ∧ ok.fst.comp = some .first ∧ 0 < sget ok.tsa.flatCount 0 ∧ 1024 ≤ 32768 / 32) ∧
    (flatFinishing snd = some (0, flat) ∧ snd.fst.comp = some (.second 32768 1 0)) := by decide

theorem witness_ResultReadRendersCells :
    let s := rendering doneJob
    WindowsDisjoint doneJob ∧ PortsNumbered s ∧ FallsInNone doneJob (hdr 0x80000000) ∧
    FallsIn doneJob (hdr 0x60000010) 3 ⟨.result 0 .d16, 0x60000000, 0x10000000⟩ ∧
    FallsIn doneJob (hdr 0x40000000) 1 ⟨.capture, 0x40000000, 0x10000000⟩ ∧
    (windowOf doneJob (hdr 0x60000010) = some ⟨.result 0 .d16, 0x60000000, 0x10000000⟩ ∧
      (vget doneJob.slots 0).job = some plate ∧ (hdr 0x60000010).illegal = false ∧ renders doneJob 0 = true ∧
      0 < (hdr 0x60000010).beats ∧ (hdr 0x60002000).illegal = false ∧
      (∀ b, b < 1 → (startBeat (captureOf doneJob 0 plate 0x60000000 .d16) (hdr 0x60002000) b).waits = []) ∧
      (startBeat (captureOf doneJob 0 plate 0x60000000 .d16) (hdr 0x60000010) 0).waits ≠ []) ∧
    (grantedKind 5 s = some (.cellRead 3) ∧ (access? 3 s).map CellAcc.use = some (.render 2 0 0) ∧
      (sRead? 2 s).map SRead.path =
        some (.render ⟨2, 400000, 64, 64, .positive, 0x100000000, 0x60000000, .d16, 1024, 13312⟩ [⟨0, [0], [], false⟩])) := by
  refine ⟨windowsDisjoint_of (by decide), ?_, fallsInNone_of (by decide), ?_, ?_, by decide, by decide⟩
  · unfold PortsNumbered; decide
  · unfold FallsIn Win.Holds; decide
  · unfold FallsIn Win.Holds; decide

/-- Reads of two identifiers: beat 0 of a rendered one is ready behind nothing, an error beat, and a read from memory. -/
theorem witness_ReadsReleased :
    let c : Capt := ⟨2, 400000, 64, 64, .positive, 0x100000000, 0x60000000, .d16, 1024, 13312⟩
    let r : SRead := ⟨2, hdr 0x60000000 1, .render c [⟨0, [], [], false⟩, ⟨8, [], [], true⟩], 0⟩
    let m : SRead := ⟨4, { hdr 0x80000000 with id := 7 }, .memory (some [rd 7]), 0⟩
    let s := { on with serial := 5, wmu := { on.wmu with reads := [r, m] } }
    PortsNumbered s ∧ s.wmu.reads = [] ++ r :: [m] ∧ s.wmu.reads = [r] ++ m :: [] ∧ r.hdr.id ≠ m.hdr.id ∧ r.sent ≤ 0 ∧
    ([⟨0, [], [], false⟩, ⟨8, [], [], true⟩] : List RenderBeat)[1]? = some ⟨8, [], [], true⟩ := by
  refine ⟨?_, by decide⟩
  unfold PortsNumbered; decide

theorem witness_DensityOutputAndRangeBounds :
    let cap (r : RenderMode) (f : Fmt) : Capt := ⟨2, 400000, 64, 64, r, 0, 0, f, 1024, 13312⟩
    let word (c : Cell) : BitVec 64 := BitVec.ofNat 64 (leNat c.bytes)
    let cell (sum : Nat) (hi lo : Bool) : Cell := ⟨sum, if sum = 0 then 0 else 1, 2, 0, if sum = 0 then 0 else 1, 0, hi, lo, false, false⟩
    let j (c : Cell) := judge (Cell.ofWord (word c)) 2 none
    let cum (k : Nat) := ((List.range (k + 1)).map (sget [(3, 4), (5, 6)])).sum
    (2 ^ 19 ≤ 2 ^ 19 ∧ 1 ≤ 1 ∧ 1 ≤ 1048575 ∧ density (meanCell 0) 400000 = some 16383) ∧
    (logL 400000 ≤ logL 401000 ∧ logL 30156 < logL 400000) ∧
    (density none 400000 = none ∧ density (j (cell 30156 false false)) 400000 = some 3774 ∧
      density (j (cell 369 false false)) 400000 = some 10326 ∧ density (j (cell 0 true false)) 400000 = some 0 ∧
      density (j (cell 0 false true)) 400000 = some 16383 ∧ (cap .positive .d16).dlo < (cap .positive .d16).dhi) ∧
    (judge (Cell.ofWord 0) 2 none = none ∧ (cap .linear .d8).render = .linear ∧ (cap .linear .d8).fmt = .d8 ∧
      (j (cell 30156 false false)).isSome = true ∧ (j (cell 0 true false)).isSome = true ∧ (j (cell 0 false true)).isSome = true) ∧
    (max 1 ((10 * 5000 + 9999) / 10000) ≤ cum 5 ∧ (∀ i, i < 5 → cum i < max 1 ((10 * 5000 + 9999) / 10000)) ∧
      max 1 ((10 * 9500 + 9999) / 10000) ≤ cum 5 ∧ (∀ i, i < 5 → cum i < max 1 ((10 * 9500 + 9999) / 10000))) ∧
    50 ≤ 9950 := by decide

theorem witness_MonitorBeatLookedAt :
    let b := beat (hdr 0x50000000) 0 0x2EE0
    let q (w : SWrite) := decide (w.path = .monitor 2 ∧ w.mReq = false)
    let P (s : State) := ∃ no s' w, present b WritePath.isMonitor s = some (no, s') ∧ sWrite? no s' = some w ∧ q w = true
    let r := windows (running1 on)
    (P (windows on) ∧ (windows on).wmu.held = [] ∧ (windows on).device ≠ .run) ∧
    (P r ∧ r.wmu.held = [] ∧ r.device = .run ∧ r.wmu.mode = .active ∧
      vget r.wmu.windows 2 = some ⟨.monitor 640 480 2 8, 0x50000000, 0x100000⟩) ∧
    (P holding ∧ holding.wmu.held ≠ []) ∧
    (let h := hdr 0x50000000 1
     let second (s : State) := ∃ no s' w, present (beat h 1 0) WritePath.isMonitor s = some (no, s') ∧
       sWrite? no s' = some w ∧ decide (w.path = .monitor 2 ∧ w.mReq = true ∧ w.answer = none ∧ w.sent = false) = true
     second (after (exec (.monitorBeat (beat h 0 0)) (windows on))) ∧ second (after (exec (.monitorBeat (beat h 0 0)) r))) ∧
    (640 * (480 + 2) ≤ 308480 ∧ 308479 < 640 * (480 + 2) ∧
      ((⟨308479, 0, 1280, false, 0, 1⟩ : Totals).add r.mge.sensor 640 480 2 308479 12000).count = 640 * (480 + 2) ∧
      (Totals.zero.add r.mge.sensor 640 480 2 0 12000).count ≠ 640 * (480 + 2)) ∧
    (let i := (120 + 2) * 640 + 160
     640 * 2 ≤ i ∧ 640 / 4 ≤ i % 640 ∧ i % 640 < 3 * 640 / 4 ∧ 480 / 4 ≤ i / 640 - 2 ∧ i / 640 - 2 < 3 * 480 / 4 ∧
       ¬ 640 / 4 ≤ (i - 1) % 640 ∧ 1279 < 640 * 2) ∧
    (Totals.zero.refCount = 0 ∧ 0 < (⟨308480, 0, 1280, false, 0, 1⟩ : Totals).refCount) :=
  ⟨⟨of_presents (by decide), by decide⟩, ⟨of_presents (by decide), by decide⟩, ⟨of_presents (by decide), by decide⟩,
    ⟨of_presents (by decide), of_presents (by decide)⟩, by decide⟩

/-- The debounce counts; and a frame ignored for want of a centre sample, and frames of ρ 159 and 160 under PRES_LIM 160. -/
theorem witness_VotesDebouncePresence :
    let s (n : Nat) (d : Presence) := { on with pdt := { on.pdt with presence := .present, debounce := n, dir := d } }
    let t (c : Nat) : Totals := ⟨2, 512, 1, false, c, 1⟩
    let rho (c : Nat) := 256 * ((t c).cSum / (t c).cCount) / ((t c).refSum / (t c).refCount - 256)
    (s 0 .unknown).pdt.presence = .present ∧ (s 1 .absent).pdt.dir = .absent ∧ (s 2 .absent).pdt.debounce = 2 ∧
    presenceVote Sensor.reset 160 Totals.zero = none ∧ Totals.zero.cCount = 0 ∧
    (¬ ((t 159).sat = true ∨ 512 / 1 < 256 + 32 ∨ 512 / 1 ≤ 256 ∨ (t 159).cCount = 0) ∧ rho 159 < 160 ∧ 160 ≤ rho 160) := by
  decide

theorem witness_LampFollowsMeasurements :
    let l := (running1 on).lamp
    l.state = .steady ∧ l.base = some 1503232 ∧ inBand (1503232 + 11744) 1503232 l.cfg.band = true ∧
    inBand (1503232 + 11745) 1503232 l.cfg.band = false ∧ l.cfg.darkLevel ≤ 65536 ∧ 65535 < l.cfg.darkLevel ∧
    (Lamp.off LampCfg.reset).state = .offline ∧ l.unsettled.state = .settling ∧ l.unsettled.cand = none ∧
    (l.settleWith 1503232 0).cand = some 1503232 ∧ l.dark.state = .dark ∧
    (287 / 1 < 256 + 32 ∧ 256 + 32 ≤ 288 / 1) := by decide

/-- A measurement that counts not, one that counts, and the 64th at HALTED and at NORMAL; and one out of band. -/
theorem witness_MeasurementsApplied :
    let s (armed : Bool) (rec value : Nat) := { running1 on with
      cec := ⟨value, armed⟩, lamp := { (running1 on).lamp with recovery := rec } }
    let st (x : State) (lam : Nat) := (x.lamp.measured (.level lam) x.time).state
    ((s false 0 0).cec.armed = false) ∧
    ((s true 62 256).cec.armed = true ∧ st (s true 62 256) 1503232 = .steady ∧ (s true 62 256).lamp.recovery + 1 < 64) ∧
    ((s true 63 256).lamp.recovery + 1 = 64 ∧ levelOf 256 ≠ .normal ∧ levelOf (s true 63 0).cec.value = .normal) ∧
    ((s true 63 256).lamp.state = .steady ∧ inBand 65536 1503232 (s true 63 256).lamp.cfg.band = false ∧
      st (s true 63 256) 65536 ≠ .steady) := by decide

theorem witness_MonitorEventsTakeEffect :
    let a := active plate
    let s := { a with pdt := { a.pdt with debounce := 2, dir := .absent } }
    (s.pdt.debounce = 2 ∧ s.pdt.dir = .absent ∧ s.pdt.presence ≠ .absent ∧ s.device = .run ∧ busySlot s = some 0 ∧
      (vget s.slots 0).job = some plate ∧ (vget s.slots 0).endDue = none ∧ (vget s.slots 0).state = .active) ∧
    (busySlot (running1 on) = none ∧ (running1 on).pdt.presence = .present) ∧
    (let w := { sweeping 3 with pdt := s.pdt }
     w.pdt.presence ≠ .absent ∧ w.device = .run ∧ busySlot w = some 0 ∧ (vget w.slots 0).job = some plate ∧
       (vget w.slots 0).endDue = none ∧ (vget w.slots 0).state = .starting ∧ w.atb.sweep = some ⟨0, 1, 3⟩) ∧
    (a.lamp.state = .steady ∧ 0 < a.lamp.cfg.staleMs ∧ a.lamp.last.held = true) ∧
    ({ a with lamp := { a.lamp with guardDue := true } } : State).lamp.guardDue = true ∧
    (let r := { a with cec := ⟨256, true⟩, lamp := { a.lamp with recovery := 63 } }
     r.cec.armed = true ∧ r.lamp.state = .steady ∧ r.lamp.recovery = 63 ∧ levelOf r.cec.value ≠ .normal ∧ levelOf 0 = .normal) := by
  decide

/-- R148 at its boundaries: 16 and 17 beats, an incrementing burst up to and past a 4 KiB boundary, wrapping bursts of 2, 3 and 32
beats and of an unaligned start; and R109's first pixel of the second 16 bytes of a window. -/
theorem witness_burst_geometry :
    let wrap (a n : Nat) : TxnHdr := { hdr a n with burst := .wrap }
    let fixed (n : Nat) : TxnHdr := { hdr 0x1FF8 n with burst := .fixed }
    [fixed 15, hdr 0x1F00 15, hdr 0x1F08 15, wrap 0x1010 1].any TxnHdr.illegal = false ∧
    [fixed 16, hdr 0x1F10 15, wrap 0x1010 2, wrap 0x1010 31, wrap 0x1008 1].all TxnHdr.illegal = true ∧
    (fixed 15).beatPos 3 = 0x1FF0 ∧ (hdr 0x1F08 15).beatPos 1 = 0x1F10 ∧ (wrap 0x1010 1).beatPos 1 = 0x1000 ∧
    (on.rpu.ring = none ∧ (running1 on).rpu.queue = []) ∧
    (let c (f : Fmt) := captureOf doneJob 0 plate 0x60000000 f
     (c .d16).winBase = 0x60000000 ∧ firstPixel (c .d16) 0x60000010 = 8 ∧ firstPixel (c .d8) 0x60000010 = 16) := by decide

/-- What waits for room: an ACTIVE transition, a job end, an attempt end, and a chosen command, alone and beside a LOAD_JOB; and
none of them with the room it needs. -/
theorem witness_transitionWaits :
    let j (x : State) := putSlot 0 { vget x.slots 0 with startDue := true } x
    let start (n : Nat) := queued n (j (withJob .starting plate (running1 on)))
    let fin := withJob .finishing plate (running1 on)
    let ended (n : Nat) := queued n (putSlot 0 { vget fin.slots 0 with endDue := some (JobEnd.without .done .none plate) } fin)
    let att (n : Nat) := queued n (closing 0 (active plate))
    let command (c n : Nat) := queued n (cmd c [] (running1 on))
    let load (x : State) := setLong (some (.loadJob 2 1)) x
    [start 8, ended 8, att 7, command 0x0302 8, load (command 0x0304 8)].all transitionWaits = true ∧
    [start 7, ended 7, att 6, command 0x0302 7, load (command 0x0304 7), command 0x0301 8, load (command 0x0302 8)].any
      transitionWaits = false := by decide

theorem witness_FlagsServedAndRecordsWritten :
    let s := queued 5 (setFlag .lamp (running1 on))
    let r (tail : Nat) := { s with rpu := { s.rpu with head := 5, tail := tail } }
    (s.rpu.flag .lamp = true ∧ s.rpu.queue.length ≤ 5 ∧ transitionWaits s = false ∧ s.rpu.flag .presence = false) ∧
    ((r 7).rpu.ring = some 0x20001000 ∧ (r 7).rpu.queue = ⟨255, 0, 0, .presence .absent⟩ :: List.replicate 4 ⟨255, 0, 0, .presence .absent⟩ ∧
      (5 + 64 - 7 % 64) % 64 < 63 ∧ (r 7).rpu.busy = none ∧ (r 7).rpu.headWait = false ∧ (r 7).cin.long = none ∧
      ¬ (5 + 64 - 6 % 64) % 64 < 63) := by decide

theorem witness_RecordAndHeadAnswersAdvance :
    let s := queued 1 (running1 on)
    let t := { s with rpu := { s.rpu with busy := some true } }
    let w := setLong (some (.reportsWait 3 0x20001000 true)) (granted (.head 7 1 false) true s)
    grantedKind 5 (granted .record true t) = some .record ∧ (granted .record true t).rpu.busy = some true ∧
    grantedKind 5 (granted .record true s) = some .record ∧ (granted .record true s).rpu.busy = none ∧
    grantedKind 5 w = some (.head 7 1 false) ∧ w.cin.long = some (.reportsWait 3 0x20001000 true) ∧
    ({ w.mpa with granted := w.mpa.granted.filter (fun x => x.id != 5) } : Mpa).has isReportWrite = false ∧
    (granted (.head 7 1 false) true s).cin.long = none := by decide

theorem witness_PassThroughForwardedIllegalRefused :
    let s := windows on
    let held := holding
    let r := granted (.sysRead 0) false { after (exec (.passThrough (.read (hdr 0x80000000))) on) with mpa := Mpa.reset }
    let w := granted (.capWrite 3) true (written true on)
    ((hdr 0x80000000).illegal = false ∧ readPasses s (hdr 0x80000000) = true) ∧
    ([(⟨1, 0xFFFF⟩ : WData)].length = (hdr 0x80000000).beats ∧ s.wmu.cur = none ∧ wholePasses s (hdr 0x80000000) = true ∧
      (∀ v ∈ s.wmu.writes, v.no ≠ s.serial) ∧ s.wmu.held = []) ∧
    (held.wmu.held ≠ [] ∧ held.wmu.cur = none ∧ wholePasses held (hdr 0x80000000) = true ∧
      (∀ v ∈ held.wmu.writes, v.no ≠ held.serial)) ∧
    (grantedKind 5 r = some (.sysRead 0) ∧ (sRead? 0 r).map (fun x => x.hdr.beats) = some [rd 7].length) ∧
    (grantedKind 5 w = some (.capWrite 3) ∧ (sWrite? 3 w).map SWrite.passed = some true ∧
      (sWrite? 3 w).map SWrite.full = some true) ∧
    ((hdr 0x40000F80 15).illegal = true ∧ s.wmu.reads = [] ∧ s.wmu.writes = []) := by decide

/-- Writes of two identifiers: one given its answer, its identifier's next with an answer, one without; and the windows. -/
theorem witness_WritesReleased :
    let w (no id : Nat) (a : Option Resp) (sent : Bool) : SWrite :=
      ⟨no, { hdr 0x80000000 with id := id }, .pass, [⟨0, 0⟩], true, false, none, true, a, sent⟩
    let ws := [w 1 1 (some .okay) true] ++ w 2 1 (some .slverr) false :: [w 4 7 none false]
    let s := { windows on with serial := 5, wmu := { (windows on).wmu with writes := ws } }
    PortsNumbered s ∧ s.wmu.writes = ws ∧ (w 2 1 (some .slverr) false).answer = some .slverr ∧ WindowsDisjoint s ∧
    FallsInNone s (hdr 0x80000000) ∧ FallsIn s (hdr 0x4FFFFFF0) 1 ⟨.capture, 0x40000000, 0x10000000⟩ ∧
    FallsIn s (hdr 0x50000000) 2 ⟨.monitor 640 480 2 8, 0x50000000, 0x100000⟩ := by
  refine ⟨?_, by decide, by decide, windowsDisjoint_of (by decide), fallsInNone_of (by decide), ?_, ?_⟩
  · unfold PortsNumbered; decide
  · unfold FallsIn Win.Holds; decide
  · unfold FallsIn Win.Holds; decide

/-- With a request of each class: NOTE's is granted; with none of NOTE, SYS's after BULK; and no channel ready, none's. -/
theorem witness_GrantFollowsRotation :
    let s := asking .bulk
    let t := { s with mpa := { s.mpa with note := [] } }
    (s.mpa.queueOf .note = [⟨0, .sysWrite 9, .note, true, 0, 16, []⟩]) ∧
    (t.mpa.queueOf .note = [] ∧ t.mpa.queueOf .sys = [⟨0, .sysWrite 9, .sys, true, 0, 16, []⟩] ∧ t.mpa.last = .bulk) ∧
    (on.mpa.note = [] ∧ on.mpa.sys = [] ∧ on.mpa.cell = [] ∧ on.mpa.bulk = []) := by decide

/-- Grants of a sweep burst, an image write, a gain read and a scan read whose issuer has more to request, or nothing left. -/
theorem witness_GrantsGoOn :
    let w (n : Nat) := setSweep (some ⟨0, 1, n⟩) (withJob .starting plate (area1 .needsClear 0 (some 0) on))
    let f (done : Nat) (err : Bool) := setLong (some (.flatStore 0 0 0x40 done err)) (bank0 on)
    let g (done : Nat) (err : Bool) := setLong (some (.flatGains 0 0 0x40 4 1 12600000 393750 done err [])) on
    let c (n : Nat) := scanning n plate
    ((w 255).atb.sweep = some ⟨0, 1, 255⟩ ∧ 256 * 255 < (vget (w 255).atb.areas 1).size ∧
      (vget (w 256).atb.areas 1).size ≤ 256 * 256 ∧ on.atb.sweep = none) ∧
    ((f 33 false).cin.long = some (.flatStore 0 0 0x40 33 false) ∧
      32 + 2 * ((vget (f 33 false).fst.banks 0).tw * (vget (f 33 false).fst.banks 0).th) = 34 ∧
      (f 33 true).cin.long = some (.flatStore 0 0 0x40 33 true) ∧ on.cin.long = none) ∧
    ((g 6 false).cin.long = some (.flatGains 0 0 0x40 4 1 12600000 393750 6 false []) ∧
      (g 8 false).cin.long = some (.flatGains 0 0 0x40 4 1 12600000 393750 8 false [])) ∧
    ((access? 3 (c 4095)).map CellAcc.use = some .scan ∧ (c 4095).scan.scanning = true ∧
      (vget (c 4095).slots (c 4095).scan.slot).job = some plate ∧ 4095 < plate.w * plate.h ∧ plate.w * plate.h ≤ 4096 ∧
      (access? 3 (port .reading (merge 0 1 2 1100) on)).map CellAcc.isScan = some false) := by decide

theorem witness_TickAdvancesTimebase : running on = none ∧ running (active plate) = some (0, plate) := by decide

/-- A first merge, and one of every largest operand into the last exposure of generation 255; the values where the classes
and the spread limit meet. -/
theorem witness_MergeKeepsCellLawful :
    let m : Merge := { merge 7 65535 15 16383 with gen := 255, g := 32767 }
    let c : Cell := ⟨59416, 2, 2, 0, 1, 0, false, false, false, false⟩
    let x (v : Nat) := estimate v 256 18022 4
    let mean := c.sum / c.wsum
    let limit := max 8 (mean * 3 * (5 + 1) / 256)
    (1 ≤ m.gen ∧ m.gen ≤ 255 ∧ m.k ≤ 7 ∧ 1 ≤ m.e ∧ 1 ≤ m.w ∧ m.w ≤ 15 ∧ m.g ≤ 32767 ∧ m.v ≤ 16383 ∧
      isDuplicate (judge (Cell.ofWord 0) 255 (some 7)) 7 = false ∧
      isDuplicate (judge (Cell.ofWord 0x00100202_0000E818) 2 (some 1)) 1 = false) ∧
    (classify 16000 (merge 1 4 6 0).sensor = .saturated ∧ classify 15999 (merge 1 4 6 0).sensor = .usable ∧
      classify 288 (merge 1 4 6 0).sensor = .usable ∧ classify 287 (merge 1 4 6 0).sensor = .dim) ∧
    (0 < c.nuse ∧ Cell.empty.nuse = 0 ∧ x 3700 ≤ mean + limit ∧ mean ≤ x 3700 + limit ∧ mean + limit < x 3893 ∧
      x 3000 + limit < mean) ∧
    (c.gen ≠ 3 ∧ ¬ (c.lastk ≤ 7 ∧ c.lastk + 1 < c.nuse + c.nrej)) := by decide

/-- A cell port on which a merge is read and a render of its cell waits behind it. -/
def sharing : State :=
  let s := windows (queued 8 (closing 0 (active plate)))
  { s with serial := 9, mge := { s.mge with port := [⟨3, 0x100000000, 8, .merge (merge 1 4 6 3700), .reading⟩,
      ⟨4, 0x100000000, 8, .render 2 0 0, .waiting⟩] } }

/-- A state in use that satisfies every law, and a step from it. -/
theorem witness_laws :
    let s := { sharing with pending := [.mpaGrant true true] }
    step s = .next { s with pending := [] } ∧ Bounded s ∧ SensorLawful s ∧ IntakeDistinct s ∧ OneBusy s ∧ AreasDisjoint s ∧
    TablesCanonical s ∧ PortInOrder s ∧ PortsNumbered s ∧ WindowsDisjoint s ∧ s.resetN = true := by
  refine ⟨rfl, ⟨by decide, by decide, by decide⟩, ?_, ?_, ?_, ⟨?_, ?_⟩, ?_, portInOrder_of ?_, ?_,
    windowsDisjoint_of (by decide), by decide⟩
  · unfold SensorLawful; decide
  · unfold IntakeDistinct; decide
  · unfold OneBusy; decide
  · decide
  · decide
  · unfold TablesCanonical; decide
  · intro n a h
    match n, h with
    | 0, h => obtain rfl := Option.some.inj h; rfl
    | 1, h => obtain rfl := Option.some.inj h; decide
    | n + 2, h => cases h
  · unfold PortsNumbered; decide
end Sys2Proof.Tests
end

section
/-! SUPPORT. Commands that answer at their take: what an answer completes, and SET_SENSOR. -/
namespace Sys2Proof.Machine

/-- A taken slot whose command answers at once is completed with the answer's result, whichever it is, where the effect
leaves the intake alone and makes only requests (R168, R169). -/
theorem answer_completes {s : State} {n : Fin 8} {r : Result} {f : State → State}
    (hcin : (f (openSlot n s)).cin = (openSlot n s).cin) (hreq : OnlyRequests (openSlot n s) (f (openSlot n s))) :
    Completes n r s (answer (takenOf s n) r f (openSlot n s)) ∧
    OnlyRequests s (answer (takenOf s n) r f (openSlot n s)) := by
  obtain ⟨htaken, hopen, hlong, -, -⟩ := openSlot_taken n s
  have done (u : State) : OnlyRequests u (complete n r u) := (complete_spec n r u).2.1
  change Completes n r s (complete n r _) ∧ OnlyRequests s (complete n r _)
  by_cases hr : r = .ok
  · rw [if_pos hr]
    exact ⟨completes_of_taken (htaken.keep hcin fun _ => hreq.note) (by rw [hcin, hlong]),
      (hopen.trans hreq).trans (done _)⟩
  · rw [if_neg hr]
    exact ⟨completes_of_taken htaken hlong, hopen.trans (done _)⟩

/-- The merge engine after an answer is the one its effect leaves, and without OK the one that stood. -/
theorem answer_mge (t : Taken) (r : Result) (f : State → State) (s : State) :
    (answer t r f s).mge = if r = .ok then (f s).mge else s.mge := by
  rw [answer, frame_complete.mge, apply_ite State.mge]

/-- The checks of SET_SENSOR in the order of R17: HOLD, then the ranges of Table 2-1, then B + F < S. -/
theorem checkSensor_eq (t : Taken) (s : State) : checkSensor t s =
    if s.device ≠ .hold then .notHeld
    else if (sensorArg t).b ≤ 2047 ∧ (sensorArg t).f ≤ 1023 ∧ 1 ≤ (sensorArg t).s ∧ (sensorArg t).s ≤ 16383 then
      (if (sensorArg t).b + (sensorArg t).f < (sensorArg t).s then .ok else .range)
    else .range := by
  by_cases hd : s.device = .hold
  · simp [checkSensor, checks, inHold, hd, and_assoc]
  · simp [checkSensor, checks, inHold, hd]

/-- SET_SENSOR changes the merge engine, the intake and the arbiter with its numbering, and nothing else. -/
theorem frame_runSetSensor {t : Taken} {s : State} : Frame [.mge, .cin, .mpa, .serial] s (runSetSensor t s) :=
  (frame_answer fun _ => frame_setMge).wide

/-- Settles O12: the take opens the slot without touching the device state the first check reads or the profile, so
the answer is that of R17's checks, and the profile is written whole by an OK answer's one effect. -/
theorem setSensorSetsWholeProfile : Obligations.SetSensorSetsWholeProfile := by
  intro s n ht hc a p r
  have hr : checkSensor (takenOf s n) (openSlot n s) = r := by
    rw [checkSensor_eq, frame_openSlot.device]; rfl
  have hrun : exec .setSensor s = .next (runSetSensor (takenOf s n) (openSlot n s)) :=
    congrArg Host.Outcome.next (takeCmd_of ht hc)
  refine ⟨_, hrun, ?completes, ?requests, ?profile, frame_openSlot.seq frame_runSetSensor⟩
  case completes => rw [runSetSensor, hr]; exact (answer_completes rfl (.of_eq rfl)).1
  case requests => rw [runSetSensor]; exact (answer_completes rfl (.of_eq rfl)).2
  case profile =>
    rw [runSetSensor, hr, answer_mge, State.setMge_mge, frame_openSlot.mge]
    split <;> rfl

end Sys2Proof.Machine
end

section
/-! SUPPORT. The votes of monitor frames (R130) and their debounce (R131). -/
namespace Sys2Proof.Machine

/-- What a presence change sets off touches no part of the presence detector: it ends with the value voted for and count 0
(R131, R132). -/
theorem changePresence_pdt (v : Presence) (s : State) :
    (changePresence v s).pdt = { s.pdt with presence := v, debounce := 0 } := by
  have after (u : State) :
      Frame (.rpu :: .slots :: .tsa :: leaveFields) u
        (startDecision (presenceActs v (setLatch .presenceChanged (setFlag .presence u)))) :=
    ((frame_setFlag.trans frame_setLatch).trans frame_presenceActs).seq frame_startDecision
  exact (after _).pdt

/-! ### A vote by the value held, the direction and the count (R131) -/

theorem voteFor_of_held {v : Presence} {s : State} (hv : s.pdt.presence = v) :
    voteFor v s = s.setPdt { s.pdt with debounce := 0 } := if_pos hv

theorem voteFor_of_fresh {v : Presence} {s : State} (hv : s.pdt.presence ≠ v)
    (hfresh : s.pdt.debounce = 0 ∨ s.pdt.dir ≠ v) :
    voteFor v s = s.setPdt { s.pdt with debounce := 1, dir := v } := by
  have hrun : ¬ (0 < s.pdt.debounce ∧ s.pdt.dir = v) := by
    rintro ⟨hpos, hdir⟩
    exact hfresh.elim (Nat.ne_of_gt hpos) (absurd hdir)
  rw [voteFor, if_neg hv, if_neg hrun]

theorem voteFor_of_second {v : Presence} {s : State} (hv : s.pdt.presence ≠ v) (hdir : s.pdt.dir = v)
    (hone : s.pdt.debounce = 1) : voteFor v s = s.setPdt { s.pdt with debounce := 2 } := by
  simp [voteFor, hv, hdir, hone]

theorem voteFor_of_third {v : Presence} {s : State} (hv : s.pdt.presence ≠ v) (hdir : s.pdt.dir = v)
    (htwo : s.pdt.debounce = 2) : voteFor v s = changePresence v s := by
  simp [voteFor, hv, hdir, htwo]

/-! ### The vote of a frame (R130) -/

/-- A frame is ignored for presence (R130): it holds SAT, its reference mean is below B + F or not above B, or it has no
centre sample. -/
def FrameIgnored (p : Sensor) (t : Totals) : Prop :=
  t.sat = true ∨ t.refSum / t.refCount < p.b + p.f ∨ t.refSum / t.refCount ≤ p.b ∨ t.cCount = 0

/-- The ratio ρ of a frame, which PRES_LIM divides into present and absent (R130). -/
def centreRatio (p : Sensor) (t : Totals) : Nat :=
  256 * (t.cSum / t.cCount) / (t.refSum / t.refCount - p.b)

theorem presenceVote_of_ignored {p : Sensor} {lim : Nat} {t : Totals} (h : FrameIgnored p t) :
    presenceVote p lim t = none := by
  rcases h with hsat | hdim | hbase | hcentre
  · exact if_pos hsat
  · simp [presenceVote, hdim]
  · simp [presenceVote, Nat.sub_eq_zero_of_le hbase]
  · simp [presenceVote, hcentre]

theorem presenceVote_of_not_ignored {p : Sensor} {lim : Nat} {t : Totals} (h : ¬ FrameIgnored p t) :
    presenceVote p lim t = some (if centreRatio p t < lim then .present else .absent) := by
  simp only [FrameIgnored, not_or] at h
  obtain ⟨hsat, hdim, hbase, hcentre⟩ := h
  have hbright : ¬ (t.refSum / t.refCount < p.b + p.f ∨ t.refSum / t.refCount - p.b = 0) :=
    not_or.2 ⟨hdim, fun h0 => hbase (Nat.le_of_sub_eq_zero h0)⟩
  rw [presenceVote, if_neg hsat]
  exact (if_neg hbright).trans (if_neg hcentre)

/-- A frame without a vote leaves the whole state alone. -/
theorem framePresence_of_no_vote {t : Totals} {s : State}
    (h : presenceVote s.mge.sensor s.lamp.cfg.presLim t = none) : framePresence t s = s := by
  rw [framePresence, h]

/-- Settles O48: a vote by the cases of R131, where only the third vote does more than set the detector, and what it
sets off leaves the detector as the change made it; the vote of a frame by R130's conditions to be ignored. -/
theorem votesDebouncePresence : Obligations.VotesDebouncePresence := by
  refine ⟨rfl, rfl, fun s v _ => ⟨?held, ?fresh, ?second, ?third⟩, ?noVote, fun p lim t => ⟨?ignored, ?present, ?absent⟩⟩
  case held => intro hv; rw [voteFor_of_held hv, State.setPdt_pdt]
  case fresh => intro hv hfresh; rw [voteFor_of_fresh hv hfresh, State.setPdt_pdt]
  case second => intro hv hdir hone; rw [voteFor_of_second hv hdir hone, State.setPdt_pdt]
  case third => intro hv hdir htwo; rw [voteFor_of_third hv hdir htwo, changePresence_pdt]
  case noVote => intro s t hnone; rw [framePresence_of_no_vote hnone]
  case ignored => exact presenceVote_of_ignored
  case present =>
    intro hcounted hbelow
    exact (presenceVote_of_not_ignored hcounted).trans (congrArg some (if_pos hbelow))
  case absent =>
    intro hcounted hfrom
    exact (presenceVote_of_not_ignored hcounted).trans (congrArg some (if_neg (Nat.not_lt.2 hfrom)))

end Sys2Proof.Machine
end

section
/-! SUPPORT. The take of a slot that is queued alone, and RESUME, which arms recovery (R143). -/
namespace Sys2Proof.Machine

/-- A slot queued alone is the one the intake chooses, whatever its CODE (R168). -/
theorem chosen_of_alone {s : State} {n : Fin 8} (h : s.cin.queue = [n]) : chosen s = some n := by
  by_cases hreset : cmdOf s n = some .resetPart <;> simp [chosen, h, hreset]

/-- A slot queued alone is taken once a take is due, no command is in execution and its command's report room is free
(R168). -/
theorem takes_of_alone {s : State} {n : Fin 8} (hq : s.cin.queue = [n]) (hlong : s.cin.long = none)
    (hdue : s.cin.takeDue = true) (hroom : roomFor (cmdOf s n) ≤ s.free) : takes s = some n := by
  have hidle : idleFor s n = true := by rw [idleFor, hlong]
  simp [takes, takable, hdue, chosen_of_alone hq, hidle, hroom]

/-- The counter after an answer is the one its effect leaves, and without OK the one that stood. -/
theorem answer_cec (t : Taken) (r : Result) (f : State → State) (s : State) :
    (answer t r f s).cec = if r = .ok then (f s).cec else s.cec := by
  rw [answer, frame_complete.cec, apply_ite State.cec]

/-- The lamp monitor after an answer is the one its effect leaves, and without OK the one that stood. -/
theorem answer_lamp (t : Taken) (r : Result) (f : State → State) (s : State) :
    (answer t r f s).lamp = if r = .ok then (f s).lamp else s.lamp := by
  rw [answer, frame_complete.lamp, apply_ite State.lamp]

/-- Arming leaves recovery armed, and the counter's value as it stands. -/
theorem arm_cec (s : State) : (arm s).cec = { s.cec with armed := true } := by
  cases harmed : s.cec.armed with
  | false => simp [arm, harmed]
  | true => rw [arm, if_pos harmed, ← harmed]

/-- Arming starts the recovery count at 0 where recovery was disarmed, and leaves a count in progress. -/
theorem arm_lamp (s : State) :
    (arm s).lamp = { s.lamp with recovery := if s.cec.armed = false then 0 else s.lamp.recovery } := by
  cases harmed : s.cec.armed <;> simp [arm, harmed]

/-- The checks of RESUME in the order of R143: RUN, then HALTED. -/
def checkResume (s : State) : Result := checks [(!inHold s, .state), (levelOf s.cec.value == .halted, .state)]

theorem runResume_eq (t : Taken) (s : State) : runResume t s = answer t (checkResume s) arm s := rfl

theorem checkResume_eq (s : State) : checkResume s =
    if s.device ≠ .run then .state else if levelOf s.cec.value ≠ .halted then .state else .ok := by
  cases hd : s.device <;> simp [checkResume, checks, inHold, hd]

/-- Settles O22: RESUME asks for no report room, so a due take of it alone is made; the take leaves the device and the
counter that the checks read, and arming is an OK answer's one effect. -/
theorem resumeArmsRecovery : Obligations.ResumeArmsRecovery := by
  intro s n hc
  refine ⟨fun hq hlong hdue => takes_of_alone hq hlong hdue (by rw [hc]; exact Nat.zero_le _), ?taken⟩
  intro ht r
  have hr : checkResume (openSlot n s) = r := by
    rw [checkResume_eq, frame_openSlot.device, frame_openSlot.cec]
  have hrun : exec .resume s = .next (answer (takenOf s n) r arm (openSlot n s)) := by
    rw [← hr, ← runResume_eq]
    exact congrArg Host.Outcome.next (takeCmd_of ht hc)
  obtain ⟨hcompletes, hrequests⟩ := answer_completes (s := s) (n := n) (r := r) frame_arm.cin (.of_eq frame_arm.mpa)
  refine ⟨_, hrun, hcompletes, hrequests, ?counter, ?lamp, frame_openSlot.seq (frame_answer fun _ => frame_arm)⟩
  case counter =>
    rw [answer_cec, arm_cec, frame_openSlot.cec]
    by_cases hok : r = .ok <;> simp [hok]
  case lamp =>
    rw [answer_lamp, arm_lamp, frame_openSlot.lamp, frame_openSlot.cec]
    by_cases hok : r = .ok <;> simp [hok]

end Sys2Proof.Machine
end

section
/-! SUPPORT. The laws that a step keeps (R4, R8, R16, R33, R53, R138, R148, R152, R166, R175) as one relation between the
states before and after an operation. -/
namespace Sys2Proof.Machine
set_option Elab.async false

/-! ### The relation -/

/-- A request is the read of an access, at its address and of its length. -/
def MTxn.ReadsAccess (x : MTxn) (a : CellAcc) : Prop :=
  x.kind = .cellRead a.no ∧ x.write = false ∧ x.addr = a.addr ∧ x.len = a.len

/-- An access at its read stood there before, and no request of its read has been withdrawn; or its read is requested. -/
def ReadsStand (s t : State) : Prop :=
  ∀ a ∈ t.mge.port, a.stage = .reading →
    ((∃ d ∈ s.mge.port, d.no = a.no ∧ d.stage = .reading ∧ d.addr = a.addr ∧ d.len = a.len) ∧
      ∀ x ∈ s.mpa.cell, x.kind = .cellRead a.no → x ∈ t.mpa.cell) ∨
    ∃ x ∈ t.mpa.cell, x.ReadsAccess a

/-- An operation keeps every law of the part. -/
structure Keeps (s t : State) : Prop where
  reports : s.rpu.queue.length ≤ 8 → t.rpu.queue.length ≤ 8
  counter : s.cec.value ≤ 256 → t.cec.value ≤ 256
  pixels : s.mge.pixels.length ≤ 256 → t.mge.pixels.length ≤ 256
  sensor : SensorLawful s → SensorLawful t
  intake : IntakeDistinct s → IntakeDistinct t
  inOrder : PortInOrder s → PortInOrder t
  numbered : PortsNumbered s → PortsNumbered t
  reads : PortsNumbered s → ReadsStand s t
  windows : WindowsDisjoint s → WindowsDisjoint t
  oneBusy : OneBusy s → OneBusy t
  areas : AreasDisjoint s → AreasDisjoint t
  tables : TablesCanonical s → TablesCanonical t

theorem ReadsStand.refl (s : State) : ReadsStand s s :=
  fun a ha hr => .inl ⟨⟨a, ha, rfl, hr, rfl, rfl⟩, fun _ hx _ => hx⟩

theorem ReadsStand.trans {s t u : State} (h : ReadsStand s t) (k : ReadsStand t u) : ReadsStand s u := by
  intro a ha hr
  obtain ⟨⟨d, hd, hno, hdr, haddr, hlen⟩, hkeep⟩ | hreq := k a ha hr
  · obtain ⟨⟨e, he, heno, her, headdr, helen⟩, hkeep'⟩ | ⟨x, hx, hkind, hwr, hxaddr, hxlen⟩ := h d hd hdr
    · refine .inl ⟨⟨e, he, heno.trans hno, her, headdr.trans haddr, helen.trans hlen⟩, fun x hx hk => ?_⟩
      exact hkeep x (hkeep' x hx (by rw [hno]; exact hk)) hk
    · rw [hno] at hkind
      exact .inr ⟨x, hkeep x hx hkind, hkind, hwr, hxaddr.trans haddr, hxlen.trans hlen⟩
  · exact .inr hreq

theorem Keeps.refl (s : State) : Keeps s s where
  reports := id
  counter := id
  pixels := id
  sensor := id
  intake := id
  inOrder := id
  numbered := id
  reads _ := .refl s
  windows := id
  oneBusy := id
  areas := id
  tables := id

theorem Keeps.trans {s t u : State} (h : Keeps s t) (k : Keeps t u) : Keeps s u where
  reports := k.reports ∘ h.reports
  counter := k.counter ∘ h.counter
  pixels := k.pixels ∘ h.pixels
  sensor := k.sensor ∘ h.sensor
  intake := k.intake ∘ h.intake
  inOrder := k.inOrder ∘ h.inOrder
  numbered := k.numbered ∘ h.numbered
  reads hn := (h.reads hn).trans (k.reads (h.numbered hn))
  windows := k.windows ∘ h.windows
  oneBusy := k.oneBusy ∘ h.oneBusy
  areas := k.areas ∘ h.areas
  tables := k.tables ∘ h.tables

/-- Two operations in a row, the later one named first: it gives the state between them. -/
theorem Keeps.after {s t u : State} (k : Keeps t u) (h : Keeps s t) : Keeps s u := h.trans k

theorem Keeps.ite {s t u : State} {p : Prop} [Decidable p] (h : p → Keeps s t) (k : ¬ p → Keeps s u) :
    Keeps s (if p then t else u) := by
  split
  · exact h ‹_›
  · exact k ‹_›

/-! ### One update of a block -/

/-- The laws speak of no field of these. -/
theorem Keeps.of_frame {s t : State} (h : Frame [.resetN, .device, .time, .lamp, .pdt, .freeIdx, .pending] s t) :
    Keeps s t where
  reports := by rw [h.rpu]; exact id
  counter := by rw [h.cec]; exact id
  pixels := by rw [h.mge]; exact id
  sensor := by unfold SensorLawful; rw [h.mge]; exact id
  intake := by unfold IntakeDistinct; rw [h.cin]; exact id
  inOrder := by unfold PortInOrder; rw [h.mge]; exact id
  numbered := by unfold PortsNumbered; rw [h.mge, h.wmu, h.serial]; exact id
  reads := by unfold ReadsStand; rw [h.mge, h.mpa]; exact fun _ => ReadsStand.refl s
  windows := by unfold WindowsDisjoint; rw [h.wmu]; exact id
  oneBusy := by unfold OneBusy; rw [h.slots]; exact id
  areas := by unfold AreasDisjoint; rw [h.atb]; exact id
  tables := by unfold TablesCanonical fetchedGains; rw [h.cin, h.tsa, h.scan, h.fst]; exact id

theorem keeps_setRpu {s : State} {r : Rpu} (h : s.rpu.queue.length ≤ 8 → r.queue.length ≤ 8) : Keeps s (s.setRpu r) :=
  { Keeps.refl s with reports := h }

theorem keeps_setCec {s : State} {c : Cec} (h : s.cec.value ≤ 256 → c.value ≤ 256) : Keeps s (s.setCec c) :=
  { Keeps.refl s with counter := h }

theorem keeps_setSlots {s : State} {v : Vector JobSlot 4} (h : OneBusy s → OneBusy (s.setSlots v)) :
    Keeps s (s.setSlots v) :=
  { Keeps.refl s with oneBusy := h }

theorem keeps_setAtb {s : State} {x : Atb} (h : AreasDisjoint s → AreasDisjoint (s.setAtb x)) : Keeps s (s.setAtb x) :=
  { Keeps.refl s with areas := h }

theorem keeps_setTsa {s : State} {x : Tsa} (h : TablesCanonical s → TablesCanonical (s.setTsa x)) : Keeps s (s.setTsa x) :=
  { Keeps.refl s with tables := h }

theorem keeps_setFst {s : State} {x : Fst} (h : TablesCanonical s → TablesCanonical (s.setFst x)) : Keeps s (s.setFst x) :=
  { Keeps.refl s with tables := h }

theorem keeps_setScan {s : State} {x : Scan} (h : TablesCanonical s → TablesCanonical (s.setScan x)) :
    Keeps s (s.setScan x) :=
  { Keeps.refl s with tables := h }

theorem keeps_setCin {s : State} {x : Cin} (hq : IntakeDistinct s → x.queue.Nodup)
    (ht : TablesCanonical s → TablesCanonical (s.setCin x)) : Keeps s (s.setCin x) :=
  { Keeps.refl s with intake := hq, tables := ht }

theorem keeps_setWmu {s : State} {x : Wmu} (hn : PortsNumbered s → PortsNumbered (s.setWmu x))
    (hw : WindowsDisjoint s → WindowsDisjoint (s.setWmu x)) : Keeps s (s.setWmu x) :=
  { Keeps.refl s with numbered := hn, windows := hw }

/-- The pixel queue, the sensor profile, the ladder and the sequencer change, and the cell port stands. -/
theorem keeps_setMge {s : State} {x : Mge} (hport : x.port = s.mge.port)
    (hpix : s.mge.pixels.length ≤ 256 → x.pixels.length ≤ 256) (hsens : SensorLawful s → SensorLawful (s.setMge x)) :
    Keeps s (s.setMge x) :=
  { Keeps.refl s with
    pixels := hpix
    sensor := hsens
    inOrder := by unfold PortInOrder; rw [State.setMge_mge, hport]; exact id
    numbered := by unfold PortsNumbered; rw [State.setMge_mge, hport]; exact id
    reads := by unfold ReadsStand; rw [State.setMge_mge, hport]; exact fun _ => ReadsStand.refl s }

/-- Requests of reads are neither withdrawn nor granted. -/
theorem keeps_setMpa {s : State} {m : Mpa} (h : ∀ x ∈ s.mpa.cell, ∀ n, x.kind = .cellRead n → x ∈ m.cell) :
    Keeps s (s.setMpa m) :=
  { Keeps.refl s with
    reads := fun _ a ha hr => .inl ⟨⟨a, ha, rfl, hr, rfl, rfl⟩, fun x hx hk => h x hx _ hk⟩ }

theorem keeps_setSerial {s : State} {n : Nat} (h : s.serial ≤ n) : Keeps s (s.setSerial n) :=
  { Keeps.refl s with
    numbered := fun ⟨hreads, hwrites, hport, hr, hw, hp⟩ =>
      ⟨hreads, hwrites, hport, fun r m => Nat.lt_of_lt_of_le (hr r m) h, fun w m => Nat.lt_of_lt_of_le (hw w m) h,
        fun a m => Nat.lt_of_lt_of_le (hp a m) h⟩ }

/-! ### The cell port -/

/-- Of two accesses, one a merge, the two share a byte (R4). -/
def CellAcc.Clash (d a : CellAcc) : Prop :=
  (d.isMerge = true ∨ a.isMerge = true) ∧ d.addr < a.addr + a.len ∧ a.addr < d.addr + d.len

/-- No access that has been issued clashes with an earlier one: what stays of R4's order where the accesses that may go have not
been brought to their reads yet. -/
def PortSound (p : List CellAcc) : Prop := p.Pairwise fun d a => a.stage ≠ .waiting → ¬ d.Clash a

theorem mayGo_iff {before : List CellAcc} {a : CellAcc} :
    a.mayGo before = true ↔ a.stage = .waiting ∧ ∀ d ∈ before, ¬ d.Clash a := by
  simp only [CellAcc.mayGo, decide_eq_true_eq, CellAcc.Clash]

theorem PortInOrder.sound {s : State} (h : PortInOrder s) : PortSound s.mge.port := by
  unfold PortSound
  rw [List.pairwise_iff_forall_sublist]
  intro d a hsub hst hclash
  obtain ⟨l₁, l₂, hp, hd, ha⟩ := List.cons_sublist_iff.1 hsub
  obtain ⟨u, v, hu⟩ := List.append_of_mem (List.singleton_sublist.1 ha)
  refine hst ((h (l₁ ++ u) a v (by rw [hp, hu, List.append_assoc])).2 ⟨d, List.mem_append_left _ hd, hclash⟩)

/-- An access at its place in the pumped port comes from the one at that place before. -/
theorem portFrom_split {es as ds : List CellAcc} {a : CellAcc} {rest : List CellAcc}
    (h : portFrom es as = ds ++ a :: rest) : ∃ ds' a' rest', as = ds' ++ a' :: rest' ∧ ds = portFrom es ds' ∧
      a = if a'.mayGo (es ++ ds') then { a' with stage := .reading } else a' := by
  induction as generalizing es ds with
  | nil => simp [portFrom] at h
  | cons b as ih =>
    unfold portFrom at h
    cases ds with
    | nil =>
      obtain ⟨rfl, -⟩ := List.cons.inj h
      exact ⟨[], b, as, rfl, rfl, by rw [List.append_nil]⟩
    | cons d ds =>
      obtain ⟨rfl, htail⟩ := List.cons.inj h
      obtain ⟨ds', a', rest', rfl, rfl, ha⟩ := ih htail
      exact ⟨b :: ds', a', rest', rfl, rfl, by rw [ha, List.append_assoc]; rfl⟩

/-- The pump changes no access but in its stage. -/
theorem portFrom_clash {es as : List CellAcc} {a : CellAcc} : (∃ d ∈ portFrom es as, d.Clash a) ↔ ∃ d ∈ as, d.Clash a := by
  induction as generalizing es with
  | nil => rfl
  | cons b as ih =>
    have hb : (if b.mayGo es then { b with stage := .reading } else b).Clash a ↔ b.Clash a := by split <;> rfl
    simp only [portFrom, List.mem_cons, or_and_right, exists_or, exists_eq_left, hb, ih]

/-- Once every access that may go has come to its read, the port is in order (R4). -/
theorem portOn_inOrder {t : State} {p : List CellAcc} (hp : PortSound p) (ht : t.mge.port = portOn p) : PortInOrder t := by
  intro ds a rest hsplit
  obtain ⟨ds', a', rest', rfl, rfl, rfl⟩ := portFrom_split (es := []) (ht.symm.trans hsplit)
  have hsound : ∀ d ∈ ds', a'.stage ≠ .waiting → ¬ d.Clash a' := fun d hd =>
    (List.pairwise_append.1 hp).2.2 d hd a' List.mem_cons_self
  change _ ↔ ∃ d ∈ portFrom [] ds', d.Clash _
  rw [portFrom_clash, List.nil_append]
  by_cases hgo : a'.mayGo ds' = true
  · rw [if_pos hgo]
    refine iff_of_false (fun h => nomatch h) ?_
    rintro ⟨d, hd, hc⟩
    exact (mayGo_iff.1 hgo).2 d hd hc
  · rw [if_neg hgo]
    constructor
    · intro hw
      refine Classical.byContradiction fun hno => ?_
      exact hgo (mayGo_iff.2 ⟨hw, fun d hd hc => hno ⟨d, hd, hc⟩⟩)
    · rintro ⟨d, hd, hc⟩
      refine Classical.byContradiction fun hw => ?_
      exact hsound d hd hw hc

/-- An access of the pumped port stood in the port before, at its read or free to go. -/
theorem portFrom_mem {es as : List CellAcc} {a : CellAcc} (ha : a ∈ portFrom es as) (hr : a.stage = .reading) :
    (a ∈ as) ∨ ∃ d ∈ goersFrom es as, d.no = a.no ∧ d.addr = a.addr ∧ d.len = a.len := by
  induction as generalizing es with
  | nil => cases ha
  | cons b as ih =>
    unfold portFrom at ha
    unfold goersFrom
    rcases List.mem_cons.1 ha with rfl | ha
    · by_cases hg : b.mayGo es = true
      · exact .inr ⟨b, by simp [hg], by simp [hg]⟩
      · exact .inl (by simp [hg])
    · obtain h | ⟨d, hd, h⟩ := ih ha
      · exact .inl (List.mem_cons_of_mem _ h)
      · exact .inr ⟨d, List.mem_append_right _ hd, h⟩

/-- Accesses have joined or left the port, requests that are none of a standing read have been withdrawn, and the port goes on. -/
theorem Keeps.of_portGoesOn {s t : State} {p : List CellAcc} {m : Mpa} {n : Nat} (hf : Frame [.mge, .mpa, .serial] s t)
    (hm : t.mge = { s.mge with port := portOn p }) (hgo : PortGoesOn p m n t) (hn : s.serial ≤ n)
    (hsound : PortSound s.mge.port → PortSound p)
    (hnos : PortsNumbered s → (p.map CellAcc.no).Pairwise (· < ·) ∧ ∀ a ∈ p, a.no < n)
    (hreads : PortsNumbered s → ∀ a ∈ p, a.stage = .reading →
      a ∈ s.mge.port ∧ ∀ x ∈ s.mpa.cell, x.kind = .cellRead a.no → x ∈ m.cell) : Keeps s t := by
  obtain ⟨hport, hmpa, hserial⟩ := hgo
  have hnt : n ≤ t.serial := by rw [hserial]; exact Nat.le_add_right ..
  constructor
  case reports => rw [hf.rpu]; exact id
  case counter => rw [hf.cec]; exact id
  case pixels => rw [hm]; exact id
  case sensor => unfold SensorLawful; rw [hm]; exact id
  case intake => unfold IntakeDistinct; rw [hf.cin]; exact id
  case inOrder => exact fun h => portOn_inOrder (hsound h.sound) hport
  case numbered =>
    intro h
    obtain ⟨hp, hlt⟩ := hnos h
    obtain ⟨hr, hw, -, hrs, hws, -⟩ := h
    have hmap : t.mge.port.map CellAcc.no = p.map CellAcc.no := by rw [hport]; exact portFrom_no _ _
    refine ⟨by rwa [hf.wmu], by rwa [hf.wmu], by rwa [hmap], ?_, ?_, fun a ha => ?_⟩
    · rw [hf.wmu]; exact fun r hr => Nat.lt_of_lt_of_le (hrs r hr) (Nat.le_trans hn hnt)
    · rw [hf.wmu]; exact fun w hw => Nat.lt_of_lt_of_le (hws w hw) (Nat.le_trans hn hnt)
    · obtain ⟨b, hb, hno⟩ := List.mem_map.1 (hmap ▸ List.mem_map_of_mem ha)
      exact hno ▸ Nat.lt_of_lt_of_le (hlt b hb) hnt
  case reads =>
    intro h a ha hr
    rw [hport] at ha
    obtain hold | ⟨d, hd, hno, haddr, hlen⟩ := portFrom_mem ha hr
    · obtain ⟨hs, hkeep⟩ := hreads h a hold hr
      refine .inl ⟨⟨a, hs, rfl, hr, rfl, rfl⟩, fun x hx hk => ?_⟩
      rw [hmpa]
      exact List.mem_append_left _ (hkeep x hx hk)
    · obtain ⟨k, hk, rfl⟩ := List.mem_iff_getElem.1 hd
      refine .inr ⟨⟨n + k, .cellRead _, .cell, false, _, _, []⟩, ?_, congrArg _ hno, rfl, haddr, hlen⟩
      rw [hmpa]
      exact List.mem_append_right _ (List.mem_mapIdx.2 ⟨k, hk, rfl⟩)
  case windows => unfold WindowsDisjoint; rw [hf.wmu]; exact id
  case oneBusy => unfold OneBusy; rw [hf.slots]; exact id
  case areas => unfold AreasDisjoint; rw [hf.atb]; exact id
  case tables => unfold TablesCanonical fetchedGains; rw [hf.cin, hf.tsa, hf.scan, hf.fst]; exact id

theorem PortsNumbered.port_filter {s : State} (h : PortsNumbered s) (q : CellAcc → Bool) :
    ((s.mge.port.filter q).map CellAcc.no).Pairwise (· < ·) ∧ ∀ a ∈ s.mge.port.filter q, a.no < s.serial := by
  obtain ⟨-, -, hp, -, -, hlt⟩ := h
  exact ⟨hp.sublist (List.filter_sublist.map _), fun a ha => hlt a (List.mem_filter.1 ha).1⟩

theorem keeps_beginAccess {u : CellUse} {a n : Nat} {s : State} : Keeps s (beginAccess u a n s) := by
  obtain ⟨hgo, hm⟩ := beginAccess_spec u a n s
  refine .of_portGoesOn (frame_beginAccess.wide) hm hgo (Nat.le_succ _) ?_ ?_ ?_
  · intro h
    refine List.pairwise_append.2 ⟨h, List.pairwise_singleton .., fun d _ b hb hst => ?_⟩
    rw [List.mem_singleton.1 hb] at hst
    exact absurd rfl hst
  · rintro ⟨-, -, hp, -, -, hlt⟩
    constructor
    · rw [List.map_append]
      refine List.pairwise_append.2 ⟨hp, List.pairwise_singleton .., fun x hx y hy => ?_⟩
      obtain ⟨d, hd, rfl⟩ := List.mem_map.1 hx
      rw [List.mem_singleton.1 hy]
      exact hlt d hd
    · intro d hd
      rcases List.mem_append.1 hd with hd | hd
      · exact Nat.lt_succ_of_lt (hlt d hd)
      · rw [List.mem_singleton.1 hd]; exact Nat.lt_succ_self _
  · intro _ d hd hr
    rcases List.mem_append.1 hd with hd | hd
    · exact ⟨hd, fun x hx _ => hx⟩
    · rw [List.mem_singleton.1 hd] at hr; cases hr

theorem keeps_endAccess {n : Nat} {s : State} : Keeps s (endAccess n s) := by
  obtain ⟨hgo, hm⟩ := endAccess_spec n s
  exact .of_portGoesOn frame_endAccess.wide hm hgo (Nat.le_refl _) (fun h => h.filter _) (fun h => h.port_filter _)
    (fun _ a ha _ => ⟨(List.mem_filter.1 ha).1, fun x hx _ => hx⟩)

/-- Each access changes in what it hands over or in coming to its write, and none comes to wait or to its read. -/
theorem keeps_mapPort {s : State} {f : CellAcc → CellAcc}
    (hf : ∀ a, (f a).no = a.no ∧ (f a).addr = a.addr ∧ (f a).len = a.len ∧ (f a).isMerge = a.isMerge)
    (hw : ∀ a, (f a).stage = .waiting ↔ a.stage = .waiting) (hr : ∀ a, (f a).stage = .reading → a.stage = .reading) :
    Keeps s (setPort (s.mge.port.map f) s) :=
  { Keeps.refl s with
    inOrder := by
      intro h ds a as hp
      obtain ⟨ds', l, hl, rfl, hl'⟩ := List.map_eq_append_iff.1 (show s.mge.port.map f = ds ++ a :: as from hp)
      obtain ⟨a', as', rfl, rfl, rfl⟩ := List.map_eq_cons_iff.1 hl'
      obtain ⟨-, haddr, hlen, hmerge⟩ := hf a'
      rw [hw, h ds' a' as' hl, haddr, hlen, hmerge]
      constructor
      · rintro ⟨d, hd, hclash⟩
        obtain ⟨-, hda, hdl, hdm⟩ := hf d
        exact ⟨f d, List.mem_map_of_mem hd, by rw [hda, hdl, hdm]; exact hclash⟩
      · rintro ⟨_, hmem, hclash⟩
        obtain ⟨d, hd, rfl⟩ := List.mem_map.1 hmem
        obtain ⟨-, hda, hdl, hdm⟩ := hf d
        rw [hda, hdl, hdm] at hclash
        exact ⟨d, hd, hclash⟩
    numbered := by
      rintro ⟨hreads, hwrites, hp, hrs, hws, hlt⟩
      have hmap : (s.mge.port.map f).map CellAcc.no = s.mge.port.map CellAcc.no := by
        rw [List.map_map]; exact List.map_congr_left fun a _ => (hf a).1
      refine ⟨hreads, hwrites, hmap ▸ hp, hrs, hws, fun a ha => ?_⟩
      obtain ⟨b, hb, rfl⟩ := List.mem_map.1 ha
      rw [(hf b).1]
      exact hlt b hb
    reads := by
      intro _ a ha hst
      obtain ⟨b, hb, rfl⟩ := List.mem_map.1 ha
      obtain ⟨hno, haddr, hlen, -⟩ := hf b
      exact .inl ⟨⟨b, hb, hno.symm, hr b hst, haddr.symm, hlen.symm⟩, fun x hx _ => hx⟩ }

end Sys2Proof.Machine
end

section
/-! SUPPORT. The shared operations, the scheduler, the monitors and the sequencer keep the laws. -/
namespace Sys2Proof.Machine
set_option Elab.async false

/-! ### Latches, reports and requests -/

@[simp] theorem Rpu.latch_queue (r : Rpu) (l : Latch) : (r.latch l).queue = r.queue := by cases l <;> rfl

@[simp] theorem Rpu.putFlag_queue (r : Rpu) (f : CoalFlag) (b : Bool) : (r.putFlag f b).queue = r.queue := by
  cases f <;> rfl

theorem keeps_setLatch {l : Latch} {s : State} : Keeps s (setLatch l s) := keeps_setRpu (by rw [Rpu.latch_queue]; exact id)

theorem keeps_setFlag {f : CoalFlag} {s : State} : Keeps s (setFlag f s) := keeps_setRpu (by rw [Rpu.putFlag_queue]; exact id)

theorem keeps_pushReport {a b : Nat} {r : RepBody} {s : State} : Keeps s (pushReport a b r s) := by
  unfold pushReport
  refine Keeps.ite (fun hroom => keeps_setRpu fun _ => ?_) (fun _ => .refl s)
  rw [Config.reportQueueDepth] at hroom
  change (s.rpu.queue ++ [_]).length ≤ 8
  rw [List.length_append, List.length_singleton]
  exact hroom

theorem enqueue_cell {m : Mpa} {t x : MTxn} (h : x ∈ m.cell) : x ∈ (m.enqueue t).cell := by
  unfold Mpa.enqueue
  split
  · exact h
  · exact h
  · exact List.mem_append_left _ h
  · exact h

theorem keeps_requestM {k : MKind} {c : MClass} {w : Bool} {a n : Nat} {bs : List Byte} {s : State} :
    Keeps s (requestM k c w a n bs s) :=
  (keeps_setSerial (Nat.le_succ _)).trans (keeps_setMpa fun _ hx _ _ => enqueue_cell hx)

theorem keeps_answered {n : Nat} {s : State} : Keeps s (answered n s) := keeps_setMpa fun _ hx _ _ => hx

/-- Withdrawing requests that are no reads of the cell port. -/
theorem keeps_withdraw {p : MTxn → Bool} {s : State} (h : ∀ x n, x.kind = .cellRead n → p x = false) :
    Keeps s (s.setMpa (s.mpa.withdraw p)) :=
  keeps_setMpa fun x hx n hk => List.mem_filter.2 ⟨hx, by rw [h x n hk]; rfl⟩

theorem keeps_stopIssuer {p : MTxn → Bool} {s : State} (h : ∀ x n, x.kind = .cellRead n → p x = false) :
    Keeps s (stopIssuer p s) :=
  keeps_setMpa fun x hx n hk => List.mem_filter.2 ⟨hx, by rw [h x n hk]; rfl⟩

theorem isSweep_cellRead (x : MTxn) (n : Nat) (h : x.kind = .cellRead n) : isSweep x = false := by
  rw [isSweep, h]; rfl

theorem isJobFetch_cellRead (x : MTxn) (n : Nat) (h : x.kind = .cellRead n) : isJobFetch x = false := by
  rw [isJobFetch, h]; rfl

theorem isFlatWrite_cellRead (x : MTxn) (n : Nat) (h : x.kind = .cellRead n) : isFlatWrite x = false := by
  rw [isFlatWrite, h]; rfl

theorem isFlatGain_cellRead (x : MTxn) (n : Nat) (h : x.kind = .cellRead n) : isFlatGain x = false := by
  rw [isFlatGain, h]

theorem keeps_memErr {e : Bool} {s : State} : Keeps s (memErr e s) :=
  Keeps.ite (fun _ => keeps_setLatch) (fun _ => .refl s)

theorem keeps_noteErr {r : Resp} {s : State} : Keeps s (noteErr r s) :=
  Keeps.ite (fun _ => keeps_setLatch.trans keeps_setLatch) (fun _ => .refl s)

theorem keeps_requestHead {v : Nat} {b : Bool} {s : State} : Keeps s (requestHead v b s) :=
  keeps_requestM.trans (keeps_setRpu id)

/-! ### Slots, areas, banks and the sequencer -/

/-- A slot that is busy after it is replaced was busy before (R53). -/
theorem keeps_putSlot {i : Fin 4} {x : JobSlot} {s : State}
    (h : x.state.busy = true → (vget s.slots i).state.busy = true) : Keeps s (putSlot i x s) := by
  refine keeps_setSlots fun hs j k hj hk => ?_
  have back : ∀ l, (vget (vput s.slots i x) l).state.busy = true → (vget s.slots l).state.busy = true := by
    intro l hl
    by_cases hli : l = i
    · subst hli
      rw [vget_vput_self] at hl
      exact h hl
    · rwa [vget_vput_ne _ _ _ _ hli] at hl
  exact hs j k (back j hj) (back k hk)

theorem busySlot_none_iff {s : State} : busySlot s = none ↔ ∀ i, (vget s.slots i).state.busy = false := by
  simp [busySlot, List.find?_eq_none, mem_four]

theorem busySlot_busy {s : State} {i : Fin 4} (h : busySlot s = some i) : (vget s.slots i).state.busy = true := by
  simpa using List.find?_some h

theorem activeSlot_active {s : State} {i : Fin 4} (h : activeSlot s = some i) : (vget s.slots i).state = .active := by
  simpa using List.find?_some h

/-- With no slot busy, one may become so (R59). -/
theorem keeps_putSlot_first {i : Fin 4} {x : JobSlot} {s : State} (h : busySlot s = none) : Keeps s (putSlot i x s) := by
  refine keeps_setSlots fun _ j k hj hk => ?_
  have only : ∀ l, (vget (vput s.slots i x) l).state.busy = true → l = i := by
    intro l hl
    refine Classical.byContradiction fun hli => ?_
    rw [vget_vput_ne _ _ _ _ hli, busySlot_none_iff.1 h l] at hl
    cases hl
  exact (only j hj).trans (only k hk).symm

/-- Areas that keep their ranges, none of them becoming undefined, stay apart (R8). -/
theorem areasDisjoint_of_ranges {s u : State} (h : ∀ i, (vget u.atb.areas i).base = (vget s.atb.areas i).base ∧
    (vget u.atb.areas i).size = (vget s.atb.areas i).size ∧
    ((vget u.atb.areas i).state = .undefined → (vget s.atb.areas i).state = .undefined)) (hs : AreasDisjoint s) :
    AreasDisjoint u := by
  obtain ⟨hu, hd⟩ := hs
  refine ⟨fun i hi => ?_, fun i j hij => ?_⟩
  · obtain ⟨hb, hs, hst⟩ := h i
    exact ⟨hs.trans (hu i (hst hi)).1, hb.trans (hu i (hst hi)).2⟩
  · obtain ⟨hbi, hsi, -⟩ := h i
    obtain ⟨hbj, hsj, -⟩ := h j
    rw [hbi, hsi, hbj, hsj]
    exact hd i j hij

theorem keeps_putArea {i : Fin 4} {a : Area} {s : State} (hb : a.base = (vget s.atb.areas i).base)
    (hs : a.size = (vget s.atb.areas i).size) (hu : a.state = .undefined → (vget s.atb.areas i).state = .undefined) :
    Keeps s (putArea i a s) := by
  refine keeps_setAtb (areasDisjoint_of_ranges fun j => ?_)
  dsimp only [State.setAtb_atb]
  by_cases hji : j = i
  · subst hji
    rw [vget_vput_self]
    exact ⟨hb, hs, hu⟩
  · rw [vget_vput_ne _ _ _ _ hji]
    exact ⟨rfl, rfl, id⟩

theorem keeps_setSweep {w : Option Sweep} {s : State} : Keeps s (setSweep w s) := keeps_setAtb id

theorem keeps_putBank {i : Fin 2} {b : Bank} {s : State} (h : TablesCanonical s → swf b.gains = true) :
    Keeps s (putBank i b s) := by
  refine keeps_setFst fun ht => ?_
  obtain ⟨hsh, hsum, hcount, hrej, hhist, hbanks, hfetch⟩ := id ht
  refine ⟨hsh, hsum, hcount, hrej, hhist, fun k => ?_, hfetch⟩
  by_cases hki : k = i
  · subst hki
    exact (congrArg (fun b : Bank => swf b.gains) (vget_vput_self ..)).trans (h ht)
  · exact (congrArg (fun b : Bank => swf b.gains) (vget_vput_ne _ _ _ _ hki)).trans (hbanks k)

theorem keeps_putSeq {q : Seq} {s : State} : Keeps s (putSeq q s) := keeps_setMge rfl id id

theorem keeps_setScanning {c : Scan} {s : State} (h : swf s.scan.hist = true → swf c.hist = true) : Keeps s (s.setScan c) :=
  keeps_setScan fun ⟨hsh, hsum, hcount, hrej, hhist, hrest⟩ => ⟨hsh, hsum, hcount, hrej, h hhist, hrest⟩

theorem keeps_unhandMerges {s : State} : Keeps s (unhandMerges s) := by
  refine keeps_mapPort (f := CellAcc.unhanded) (fun a => ?_) (fun a => ?_) (fun a => ?_)
  · unfold CellAcc.unhanded CellAcc.isMerge
    cases ha : a.use <;> simp [ha]
  · unfold CellAcc.unhanded
    cases a.use <;> exact Iff.rfl
  · unfold CellAcc.unhanded
    cases a.use <;> exact id

/-! ### The intake -/

/-- The intake changes in neither its queue, its shadow nor the command in execution. -/
theorem keeps_setCin_of_same {x : Cin} {s : State} (hq : x.queue = s.cin.queue) (hs : x.shadow = s.cin.shadow)
    (hl : x.long = s.cin.long) : Keeps s (s.setCin x) := by
  refine keeps_setCin (fun h => hq ▸ h) fun h => ?_
  unfold TablesCanonical fetchedGains at h ⊢
  rw [State.setCin_cin, hs, hl]
  exact h

theorem keeps_setQueue {x : Cin} {s : State} (hq : x.queue.Sublist s.cin.queue) (hs : x.shadow = s.cin.shadow)
    (hl : x.long = s.cin.long) : Keeps s (s.setCin x) := by
  refine keeps_setCin (fun h => h.sublist hq) fun h => ?_
  unfold TablesCanonical fetchedGains at h ⊢
  rw [State.setCin_cin, hs, hl]
  exact h

theorem keeps_putCmdSlot {n : Fin 8} {x : CmdSlot} {s : State} : Keeps s (putCmdSlot n x s) :=
  keeps_setCin_of_same rfl rfl rfl

theorem keeps_setWaits {w : List DoneWait} {s : State} : Keeps s (setWaits w s) := keeps_setCin_of_same rfl rfl rfl

theorem keeps_takeEvent {s : State} : Keeps s (takeEvent s) := keeps_setCin_of_same rfl rfl rfl

theorem keeps_setLong {l : Option LongOp} {s : State} (h : TablesCanonical s → swf (fetchedGains (setLong l s)) = true) :
    Keeps s (setLong l s) :=
  keeps_setCin id fun ht =>
    have ⟨hsh, hsum, hcount, hrej, hhist, hbanks, _⟩ := id ht
    ⟨hsh, hsum, hcount, hrej, hhist, hbanks, h ht⟩

theorem keeps_setShadow {m : Sparse} {s : State} (h : swf s.cin.shadow = true → swf m = true) : Keeps s (setShadow m s) :=
  keeps_setCin id fun ⟨hsh, hrest⟩ => ⟨h hsh, hrest⟩

theorem swf_shadowAfter (m : Sparse) (bs : List (Nat × Byte)) (h : swf m = true) : swf (shadowAfter m bs) = true := by
  induction bs generalizing m with
  | nil => exact h
  | cons p bs ih =>
    refine ih _ ?_
    split
    · exact swf_sput m _ _ h
    · exact h

theorem keeps_issueSlot {n : Fin 8} {s : State} : Keeps s (issueSlot n s) := by
  refine Keeps.ite (fun _ => .refl s) fun h => keeps_setCin (fun hq => ?_) id
  have hn : n ∉ s.cin.queue := fun hn => h (by simp [hn])
  exact List.nodup_append.2 ⟨hq, List.pairwise_singleton .., fun a ha b hb => by
    rw [List.mem_singleton.1 hb]; exact fun e => hn (e ▸ ha)⟩

theorem keeps_withdrawSlot {n : Fin 8} {s : State} : Keeps s (withdrawSlot n s) :=
  Keeps.ite (fun _ => keeps_setQueue List.filter_sublist rfl rfl)
    (fun _ => Keeps.ite (fun _ => keeps_putCmdSlot) (fun _ => .refl s))

theorem keeps_judgeByte {o : Nat} {b : Byte} {s : State} : Keeps s (judgeByte o b s) := by
  unfold judgeByte
  split
  · exact Keeps.ite (fun _ => Keeps.ite (fun _ => keeps_issueSlot.trans keeps_takeEvent)
      (fun _ => Keeps.ite (fun _ => keeps_withdrawSlot.trans keeps_takeEvent) (fun _ => .refl s))) (fun _ => .refl s)
  · exact .refl s

theorem keeps_judgeBytes {bs : List (Nat × Byte)} {s : State} : Keeps s (judgeBytes bs s) := by
  induction bs generalizing s with
  | nil => exact .refl s
  | cons p bs ih => exact keeps_judgeByte.trans ih

theorem keeps_tailAfter {bs : List (Nat × Byte)} {s : State} : Keeps s (tailAfter bs s) :=
  Keeps.ite (fun _ => keeps_setRpu id) (fun _ => .refl s)

theorem keeps_handBytes {bs : List (Nat × Byte)} {s : State} : Keeps s (handBytes bs s) :=
  ((keeps_setShadow (swf_shadowAfter _ bs)).trans keeps_tailAfter).trans keeps_judgeBytes

theorem keeps_openSlot {n : Fin 8} {s : State} : Keeps s (openSlot n s) :=
  Keeps.after keeps_requestM (Keeps.after keeps_putCmdSlot (keeps_setQueue List.filter_sublist rfl rfl))

theorem keeps_pumpWaits {ks ds : List DoneWait} {s : State} : Keeps s (pumpWaits ks ds s).2 := by
  induction ds generalizing ks s with
  | nil => exact .refl s
  | cons d ds ih =>
    unfold pumpWaits
    split
    · exact ih
    · exact Keeps.trans keeps_requestM ih

theorem keeps_pumpDone {s : State} : Keeps s (pumpDone s) := keeps_pumpWaits.trans keeps_setWaits

theorem keeps_complete {n : Fin 8} {r : Result} {s : State} : Keeps s (complete n r s) :=
  (keeps_setWaits.trans keeps_pumpDone).trans keeps_takeEvent

/-- A command that is not a FLAT_FETCH comes into execution, or none does. -/
theorem keeps_setLong_none {s : State} : Keeps s (setLong none s) := keeps_setLong fun _ => rfl

/-! ### The sweep and the start decision -/

theorem keeps_sweepKick {s : State} : Keeps s (sweepKick s) := by
  unfold sweepKick
  split
  · exact Keeps.ite (fun _ => keeps_requestM.trans keeps_setSweep) (fun _ => .refl s)
  · exact .refl s

theorem keeps_stopSweep {s : State} : Keeps s (stopSweep s) := by
  unfold stopSweep
  split
  · exact Keeps.after keeps_setSweep (Keeps.after (keeps_stopIssuer isSweep_cellRead)
      (keeps_putArea rfl rfl fun h => nomatch h))
  · exact .refl s

theorem keeps_endDueAt {i : Fin 4} {e : JobEnd} {s : State} : Keeps s (endDueAt i e s) :=
  Keeps.ite (fun _ => .refl s) (fun _ => keeps_putSlot id)

theorem keeps_failDue {i : Fin 4} {r : EndReason} {s : State} : Keeps s (failDue i r s) := by
  unfold failDue
  split
  · exact keeps_endDueAt
  · exact .refl s

theorem keeps_tookGeneration {i : Fin 4} {g : Nat} {s : State} : Keeps s (tookGeneration i g s) := by
  unfold tookGeneration
  dsimp only
  split
  · exact keeps_putSlot id
  · exact .refl s

theorem keeps_generationStep {i n : Fin 4} {s : State} : Keeps s (generationStep i n s) :=
  Keeps.ite (fun _ => Keeps.after keeps_tookGeneration (keeps_putArea rfl rfl id))
    (fun _ => keeps_setSweep.trans keeps_sweepKick)

theorem keeps_plateStarting {i : Fin 4} {j : JobRecord} {s : State} : Keeps s (plateStarting i j s) :=
  have owned : Keeps s (putArea j.areaNo { vget s.atb.areas j.areaNo with owner := some i } s) := keeps_putArea rfl rfl id
  Keeps.ite (fun _ => owned.trans keeps_failDue)
    (fun _ => Keeps.ite (fun _ => owned.trans keeps_failDue) (fun _ => owned.trans keeps_generationStep))

theorem keeps_flatStarting {i : Fin 4} {j : JobRecord} {s : State} : Keeps s (flatStarting i j s) :=
  ((keeps_putBank fun _ => rfl).trans (keeps_setTsa fun ⟨hsh, _, _, hrest⟩ => ⟨hsh, rfl, rfl, hrest⟩)).trans
    (keeps_putSlot id)

/-- The start decision picks an eligible slot (R60). -/
theorem pickStart_eligible {s : State} {l : List (Fin 4)} {i : Fin 4} (h : pickStart s l = some i) : eligible s i = true := by
  induction l with
  | nil => cases h
  | cons j l ih =>
    unfold pickStart at h
    split at h
    · split at h
      · cases h; assumption
      · cases h
    · split at h
      · cases h; simp_all
      · cases h; exact ih ‹_›

theorem eligible_idle {s : State} {i : Fin 4} (h : eligible s i = true) : busySlot s = none := by
  simp only [eligible, Bool.and_eq_true] at h
  exact Option.isNone_iff_eq_none.1 h.1.1.1.2

theorem keeps_startDecision {s : State} : Keeps s (startDecision s) := by
  unfold startDecision
  split
  · rename_i i hi
    have hstart : Keeps s (putSlot i { vget s.slots i with state := .starting } s) :=
      keeps_putSlot_first (eligible_idle (pickStart_eligible hi))
    unfold enterStarting
    dsimp only
    split
    · split
      · exact hstart.trans keeps_plateStarting
      · exact hstart.trans keeps_flatStarting
    · exact hstart
  · exact .refl s

/-- The counter takes a value of its range (R138). -/
theorem keeps_setCecValue {v : Nat} {s : State} (h : s.cec.value ≤ 256 → v ≤ 256) : Keeps s (setCecValue v s) := by
  have hv : Keeps s (s.setCec { s.cec with value := v }) := keeps_setCec h
  exact Keeps.ite (fun _ => hv) (fun _ => (hv.trans keeps_setFlag).trans keeps_startDecision)

theorem keeps_scoreUp {n : Nat} {s : State} : Keeps s (scoreUp n s) := keeps_setCecValue fun _ => by split <;> omega

theorem keeps_scoreDown {s : State} : Keeps s (scoreDown s) := keeps_setCecValue fun h => Nat.le_trans (Nat.sub_le ..) h

/-! ### Leaving states and the end of a job -/

theorem keeps_dropAttempt {s : State} : Keeps s (dropAttempt s) :=
  Keeps.after keeps_unhandMerges (keeps_setMge rfl (fun _ => Nat.zero_le _) id)

/-- Accesses under one number are one access. -/
theorem eq_of_ascending {p : List CellAcc} (h : (p.map CellAcc.no).Pairwise (· < ·)) {a b : CellAcc} (ha : a ∈ p) (hb : b ∈ p)
    (hno : a.no = b.no) : a = b := by
  induction p with
  | nil => cases ha
  | cons x p ih =>
    obtain ⟨hfirst, hrest⟩ := List.pairwise_cons.1 h
    rcases List.mem_cons.1 ha with rfl | ha'
    · rcases List.mem_cons.1 hb with rfl | hb'
      · rfl
      · exact absurd hno (Nat.ne_of_lt (hfirst _ (List.mem_map_of_mem hb')))
    · rcases List.mem_cons.1 hb with rfl | hb'
      · exact absurd hno.symm (Nat.ne_of_lt (hfirst _ (List.mem_map_of_mem ha')))
      · exact ih hrest ha' hb'

/-- The accesses of the scan leave the port, and only their reads are withdrawn (R99). -/
theorem keeps_stopScan {s : State} : Keeps s (stopScan s) := by
  have hidle : Keeps s (s.setScan Scan.idle) := keeps_setScanning fun _ => rfl
  refine hidle.trans ?_
  obtain ⟨hgo, hm, hf⟩ := pumpPort_spec (setPort (s.mge.port.filter fun a => !a.isScan)
    ((stopIssuer (isScanRead s.mge.port) s).setScan Scan.idle))
  have hframe : Frame [.mge, .mpa, .serial] (s.setScan Scan.idle) (stopScan s) :=
    ((frame_stopIssuer (p := isScanRead s.mge.port) (s := s.setScan Scan.idle)).trans frame_setPort).seq hf
  refine .of_portGoesOn hframe hm hgo (Nat.le_refl _) (fun h => h.filter _) (fun h => h.port_filter _) fun hn a ha _ => ?_
  obtain ⟨hmem, hscan⟩ := List.mem_filter.1 ha
  refine ⟨hmem, fun x hx hk => List.mem_filter.2 ⟨hx, ?_⟩⟩
  obtain ⟨-, -, hp, -⟩ := hn
  rw [isScanRead, hk, Bool.not_eq_true', List.any_eq_false]
  intro d hd hc
  rw [Bool.and_eq_true, beq_iff_eq] at hc
  have hda : d = a := eq_of_ascending hp hd hmem hc.1
  simp [← hda, hc.2] at hscan

theorem keeps_setComp {c : Option GainComp} {s : State} : Keeps s (s.setFst { s.fst with comp := c }) := keeps_setFst id

theorem keeps_leaveState {x : SlotState} {k : JobKind} {s : State} : Keeps s (leaveState x k s) := by
  unfold leaveState
  split
  · exact keeps_stopSweep
  · exact keeps_dropAttempt
  · split
    · exact keeps_stopScan
    · exact keeps_setComp
  · exact .refl s

theorem keeps_bankAtEnd {j : JobRecord} {o : JobOutcome} {s : State} : Keeps s (bankAtEnd j o s) := by
  unfold bankAtEnd
  split
  · exact .refl s
  · split
    · exact keeps_putBank fun ⟨_, _, _, _, _, hbanks, _⟩ => hbanks _
    · exact keeps_putBank fun _ => rfl

theorem endedAs_not_busy (x : JobSlot) (e : JobEnd) : (x.endedAs e).state.busy = false := by
  rw [JobSlot.endedAs]; cases e.outcome <;> rfl

theorem keeps_endJob {i : Fin 4} {e : JobEnd} {s : State} : Keeps s (endJob i e s) := by
  unfold endJob
  dsimp only
  split
  · have hended : ∀ j, Keeps s (putSlot i ((vget s.slots i).endedAs e) (pushEnded i j e s)) := fun j =>
      keeps_pushReport.trans (keeps_putSlot fun hb => absurd hb (by rw [endedAs_not_busy]; decide))
    refine Keeps.trans (t := ite _ _ _) (Keeps.ite (fun _ => ?_) (fun _ => hended _)) keeps_startDecision
    exact ((hended _).trans keeps_putSeq).trans keeps_bankAtEnd
  · exact .refl s

theorem keeps_abortSlot {i : Fin 4} {r : EndReason} {s : State} : Keeps s (abortSlot i r s) := by
  unfold abortSlot
  dsimp only
  split
  · exact keeps_leaveState.trans keeps_endJob
  · exact .refl s

theorem keeps_setLamp {l : Lamp} {s : State} : Keeps s (s.setLamp l) := .of_frame frame_setLamp.wide

theorem keeps_setPdt {p : Pdt} {s : State} : Keeps s (s.setPdt p) := .of_frame frame_setPdt.wide

theorem keeps_setDevice {d : Device} {s : State} : Keeps s (s.setDevice d) := .of_frame frame_setDevice.wide

theorem keeps_setFreeIdx {n : Nat} {s : State} : Keeps s (s.setFreeIdx n) := .of_frame frame_setFreeIdx.wide

theorem keeps_monitorsHold {s : State} : Keeps s (monitorsHold s) := by
  unfold monitorsHold
  have hlamp : Keeps s (if s.lamp.state = .offline then s else setFlag .lamp s) :=
    Keeps.ite (fun _ => .refl s) (fun _ => keeps_setFlag)
  have hpres : ∀ u : State, Keeps u (if u.pdt.presence = .unknown then u else setFlag .presence u) := fun u =>
    Keeps.ite (fun _ => .refl u) (fun _ => keeps_setFlag)
  exact (((hlamp.trans (hpres _)).trans keeps_setLamp).trans keeps_setPdt).trans (keeps_setCec id)

theorem keeps_jobsHold {s : State} : Keeps s (jobsHold s) := by
  unfold jobsHold
  split
  · split
    · exact keeps_endJob
    · exact keeps_abortSlot
  · exact .refl s

theorem keeps_holdEntry {s : State} : Keeps s (holdEntry s) :=
  (keeps_jobsHold.trans keeps_monitorsHold).trans keeps_setDevice

theorem keeps_finishHold {n : Fin 8} {s : State} : Keeps s (finishHold n s) :=
  (keeps_holdEntry.trans keeps_setLong_none).trans keeps_complete

theorem keeps_holdAfterEnd {s : State} : Keeps s (holdAfterEnd s) := by
  unfold holdAfterEnd
  split
  · exact Keeps.ite (fun _ => keeps_finishHold) (fun _ => .refl s)
  · exact .refl s

/-! ### Finishing -/

theorem keeps_scanRequest {s : State} : Keeps s (scanRequest s) := by
  unfold scanRequest
  split
  · exact Keeps.ite (fun _ => Keeps.after keeps_beginAccess (keeps_setScanning id)) (fun _ => .refl s)
  · exact .refl s

theorem swf_count {c : Scan} {auto : Bool} {opn : Nat} {j : Option Cell} (h : swf c.hist = true) :
    swf (c.count auto opn j).hist = true := by
  unfold Scan.count
  split
  · exact h
  · split
    · dsimp only
      split
      · exact swf_sput _ _ _ h
      · exact h
    · exact h

theorem swf_beats {c : Scan} {auto : Bool} {gen opn : Nat} {ds : List RData} (h : swf c.hist = true) :
    swf (c.beats auto gen opn ds).hist = true := by
  induction ds generalizing c with
  | nil => exact h
  | cons d ds ih =>
    refine ih ?_
    unfold Scan.beat
    split
    · exact h
    · exact swf_count (swf_count h)

theorem keeps_scanComplete {j : JobRecord} {s : State} : Keeps s (scanComplete j s) :=
  Keeps.ite (fun _ => Keeps.after keeps_endDueAt (keeps_setScanning id)) (fun _ => .refl s)

/-- The ACTIVE slot enters FINISHING: it was busy before (R66). -/
theorem keeps_enterFinishing {i : Fin 4} {j : JobRecord} {s : State} (h : (vget s.slots i).state.busy = true) :
    Keeps s (enterFinishing i j s) := by
  have hidle : ∀ u : State, Keeps u (u.setMge { u.mge with pixels := [], seq := Seq.idle }) := fun u =>
    keeps_setMge rfl (fun _ => Nat.zero_le _) id
  unfold enterFinishing
  dsimp only
  split
  · exact Keeps.after keeps_scanRequest (Keeps.after (keeps_setScanning fun _ => rfl)
      (Keeps.after (hidle _) (keeps_putSlot fun _ => h)))
  · exact Keeps.after keeps_setComp (Keeps.after (hidle _) (keeps_putSlot fun _ => h))

/-! ### The monitors -/

theorem keeps_completeRecovery {s : State} : Keeps s (completeRecovery s) :=
  Keeps.after (keeps_setCecValue fun _ => Nat.zero_le _) (Keeps.after (keeps_setCec id) keeps_setLamp)

theorem keeps_countRecovery {s : State} : Keeps s (countRecovery s) :=
  Keeps.ite (fun _ => Keeps.ite (fun _ => keeps_completeRecovery) (fun _ => keeps_setLamp)) (fun _ => .refl s)

theorem keeps_departure {s : State} : Keeps s (departure s) := keeps_setLatch.trans keeps_setLamp

theorem keeps_lampChanged {s : State} : Keeps s (lampChanged s) := keeps_setFlag.trans keeps_startDecision

theorem keeps_applyMeas {m : Meas} {s : State} : Keeps s (applyMeas m s) := by
  have gone : ∀ (p : Prop) [Decidable p] (u : State), Keeps u (if p then departure u else u) := fun p _ u =>
    Keeps.ite (fun _ => keeps_departure) (fun _ => .refl u)
  have changed : ∀ (p : Prop) [Decidable p] (u : State), Keeps u (if p then u else lampChanged u) := fun p _ u =>
    Keeps.ite (fun _ => .refl u) (fun _ => keeps_lampChanged)
  unfold applyMeas
  dsimp only
  split
  · exact ((keeps_setLamp.trans (gone _ _)).trans (changed _ _)).trans keeps_countRecovery
  · exact (keeps_setLamp.trans (gone _ _)).trans (changed _ _)

theorem keeps_presenceActs {p : Presence} {s : State} : Keeps s (presenceActs p s) := by
  unfold presenceActs
  dsimp only
  repeat' split
  all_goals first | exact .refl s | exact keeps_leaveState.trans keeps_failDue

theorem keeps_changePresence {p : Presence} {s : State} : Keeps s (changePresence p s) :=
  (((keeps_setPdt.trans keeps_setFlag).trans keeps_setLatch).trans keeps_presenceActs).trans keeps_startDecision

theorem keeps_voteFor {p : Presence} {s : State} : Keeps s (voteFor p s) :=
  Keeps.ite (fun _ => keeps_setPdt) (fun _ => Keeps.ite
    (fun _ => Keeps.ite (fun _ => keeps_changePresence) (fun _ => keeps_setPdt)) (fun _ => keeps_setPdt))

theorem keeps_framePresence {t : Totals} {s : State} : Keeps s (framePresence t s) := by
  unfold framePresence
  split
  · exact keeps_voteFor
  · exact .refl s

theorem keeps_evaluateFrame {e : Nat} {t : Totals} {s : State} : Keeps s (evaluateFrame e t s) :=
  Keeps.ite (fun _ => .refl s) (fun _ => Keeps.ite
    (fun _ => (keeps_setFreeIdx.trans keeps_applyMeas).trans keeps_framePresence)
    (fun _ => (keeps_setFreeIdx.trans keeps_framePresence).trans keeps_applyMeas))

theorem keeps_monitorSample {n : Fin 16} {w h r e : Nat} {iv : Nat × Nat} {s : State} :
    Keeps s (monitorSample n w h r e iv s) :=
  Keeps.ite (fun _ => .refl s) (fun _ => Keeps.ite (fun _ => keeps_evaluateFrame.trans keeps_setPdt)
    (fun _ => keeps_setPdt))

theorem keeps_monitorAll {n : Fin 16} {w h r e : Nat} {ivs : List (Nat × Nat)} {s : State} :
    Keeps s (monitorAll n w h r e ivs s) := by
  induction ivs generalizing s with
  | nil => exact .refl s
  | cons iv ivs ih => exact keeps_monitorSample.trans ih

theorem keeps_runEntry {s : State} : Keeps s (runEntry s) :=
  ((keeps_setDevice.trans keeps_setLamp).trans keeps_setFlag).trans keeps_startDecision

/-! ### The sequencer -/

theorem keeps_popPixel {s : State} : Keeps s (popPixel s) :=
  keeps_setMge rfl (fun h => Nat.le_trans (List.drop_sublist ..).length_le h) id

theorem keeps_takeStray {s : State} : Keeps s (takeStray s) :=
  Keeps.ite (fun _ => keeps_popPixel) (fun _ => Keeps.ite (fun _ => keeps_popPixel.trans keeps_putSeq)
    (fun _ => (keeps_popPixel.trans keeps_setFreeIdx).trans keeps_putSeq))

theorem keeps_beginAttempt {s : State} : Keeps s (beginAttempt s) :=
  Keeps.ite (fun _ => keeps_putSeq.trans
    (keeps_setTsa fun ⟨hsh, hsum, hcount, _, hrest⟩ => ⟨hsh, hsum, hcount, rfl, hrest⟩)) (fun _ => .refl s)

theorem keeps_verdictPoint {j : JobRecord} {s : State} : Keeps s (verdictPoint j s) :=
  Keeps.ite (fun _ => keeps_applyMeas.trans keeps_putSeq) (fun _ => keeps_applyMeas.trans keeps_putSeq)

theorem keeps_takeReference {j : JobRecord} {v : Nat} {s : State} : Keeps s (takeReference j v s) :=
  Keeps.ite (fun _ => keeps_putSeq.trans keeps_verdictPoint) (fun _ => keeps_putSeq)

theorem keeps_admitFlat {j : JobRecord} {p v : Nat} {s : State} : Keeps s (admitFlat j p v s) := by
  unfold admitFlat
  dsimp only
  split
  · refine keeps_putSeq.trans (keeps_setTsa fun ⟨hsh, hsum, hcount, hrest⟩ => ?_)
    unfold Tsa.addFlat
    split
    · exact ⟨hsh, swf_sput _ _ _ hsum, swf_sput _ _ _ hcount, hrest⟩
    · exact ⟨hsh, hsum, hcount, hrest⟩
  · exact keeps_putSeq

theorem keeps_takeAdmitted {i : Fin 4} {j : JobRecord} {p v : Nat} {s : State} : Keeps s (takeAdmitted i j p v s) := by
  unfold takeAdmitted
  split
  · exact keeps_beginAccess
  · exact keeps_admitFlat

theorem keeps_handleSample {i : Fin 4} {j : JobRecord} {p v : Nat} {s : State} : Keeps s (handleSample i j p v s) := by
  unfold handleSample
  dsimp only
  split
  · exact Keeps.ite (fun _ => keeps_takeReference) (fun _ => keeps_putSeq)
  · exact Keeps.ite (fun _ => .refl s) (fun _ => keeps_takeAdmitted)
  · exact .refl s
  · exact .refl s

theorem keeps_countTest {j : JobRecord} {s : State} : Keeps s (countTest j s) :=
  Keeps.ite (fun _ => keeps_putSeq) (fun _ => .refl s)

theorem keeps_takeHead {i : Fin 4} {j : JobRecord} {p : Sample} {s : State} : Keeps s (takeHead i j p s) :=
  Keeps.ite (fun _ => keeps_takeStray) (fun _ => Keeps.ite (fun _ => keeps_putSeq)
    (fun _ => (((keeps_popPixel.trans keeps_beginAttempt).trans keeps_putSeq).trans keeps_handleSample).trans
      keeps_countTest))

theorem keeps_handRead {m : Merge} {b : Bool} {s : State} : Keeps s (handRead m b s) :=
  Keeps.ite (fun _ => keeps_putSeq) (fun _ => .refl s)

theorem keeps_handWrite {m : Merge} {o : MergeOutcome} {b : Bool} {s : State} : Keeps s (handWrite m o b s) :=
  Keeps.ite (fun _ => keeps_putSeq) (fun _ => .refl s)

theorem keeps_endMerge {n : Nat} {s : State} : Keeps s (endMerge n s) := keeps_endAccess.trans keeps_sweepKick

theorem keeps_noteReject {m : Merge} {o : MergeOutcome} {s : State} : Keeps s (noteReject m o s) := by
  unfold noteReject
  split
  · exact Keeps.ite (fun _ => keeps_setTsa fun ⟨hsh, hsum, hcount, hrej, hrest⟩ =>
      ⟨hsh, hsum, hcount, swf_sput _ _ _ hrej, hrest⟩) (fun _ => .refl s)
  · exact .refl s

theorem keeps_setWriting {n : Nat} {o : MergeOutcome} {s : State} : Keeps s (setWriting n o s) := by
  refine keeps_mapPort (fun a => ?_) (fun a => ?_) (fun a => ?_)
  · split <;> exact ⟨rfl, rfl, rfl, rfl⟩
  · split
    · rename_i h
      simp only [Bool.and_eq_true, beq_iff_eq] at h
      rw [h.2]
      exact iff_of_false (fun h => nomatch h) (fun h => nomatch h)
    · exact Iff.rfl
  · split
    · exact fun h => nomatch h
    · exact id

theorem keeps_mergeRead {a : CellAcc} {m : Merge} {d : RData} {s : State} : Keeps s (mergeRead a m d s) :=
  Keeps.ite (fun _ => (keeps_setLatch.trans keeps_handRead).trans keeps_endMerge)
    (fun _ => Keeps.ite (fun _ => keeps_handRead.trans keeps_endMerge)
      (fun _ => (keeps_noteReject.trans keeps_setWriting).trans keeps_requestM))

theorem keeps_failJob {i : Fin 4} {j : JobRecord} {r : EndReason} {s : State} : Keeps s (failJob i j r s) :=
  keeps_dropAttempt.trans keeps_endJob

theorem keeps_failAttempt {i : Fin 4} {j : JobRecord} {r : AttReason} {s : State} : Keeps s (failAttempt i j r s) := by
  have scored : ∀ q b, Keeps s (scoreUp 8 (pushReport i.1 j.tag b (putSeq q s))) := fun _ _ =>
    (keeps_putSeq.trans keeps_pushReport).trans keeps_scoreUp
  exact Keeps.ite (fun _ => (scored _ _).trans keeps_failJob) (fun _ => Keeps.ite
    (fun _ => (scored _ _).trans keeps_failJob) (fun _ => (scored _ _).trans keeps_putSeq))

/-- While a slot is busy a score starts no job. -/
theorem setCecValue_slots {v : Nat} {s : State} (h : (busySlot s).isSome = true) : (setCecValue v s).slots = s.slots := by
  unfold setCecValue
  dsimp only
  split
  · rfl
  · refine (congrArg State.slots (startDecision_of_busy _ ?_)).trans rfl
    exact h

theorem scoreClose_slots {u m : Nat} {s : State} (h : (busySlot s).isSome = true) : (scoreClose u m s).slots = s.slots := by
  unfold scoreClose scoreUp scoreDown
  split <;> exact setCecValue_slots h

theorem busySlot_isSome {s : State} {i : Fin 4} (h : (vget s.slots i).state.busy = true) : (busySlot s).isSome = true := by
  rw [Option.isSome_iff_ne_none, ne_eq, busySlot_none_iff]
  intro hn
  rw [hn i] at h
  cases h

theorem keeps_closeExposure {i : Fin 4} {j : JobRecord} {s : State} (h : (vget s.slots i).state.busy = true) :
    Keeps s (closeExposure i j s) := by
  have scored : ∀ u m b, Keeps s (scoreClose u m (pushReport i.1 j.tag b s)) := fun u m b =>
    keeps_pushReport.trans (Keeps.ite (fun _ => keeps_scoreUp) (fun _ => keeps_scoreDown))
  have hslots : ∀ u m b, (scoreClose u m (pushReport i.1 j.tag b s)).slots = s.slots := fun u m b => by
    have hp : (pushReport i.1 j.tag b s).slots = s.slots := frame_pushReport.slots
    rw [scoreClose_slots (busySlot_isSome (i := i) (by rw [hp]; exact h)), hp]
  exact Keeps.ite (fun _ => (scored _ _ _).trans keeps_failJob) (fun _ => Keeps.ite
    (fun _ => (scored _ _ _).trans (keeps_enterFinishing (by rw [hslots]; exact h)))
    (fun _ => (scored _ _ _).trans keeps_putSeq))

theorem keeps_takeEnd {i : Fin 4} {j : JobRecord} {e : AttEnd} {s : State} (h : (vget s.slots i).state.busy = true) :
    Keeps s (takeEnd i j e s) := by
  unfold takeEnd
  dsimp only
  split
  · exact keeps_failAttempt
  · exact keeps_failAttempt
  · split
    · exact Keeps.ite (fun _ => keeps_failAttempt) (fun _ => keeps_closeExposure h)
    · exact keeps_failAttempt

theorem running_active {s : State} {i : Fin 4} {j : JobRecord} (h : running s = some (i, j)) :
    (vget s.slots i).state = .active ∧ (vget s.slots i).job = some j ∧ (vget s.slots i).endDue = none := by
  unfold running at h
  split at h
  · dsimp only at h
    split at h
    · split at h
      · cases h
        exact ⟨activeSlot_active ‹_›, ‹_›, ‹_›⟩
      · cases h
    · cases h
  · cases h

end Sys2Proof.Machine
end

section
/-! SUPPORT. The reports, the commands of the command page, the S-port and the renders keep the laws. -/
namespace Sys2Proof.Machine
set_option Elab.async false

/-! ### Reports and flat images -/

theorem keeps_reportsKick {s : State} : Keeps s (reportsKick s) := by
  unfold reportsKick
  split
  · exact Keeps.ite (fun _ => .refl s) (fun _ => Keeps.after keeps_requestHead (Keeps.after (keeps_setLong fun _ => rfl)
      (keeps_setRpu id)))
  · exact .refl s

theorem keeps_advance {b : Bool} {s : State} : Keeps s (advance b s) := by
  refine Keeps.after keeps_requestHead (keeps_setRpu fun h => ?_)
  cases b
  · exact h
  · exact Nat.le_trans (List.drop_sublist ..).length_le h

theorem keeps_post {v q : Nat} {s : State} : Keeps s (post v q s) :=
  Keeps.ite (fun _ => keeps_setRpu id) (fun _ => .refl s)

theorem keeps_storeNext {s : State} : Keeps s (storeNext s) := by
  unfold storeNext
  split
  · exact Keeps.ite (fun _ => Keeps.after keeps_requestM (keeps_setLong fun _ => rfl)) (fun _ => .refl s)
  · exact .refl s

theorem keeps_storeEnd {n : Fin 8} {b : Bank} {d : Nat} {e : Bool} {s : State} : Keeps s (storeEnd n b d e s) :=
  Keeps.ite (fun _ => .refl s) (fun _ => Keeps.ite (fun _ => keeps_setLong_none.trans keeps_complete)
    (fun _ => Keeps.ite (fun _ => keeps_setLong_none.trans keeps_complete) (fun _ => .refl s)))

/-- The gains gathered are canonical while a fetch is in execution. -/
theorem TablesCanonical.fetched {s : State} (h : TablesCanonical s) {n : Fin 8} {b : Fin 2} {a tw th t o d : Nat} {e : Bool}
    {g : Sparse} (hl : s.cin.long = some (.flatGains n b a tw th t o d e g)) : swf g = true := by
  obtain ⟨-, -, -, -, -, -, hf⟩ := h
  rwa [fetchedGains, hl] at hf

theorem keeps_fetchNext {s : State} : Keeps s (fetchNext s) := by
  unfold fetchNext
  split
  · exact Keeps.ite (fun _ => Keeps.after keeps_requestM (keeps_setLong fun h => h.fetched ‹_›)) (fun _ => .refl s)
  · exact .refl s

theorem keeps_fetchEnd {s : State} : Keeps s (fetchEnd s) := by
  unfold fetchEnd
  split
  · exact Keeps.ite (fun _ => .refl s) (fun _ => Keeps.ite (fun _ => keeps_setLong_none.trans keeps_complete)
      (fun _ => Keeps.ite (fun _ => .refl s) (fun _ => Keeps.after keeps_startDecision (Keeps.after keeps_complete
        (Keeps.after keeps_setLong_none (keeps_putBank fun h => h.fetched ‹_›))))))
  · exact .refl s

/-! ### The commands of the command page -/

/-- Checks made in order give OK only where each holds, none of them giving OK for its failure. -/
theorem checks_ok {cs : List (Bool × Result)} (h : checks cs = .ok) (hr : ∀ c ∈ cs, c.2 ≠ .ok := by decide) :
    ∀ c ∈ cs, c.1 = true := by
  induction cs with
  | nil => intro c hc; cases hc
  | cons c cs ih =>
    obtain ⟨b, r⟩ := c
    unfold checks at h
    split at h
    · intro d hd
      rcases List.mem_cons.1 hd with rfl | hd
      · assumption
      · exact ih h (fun d hd => hr d (List.mem_cons_of_mem _ hd)) d hd
    · exact absurd h (hr (b, r) List.mem_cons_self)

theorem keeps_answer {t : Taken} {r : Result} {f : State → State} {s : State} (h : r = .ok → Keeps s (f s)) :
    Keeps s (answer t r f s) :=
  Keeps.trans (Keeps.ite h (fun _ => .refl s)) keeps_complete

/-- The profile SET_SENSOR accepts is lawful (R16, R17). -/
theorem keeps_runSetSensor {t : Taken} {s : State} : Keeps s (runSetSensor t s) := by
  refine keeps_answer fun hok => keeps_setMge rfl id fun _ => ?_
  have h := checks_ok hok (by simp) (decide ((sensorArg t).b + (sensorArg t).f < (sensorArg t).s), .range) (by simp)
  exact of_decide_eq_true (p := (sensorArg t).b + (sensorArg t).f < (sensorArg t).s) h

/-- The window table changes in one entry, to a range that is clear of the other windows (R152, R153). -/
theorem keeps_putWindow {i : Fin 16} {w : Option Win} {s : State}
    (h : ∀ x, w = some x → ClearOfWindows s (some i) x.base x.size) : Keeps s (putWindow i w s) := by
  refine keeps_setWmu id fun hd j k v x hjk hv hx ho => ?_
  change vget (vput s.wmu.windows i w) j = some v at hv
  change vget (vput s.wmu.windows i w) k = some x at hx
  by_cases hj : j = i
  · subst hj
    rw [vget_vput_self] at hv
    rw [vget_vput_ne _ _ _ _ (Ne.symm hjk)] at hx
    exact h v hv k x (fun e => hjk (Option.some.inj e)) hx ho
  · rw [vget_vput_ne _ _ _ _ hj] at hv
    by_cases hk : k = i
    · subst hk
      rw [vget_vput_self] at hx
      exact h x hx j v (fun e => hjk (Option.some.inj e).symm) hv ho.symm
    · rw [vget_vput_ne _ _ _ _ hk] at hx
      exact hd j k v x hjk hv hx ho

theorem keeps_runSetWindow {t : Taken} {s : State} : Keeps s (runSetWindow t s) := by
  refine keeps_answer fun hok => ?_
  unfold setWindowNow
  split
  · rename_i i k hi hk
    refine Keeps.after keeps_setPdt (keeps_putWindow fun x hx => ?_)
    have hover := checks_ok hok (by simp) (!hitsWindow s (toFin? 16 (t.arg 12 1)) (t.arg 16 8) (t.arg 24 8) &&
      !hitsArea s none (t.arg 16 8) (t.arg 24 8) && !hitsRing s (t.arg 16 8) (t.arg 24 8), .overlap) (by simp)
    rw [hi] at hover
    simp only [Bool.and_eq_true, Bool.not_eq_true'] at hover
    obtain rfl := Option.some.inj hx
    exact clearOfWindows_of hover.1.1
  · exact .refl s

theorem keeps_runClearWindow {t : Taken} {s : State} : Keeps s (runClearWindow t s) := by
  refine keeps_answer fun _ => ?_
  unfold clearWindowNow
  split
  · exact Keeps.after keeps_setPdt (keeps_putWindow fun x hx => nomatch hx)
  · exact .refl s

theorem keeps_runSetMatch {t : Taken} {s : State} : Keeps s (runSetMatch t s) := by
  refine keeps_answer fun _ => ?_
  unfold setMatchNow
  split
  · exact keeps_setWmu id id
  · exact .refl s

/-- An area takes a range that is clear of the other areas, or becomes undefined with none (R8). -/
theorem keeps_defineArea {n : Fin 4} {a : Area} {s : State} (hu : a.state = .undefined → a.size = 0 ∧ a.base = 0)
    (h : a.size = 0 ∧ a.base = 0 ∨ ClearOfAreas s (some n) a.base a.size) : Keeps s (putArea n a s) := by
  refine keeps_setAtb fun ⟨hund, hd⟩ => ?_
  have apart : ∀ k, k ≠ n → ¬ (a.base < (vget s.atb.areas k).base + (vget s.atb.areas k).size ∧
      (vget s.atb.areas k).base < a.base + a.size) := by
    intro k hk ho
    obtain ⟨hs0, hb0⟩ | hclear := h
    · omega
    · by_cases hk0 : (vget s.atb.areas k).state = .undefined
      · obtain ⟨hs0, hb0⟩ := hund k hk0
        omega
      · exact hclear k (fun e => hk (Option.some.inj e).symm) hk0 ho
  refine ⟨fun i hi => ?_, fun i j hij ho => ?_⟩
  · change (vget (vput s.atb.areas n a) i).state = .undefined at hi
    change (vget (vput s.atb.areas n a) i).size = 0 ∧ (vget (vput s.atb.areas n a) i).base = 0
    by_cases hin : i = n
    · subst hin
      rw [vget_vput_self] at hi ⊢
      exact hu hi
    · rw [vget_vput_ne _ _ _ _ hin] at hi ⊢
      exact hund i hi
  · change (vget (vput s.atb.areas n a) i).base < (vget (vput s.atb.areas n a) j).base + (vget (vput s.atb.areas n a) j).size ∧
      (vget (vput s.atb.areas n a) j).base < (vget (vput s.atb.areas n a) i).base + (vget (vput s.atb.areas n a) i).size at ho
    by_cases hin : i = n
    · subst hin
      rw [vget_vput_self, vget_vput_ne _ _ _ _ (Ne.symm hij)] at ho
      exact apart j (Ne.symm hij) ho
    · rw [vget_vput_ne _ _ _ _ hin] at ho
      by_cases hjn : j = n
      · subst hjn
        rw [vget_vput_self] at ho
        exact apart i hij ho.symm
      · rw [vget_vput_ne _ _ _ _ hjn] at ho
        exact hd i j hij ho

theorem keeps_runDefineArea {t : Taken} {s : State} : Keeps s (runDefineArea t s) := by
  unfold runDefineArea
  refine Keeps.ite (fun _ => ?_) (fun _ => keeps_answer fun _ => .refl s)
  split
  · rename_i n _
    refine Keeps.ite (fun _ => keeps_answer fun _ => keeps_defineArea (fun _ => ⟨rfl, rfl⟩) (.inl ⟨rfl, rfl⟩))
      (fun _ => keeps_answer fun hok => keeps_defineArea (fun h => nomatch h) (.inr ?_))
    have hover := checks_ok hok (by simp) (!hitsArea s (some n) (t.arg 16 8) (t.arg 24 8) &&
      !hitsWindow s none (t.arg 16 8) (t.arg 24 8) && !hitsRing s (t.arg 16 8) (t.arg 24 8), .overlap) (by simp)
    simp only [Bool.and_eq_true, Bool.not_eq_true'] at hover
    exact clearOfAreas_of hover.1.1
  · exact keeps_answer fun _ => .refl s

theorem keeps_runSetReports {t : Taken} {s : State} : Keeps s (runSetReports t s) :=
  Keeps.ite (fun _ => Keeps.after keeps_reportsKick (keeps_setLong fun _ => rfl)) (fun _ => keeps_complete)

theorem keeps_runFlatStore {t : Taken} {s : State} : Keeps s (runFlatStore t s) :=
  Keeps.ite (fun _ => Keeps.after keeps_storeNext (keeps_setLong fun _ => rfl)) (fun _ => keeps_complete)

theorem keeps_runFlatFetch {t : Taken} {s : State} : Keeps s (runFlatFetch t s) :=
  Keeps.ite (fun _ => Keeps.after keeps_requestM (Keeps.after (keeps_setLong fun _ => rfl) (keeps_putBank fun _ => rfl)))
    (fun _ => keeps_complete)

theorem keeps_runFlatDrop {t : Taken} {s : State} : Keeps s (runFlatDrop t s) :=
  keeps_answer fun _ => keeps_putBank fun _ => rfl

theorem keeps_runHold {t : Taken} {s : State} : Keeps s (runHold t s) :=
  have running : Keeps s (setLong (some (.hold t.slot)) s) := keeps_setLong fun _ => rfl
  Keeps.ite (fun _ => keeps_complete) (fun _ => Keeps.ite (fun _ => running) (fun _ => running.trans keeps_finishHold))

theorem keeps_arm {s : State} : Keeps s (arm s) :=
  Keeps.ite (fun _ => .refl s) (fun _ => Keeps.after keeps_setLamp (keeps_setCec id))

theorem keeps_snapNow {t : Taken} {s : State} : Keeps s (snapNow t s) := Keeps.after (keeps_setRpu id) keeps_pushReport

/-- An entry of a vector each of whose entries has been changed. -/
@[simp] theorem vget_map {α β : Type} {n : Nat} (f : α → β) (v : Vector α n) (i : Fin n) : vget (v.map f) i = f (vget v i) := by
  simp [vget]

@[simp] theorem vget_replicate {α : Type} {n : Nat} (x : α) (i : Fin n) : vget (Vector.replicate n x) i = x := by
  simp [vget]

theorem softReset_undefined {a : Area} (h : a.softReset.state = .undefined) : a.state = .undefined := by
  unfold Area.softReset at h
  dsimp only at h
  split at h
  · assumption
  · cases h

/-- A soft reset of the blocks: the areas keep their ranges, and the UNDEFINED ones are those that were (R14). -/
theorem keeps_softBlocks {s : State} : Keeps s (softBlocks s) := by
  have hstop : Keeps s (stopIssuer isJobFetch (stopFinishing (stopSweep s))) :=
    Keeps.after (keeps_stopIssuer isJobFetch_cellRead) (Keeps.after keeps_setComp (keeps_stopSweep.trans keeps_stopScan))
  have hareas : ∀ w, Keeps s ((stopIssuer isJobFetch (stopFinishing (stopSweep s))).setAtb
      { areas := s.atb.areas.map Area.softReset, sweep := w }) := fun w =>
    { hstop with
      areas := areasDisjoint_of_ranges fun i => by
        dsimp only [State.setAtb_atb]
        rw [vget_map]
        exact ⟨rfl, rfl, softReset_undefined⟩ }
  have hslots : ∀ u : State, Keeps u (u.setSlots (Vector.replicate 4 JobSlot.empty)) := fun u =>
    keeps_setSlots fun _ i _ hi => by
      change (vget (Vector.replicate 4 JobSlot.empty) i).state.busy = true at hi
      rw [vget_replicate] at hi
      cases hi
  have hbanks : ∀ u : State, Keeps u (u.setFst { u.fst with banks := u.fst.banks.map Bank.softReset }) := fun u =>
    keeps_setFst fun ⟨hsh, hsum, hcount, hrej, hhist, hb, hf⟩ => ⟨hsh, hsum, hcount, hrej, hhist, fun i => by
      dsimp only [State.setFst_fst]
      rw [vget_map, Bank.softReset]
      split
      · rfl
      · exact hb i, hf⟩
  have hrpu : ∀ u : State, Keeps u (u.setRpu u.rpu.softReset) := fun u => keeps_setRpu fun _ => Nat.zero_le _
  have hcec : ∀ u : State, Keeps u (u.setCec { value := 0, armed := false }) := fun u => keeps_setCec fun _ => Nat.zero_le _
  exact Keeps.after keeps_setDevice (Keeps.after (hrpu _) (Keeps.after (hcec _) (Keeps.after keeps_setPdt
    (Keeps.after keeps_setLamp (Keeps.after keeps_putSeq (Keeps.after keeps_dropAttempt (Keeps.after (hbanks _)
      (Keeps.after (hslots _) (hareas _)))))))))

theorem keeps_openAll {ns : List (Fin 8)} {s : State} : Keeps s (openAll ns s) := by
  induction ns generalizing s with
  | nil => exact .refl s
  | cons n ns ih => exact keeps_putCmdSlot.trans ih

theorem keeps_softIntake {n : Fin 8} {s : State} : Keeps s (softIntake n s) := by
  refine Keeps.after keeps_pumpDone (Keeps.after keeps_setWaits (Keeps.trans (keeps_openAll (ns := s.cin.queue)) ?_))
  refine keeps_setCin (fun _ => List.nodup_nil) fun ⟨hsh, hsum, hcount, hrej, hhist, hb, hf⟩ =>
    ⟨hsh, hsum, hcount, hrej, hhist, hb, ?_⟩
  unfold fetchedGains at hf ⊢
  dsimp only [State.setCin_cin]
  by_cases hl : (loadingSlot (openAll s.cin.queue s)).isSome = true
  · rw [if_pos hl]
    rfl
  · rw [if_neg hl]
    exact hf

theorem keeps_runResetPart {t : Taken} {s : State} : Keeps s (runResetPart t s) := keeps_softBlocks.trans keeps_softIntake

/-- A slot takes a state in which no job is active (R53). -/
theorem keeps_putSlot_idle {i : Fin 4} {x : JobSlot} {s : State} (h : x.state.busy = false) : Keeps s (putSlot i x s) :=
  keeps_putSlot fun hb => absurd hb (by rw [h]; decide)

theorem keeps_runLoadJob {t : Taken} {s : State} : Keeps s (runLoadJob t s) :=
  Keeps.ite (fun _ => Keeps.after keeps_takeEvent (Keeps.after keeps_requestM (Keeps.after (keeps_setLong fun _ => rfl)
    (keeps_putSlot_idle rfl)))) (fun _ => keeps_complete)

theorem keeps_runAbortJob {t : Taken} {s : State} : Keeps s (runAbortJob t s) := by
  unfold runAbortJob
  split
  · exact keeps_answer fun _ => keeps_abortSlot
  · exact keeps_answer fun _ => .refl s

theorem keeps_disown {i : Fin 4} {s : State} : Keeps s (disown i s) := by
  refine keeps_setAtb (areasDisjoint_of_ranges fun k => ?_)
  dsimp only [State.setAtb_atb]
  rw [vget_map]
  split <;> exact ⟨rfl, rfl, id⟩

theorem keeps_runReleaseJob {t : Taken} {s : State} : Keeps s (runReleaseJob t s) := by
  unfold runReleaseJob
  split
  · exact keeps_answer fun _ => Keeps.after keeps_startDecision (Keeps.after keeps_disown (keeps_putSlot_idle rfl))
  · exact keeps_answer fun _ => .refl s

theorem keeps_runCmd {c : Option Cmd} {t : Taken} {s : State} : Keeps s (runCmd c t s) := by
  unfold runCmd
  split
  · exact keeps_runSetSensor
  · exact keeps_answer fun _ => keeps_setLamp
  · exact keeps_answer fun _ => keeps_setMge rfl id id
  · exact keeps_runSetWindow
  · exact keeps_runClearWindow
  · exact keeps_runSetMatch
  · exact keeps_runDefineArea
  · exact keeps_runSetReports
  · exact keeps_runFlatStore
  · exact keeps_runFlatFetch
  · exact keeps_runFlatDrop
  · exact keeps_answer fun _ => keeps_runEntry
  · exact keeps_runHold
  · exact keeps_answer fun _ => keeps_arm
  · exact keeps_answer fun _ => keeps_snapNow
  · exact keeps_runResetPart
  · exact keeps_runLoadJob
  · exact keeps_runAbortJob
  · exact keeps_runReleaseJob
  · exact keeps_complete

theorem keeps_takeNow {n : Fin 8} {s : State} : Keeps s (takeNow n s) := keeps_openSlot.trans keeps_runCmd

theorem keeps_makeTakes {k : Nat} {s : State} : Keeps s (makeTakes k s) := by
  induction k generalizing s with
  | zero => exact .refl s
  | succ k ih =>
    unfold makeTakes
    split
    · exact keeps_takeNow.trans ih
    · exact .refl s

theorem keeps_dueTakes {s : State} : Keeps s (dueTakes s) := Keeps.after (keeps_setCin_of_same rfl rfl rfl) keeps_makeTakes

/-! ### The S-port -/

/-- The windows stand, and the S-port's transactions keep their order, some of them perhaps over (R148). -/
theorem keeps_setWmu_of {x : Wmu} {s : State} (hw : x.windows = s.wmu.windows)
    (hr : (x.reads.map SRead.no).Sublist (s.wmu.reads.map SRead.no))
    (hwr : (x.writes.map SWrite.no).Sublist (s.wmu.writes.map SWrite.no)) : Keeps s (s.setWmu x) := by
  refine keeps_setWmu (fun ⟨hreads, hwrites, hport, hrs, hws, hp⟩ => ?_) (fun h => ?_)
  · refine ⟨hreads.sublist hr, hwrites.sublist hwr, hport, fun r hm => ?_, fun w hm => ?_, hp⟩
    · obtain ⟨r', hm', hno⟩ := List.mem_map.1 (hr.subset (List.mem_map_of_mem hm))
      exact hno ▸ hrs r' hm'
    · obtain ⟨w', hm', hno⟩ := List.mem_map.1 (hwr.subset (List.mem_map_of_mem hm))
      exact hno ▸ hws w' hm'
  · unfold WindowsDisjoint
    rw [State.setWmu_wmu, hw]
    exact h

theorem releaseReadList_nos (busy : List Nat) (rs : List SRead) :
    ((releaseReadList busy rs).1.map SRead.no).Sublist (rs.map SRead.no) := by
  induction rs generalizing busy with
  | nil => exact .slnil
  | cons r rs ih =>
    unfold releaseReadList
    split
    · exact (ih _).cons_cons _
    · dsimp only
      split
      · exact (ih _).cons _
      · exact (ih _).cons_cons _

theorem releaseWriteList_nos (busy : List Nat) (ws : List SWrite) :
    (releaseWriteList busy ws).1.map SWrite.no = ws.map SWrite.no := by
  induction ws generalizing busy with
  | nil => rfl
  | cons w ws ih =>
    unfold releaseWriteList
    split
    · exact congrArg (w.no :: ·) (ih _)
    · split <;> exact congrArg (w.no :: ·) (ih _)
    · exact congrArg (w.no :: ·) (ih _)

theorem keeps_releaseReads {s : State} : Keeps s (releaseReads s) :=
  keeps_setWmu_of rfl (releaseReadList_nos _ _) (.refl _)

theorem keeps_releaseWrites {s : State} : Keeps s (releaseWrites s) :=
  keeps_setWmu_of rfl (.refl _) (releaseWriteList_nos [] s.wmu.writes ▸ List.filter_sublist.map _)

theorem keeps_putSWrite {no : Nat} {x : SWrite} {s : State} (h : x.no = no) : Keeps s (putSWrite no x s) := by
  have hnos : (s.wmu.writes.map fun w => if w.no == no then x else w).map SWrite.no = s.wmu.writes.map SWrite.no := by
    rw [List.map_map]
    refine List.map_congr_left fun w _ => ?_
    dsimp only [Function.comp]
    split
    · rw [h]; exact (beq_iff_eq.1 ‹_›).symm
    · rfl
  exact keeps_setWmu_of rfl (.refl _) (hnos ▸ .refl _)

theorem sWrite?_no {no : Nat} {s : State} {w : SWrite} (h : sWrite? no s = some w) : w.no = no := by
  simpa using List.find?_some h

theorem keeps_putReadPath {no : Nat} {p : ReadPath} {s : State} : Keeps s (putReadPath no p s) := by
  have hnos : (s.wmu.reads.map fun r => if r.no == no then { r with path := p } else r).map SRead.no =
      s.wmu.reads.map SRead.no := by
    rw [List.map_map]
    refine List.map_congr_left fun r _ => ?_
    dsimp only [Function.comp]
    split <;> rfl
  exact keeps_setWmu_of rfl (hnos ▸ .refl _) (.refl _)

/-- A transaction joins the tail of its list under the next number (R148, log 7). -/
theorem pairwise_lt_append {l : List Nat} {n : Nat} (h : l.Pairwise (· < ·)) (hlt : ∀ x ∈ l, x < n) :
    (l ++ [n]).Pairwise (· < ·) :=
  List.pairwise_append.2 ⟨h, List.pairwise_singleton .., fun x hx y hy => by rw [List.mem_singleton.1 hy]; exact hlt x hx⟩

theorem keeps_openWrite {h : TxnHdr} {p : WritePath} {s : State} : Keeps s (openWrite h p s) := by
  refine { Keeps.refl s with numbered := ?_ }
  rintro ⟨hreads, hwrites, hport, hrs, hws, hp⟩
  refine ⟨hreads, ?_, hport, fun r hr => Nat.lt_succ_of_lt (hrs r hr), fun w hw => ?_, fun a ha => Nat.lt_succ_of_lt (hp a ha)⟩
  · change ((s.wmu.writes ++ [_]).map SWrite.no).Pairwise (· < ·)
    rw [List.map_append]
    exact pairwise_lt_append hwrites (List.forall_mem_map.2 hws)
  · rcases List.mem_append.1 (show w ∈ s.wmu.writes ++ [_] from hw) with hw | hw
    · exact Nat.lt_succ_of_lt (hws w hw)
    · rw [List.mem_singleton.1 hw]; exact Nat.lt_succ_self _

theorem keeps_openRead {h : TxnHdr} {p : ReadPath} {s : State} : Keeps s (openRead h p s) := by
  refine { Keeps.refl s with numbered := ?_ }
  rintro ⟨hreads, hwrites, hport, hrs, hws, hp⟩
  refine ⟨?_, hwrites, hport, fun r hr => ?_, fun w hw => Nat.lt_succ_of_lt (hws w hw), fun a ha => Nat.lt_succ_of_lt (hp a ha)⟩
  · change ((s.wmu.reads ++ [_]).map SRead.no).Pairwise (· < ·)
    rw [List.map_append]
    exact pairwise_lt_append hreads (List.forall_mem_map.2 hrs)
  · rcases List.mem_append.1 (show r ∈ s.wmu.reads ++ [_] from hr) with hr | hr
    · exact Nat.lt_succ_of_lt (hrs r hr)
    · rw [List.mem_singleton.1 hr]; exact Nat.lt_succ_self _

theorem keeps_setCur {c : Option Nat} {s : State} : Keeps s (setCur c s) := keeps_setWmu_of rfl (.refl _) (.refl _)

theorem keeps_setHeld {l : List HeldItem} {s : State} : Keeps s (setHeld l s) := keeps_setWmu_of rfl (.refl _) (.refl _)

theorem keeps_stall {l : List HeldItem} {s : State} : Keeps s (stall l s) := keeps_setHeld.trans keeps_setLatch

theorem keeps_forwardBeat {w : SWrite} {d : WData} {p : Bool} {s : State} : Keeps s (forwardBeat w d p s) :=
  Keeps.after (keeps_putSWrite rfl) (Keeps.ite (fun _ => .refl s) (fun _ => keeps_requestM))

theorem keeps_answerCaptured {n : Nat} {s : State} : Keeps s (answerCaptured n s) := by
  unfold answerCaptured
  split
  · rename_i w hw
    exact Keeps.ite (fun _ => keeps_putSWrite (show w.no = n from sWrite?_no hw)) (fun _ => .refl s)
  · exact .refl s

/-- A captured beat's samples have room in the pixel queue (R33). -/
theorem keeps_takeCapture {w : SWrite} {base : Nat} {b : WBeat} {s : State}
    (h : capturing s = true → captureRoom (beatPositions base b) s = true) : Keeps s (takeCapture w base b s) := by
  refine Keeps.ite (fun hc => ?_) (fun _ => keeps_forwardBeat)
  have hroom := h hc
  simp only [captureRoom, Bool.and_eq_true, decide_eq_true_eq] at hroom
  have hpix : Keeps s (enqueuePixels (captureSamples (b.hdr.beatPos b.beat - base) b.w) s) :=
    keeps_setMge rfl (fun _ => by rw [List.length_append]; exact hroom.1.1) id
  exact Keeps.after keeps_answerCaptured (Keeps.trans hpix (Keeps.ite (fun _ => keeps_forwardBeat)
    (fun _ => keeps_putSWrite rfl)))

theorem keeps_takePage {w : SWrite} {b : WBeat} {s : State} : Keeps s (takePage w b s) :=
  (keeps_dueTakes.trans keeps_forwardBeat).trans keeps_handBytes

theorem keeps_lookAt {n : Fin 16} {b : WBeat} {s : State} : Keeps s (lookAt n b s) := by
  unfold lookAt
  split
  · exact keeps_monitorAll
  · exact .refl s

theorem keeps_takeMonitor {w : SWrite} {n : Fin 16} {b : WBeat} {s : State} : Keeps s (takeMonitor w n b s) :=
  Keeps.ite (fun _ => keeps_forwardBeat.trans keeps_lookAt) (fun _ => keeps_forwardBeat)

/-- An item that is not to be held is taken (R33). -/
theorem keeps_takeItem {it : HeldItem} {s : State} (h : mustHold it s = false) : Keeps s (takeItem it s) := by
  cases it with
  | hand off b => exact keeps_dueTakes.trans keeps_handBytes
  | beat no b =>
    unfold takeItem
    dsimp only
    split
    · rename_i w hw
      unfold takeBeat
      split
      · rename_i base hpath
        refine keeps_takeCapture fun hc => ?_
        simpa [mustHold, positions?, hw, hpath, hc] using h
      · exact keeps_takePage
      · exact keeps_takeMonitor
      · exact keeps_forwardBeat
      · exact .refl s
    · exact .refl s
  | whole no ds =>
    unfold takeItem
    dsimp only
    split
    · exact Keeps.after (keeps_putSWrite rfl) keeps_requestM
    · exact .refl s
  | illegal no =>
    unfold takeItem
    dsimp only
    split
    · exact keeps_putSWrite rfl
    · exact .refl s

theorem keeps_drain {l : List HeldItem} {s : State} : Keeps s (drain l s) := by
  induction l generalizing s with
  | nil => exact keeps_setHeld
  | cons it its ih =>
    exact Keeps.ite (fun _ => keeps_dueTakes.trans keeps_stall)
      (fun h => keeps_dueTakes.trans ((keeps_takeItem (Bool.not_eq_true _ ▸ h)).trans ih))

theorem keeps_offer {it : HeldItem} {s : State} : Keeps s (offer it s) :=
  Keeps.ite (fun _ => Keeps.after keeps_releaseWrites (Keeps.ite (fun _ => keeps_stall)
    (fun h => (keeps_takeItem (Bool.not_eq_true _ ▸ h)).trans keeps_setHeld))) (fun _ => keeps_setHeld)

theorem keeps_handAlone {o : Nat} {v : Byte} {s : State} : Keeps s (handAlone o v s) :=
  Keeps.ite (fun _ => keeps_takeItem rfl) (fun _ => keeps_setHeld)

theorem keeps_present {b : WBeat} {ours : WritePath → Bool} {s s' : State} {no : Nat}
    (h : present b ours s = some (no, s')) : Keeps s s' := by
  unfold present at h
  split at h
  · cases h
  · split at h
    · dsimp only at h
      split at h
      · cases h; exact keeps_openWrite.trans keeps_setCur
      · cases h
    · split at h
      · split at h
        · cases h; exact keeps_setCur
        · cases h
      · cases h
    · cases h

theorem keeps_beatStep {b : WBeat} {ours : WritePath → Bool} {s : State} : Keeps s (beatStep b ours s) := by
  unfold beatStep
  split
  · exact (keeps_present ‹_›).trans keeps_offer
  · exact .refl s

theorem keeps_returnWrite {x n : Nat} {r : Resp} {s : State} : Keeps s (returnWrite x n r s) := by
  unfold returnWrite
  split
  · rename_i w hw
    exact Keeps.after keeps_releaseWrites (Keeps.after (keeps_putSWrite (show w.no = n from sWrite?_no hw)) keeps_answered)
  · exact .refl s

/-! ### Rendered reads -/

theorem keeps_readCells {c : Capt} {no b : Nat} {ps : List Nat} {s : State} : Keeps s (readCells c no b ps s) := by
  induction ps generalizing s with
  | nil => exact .refl s
  | cons p ps ih => exact keeps_beginAccess.trans ih

theorem keeps_readBeats {c : Capt} {no b : Nat} {xs : List RenderBeat} {s : State} : Keeps s (readBeats c no b xs s) := by
  induction xs generalizing b s with
  | nil => exact .refl s
  | cons x xs ih => exact keeps_readCells.trans ih

theorem keeps_answerCell {no b p : Nat} {w : BitVec 64} {e : Bool} {s : State} : Keeps s (answerCell no b p w e s) := by
  unfold answerCell
  split
  · split
    · exact keeps_putReadPath
    · exact .refl s
  · exact .refl s

end Sys2Proof.Machine
end

section
/-! SUPPORT. Every command but the release of RESET_N and the grant keeps the laws whole, and each step keeps them as the statements
say. -/
namespace Sys2Proof.Machine
set_option Elab.async false

/-- Whether an outcome is reached keeping every law. -/
def OutcomeKeeps (s : State) : Host.Outcome State Fault Refusal → Prop
  | .next t => Keeps s t
  | _ => True

theorem OutcomeKeeps.self (s : State) : OutcomeKeeps s (.next s) := Keeps.refl s

theorem OutcomeKeeps.ite {s : State} {o o' : Host.Outcome State Fault Refusal} {p : Prop} [Decidable p]
    (h : p → OutcomeKeeps s o) (k : ¬ p → OutcomeKeeps s o') : OutcomeKeeps s (if p then o else o') := by
  split
  · exact h ‹_›
  · exact k ‹_›

theorem keeps_takeCmd {c : Option Cmd} {body : Taken → State → State} {s : State} (h : ∀ t u, Keeps u (body t u)) :
    Keeps s (takeCmd c body s) := by
  unfold takeCmd
  split
  · exact Keeps.ite (fun _ => keeps_openSlot.trans (h _ _)) (fun _ => .refl s)
  · exact .refl s

/-! ### Pin reset -/

theorem sensorLawful_reset : SensorLawful State.reset := by unfold SensorLawful; decide

theorem portInOrder_of_nil {s : State} (h : s.mge.port = []) : PortInOrder s := by
  intro ds a as hp
  rw [h] at hp
  exact absurd hp.symm (List.append_ne_nil_of_right_ne_nil _ (List.cons_ne_nil _ _))

theorem portsNumbered_of_nil {s : State} (hr : s.wmu.reads = []) (hw : s.wmu.writes = []) (hp : s.mge.port = []) :
    PortsNumbered s := by
  simp [PortsNumbered, hr, hw, hp]

theorem windowsDisjoint_reset : WindowsDisjoint State.reset := windowsDisjoint_of (by decide)

theorem oneBusy_reset : OneBusy State.reset := by unfold OneBusy; decide

theorem areasDisjoint_reset : AreasDisjoint State.reset := by unfold AreasDisjoint; decide

theorem tablesCanonical_reset : TablesCanonical State.reset := ⟨rfl, rfl, rfl, rfl, rfl, by decide, rfl⟩

/-- Settles O60: the part at reset has empty queues, ports and tables, no busy slot, no area and the one window. -/
theorem resetMeetsEveryLaw : Obligations.ResetMeetsEveryLaw :=
  ⟨⟨Nat.zero_le _, Nat.zero_le _, Nat.zero_le _⟩, sensorLawful_reset, List.nodup_nil, oneBusy_reset, areasDisjoint_reset,
    tablesCanonical_reset, portInOrder_of_nil rfl, portsNumbered_of_nil rfl rfl rfl, windowsDisjoint_reset⟩

/-- At pin reset every law holds, whatever held before. -/
theorem keeps_pinReset {s : State} : Keeps s (pinResetState s) where
  reports _ := Nat.zero_le _
  counter _ := Nat.zero_le _
  pixels _ := Nat.zero_le _
  sensor _ := sensorLawful_reset
  intake _ := List.nodup_nil
  inOrder _ := portInOrder_of_nil rfl
  numbered _ := portsNumbered_of_nil rfl rfl rfl
  reads _ := fun a ha => absurd ha (show a ∉ ([] : List CellAcc) from List.not_mem_nil)
  windows _ := windowsDisjoint_reset
  oneBusy _ := oneBusy_reset
  areas _ := areasDisjoint_reset
  tables _ := tablesCanonical_reset

/-! ### Every command -/

theorem keeps_execTakenWriteResponse {x : Nat} {r : Resp} {s : State} : OutcomeKeeps s (execTakenWriteResponse x r s) := by
  unfold execTakenWriteResponse
  split
  · exact ((keeps_answered.trans keeps_noteErr).trans keeps_putCmdSlot).trans keeps_pumpDone
  · exact .self s

theorem keeps_execDoneWriteResponse {x : Nat} {r : Resp} {s : State} : OutcomeKeeps s (execDoneWriteResponse x r s) := by
  unfold execDoneWriteResponse
  split
  · exact (keeps_answered.trans keeps_noteErr).trans keeps_putCmdSlot
  · exact .self s

theorem keeps_execSetReportsHeadResponse {x : Nat} {r : Resp} {s : State} :
    OutcomeKeeps s (execSetReportsHeadResponse x r s) := by
  unfold execSetReportsHeadResponse
  split
  · exact Keeps.after keeps_complete (Keeps.after keeps_setLong_none (Keeps.after (keeps_setRpu id)
      (keeps_answered.trans keeps_noteErr)))
  · exact .self s

theorem keeps_execFlatStoreResponse {x : Nat} {r : Resp} {s : State} : OutcomeKeeps s (execFlatStoreResponse x r s) := by
  unfold execFlatStoreResponse
  split
  · have hanswer : Keeps s (memErr (respErr r) (answered x s)) := keeps_answered.trans keeps_memErr
    refine Keeps.after keeps_storeEnd (Keeps.after (keeps_setLong fun _ => rfl) (Keeps.ite (fun _ => ?_) (fun _ => hanswer)))
    exact hanswer.trans (keeps_withdraw isFlatWrite_cellRead)
  · exact .self s

theorem keeps_execFlatFetchHeaderResponse {x : Nat} {ds : List RData} {s : State} :
    OutcomeKeeps s (execFlatFetchHeaderResponse x ds s) := by
  unfold execFlatFetchHeaderResponse
  split
  · have hanswer : Keeps s (memErr (anyErr ds) (answered x s)) := keeps_answered.trans keeps_memErr
    refine .ite (fun _ => .ite (fun _ => ?_) (fun _ => .ite (fun _ => ?_) (fun _ => ?_))) (fun _ => .self s)
    · exact Keeps.after keeps_complete (hanswer.trans keeps_setLong_none)
    · exact Keeps.after keeps_fetchNext (Keeps.after (keeps_setLong fun _ => rfl) hanswer)
    · exact Keeps.after keeps_complete (hanswer.trans keeps_setLong_none)
  · exact .self s

theorem keeps_execFlatFetchGainResponse {x : Nat} {ds : List RData} {s : State} :
    OutcomeKeeps s (execFlatFetchGainResponse x ds s) := by
  unfold execFlatFetchGainResponse
  split
  · rename_i first n c bank addr tw th t opn done err gains _ hlong
    refine .ite (fun _ => ?_) (fun _ => .self s)
    have hanswer : Keeps s (memErr (anyErr ds) (answered x s)) := keeps_answered.trans keeps_memErr
    have hlong' : (memErr (anyErr ds) (answered x s)).cin.long = s.cin.long :=
      congrArg Cin.long ((frame_memErr (s := answered x s)).cin.trans frame_answered.cin)
    refine Keeps.after keeps_fetchEnd (Keeps.after (keeps_setLong fun h => ?_)
      (Keeps.ite (fun _ => hanswer.trans (keeps_withdraw isFlatGain_cellRead)) (fun _ => hanswer)))
    dsimp only [fetchedGains, setLong, State.setCin_cin]
    split
    · rfl
    · refine swf_sputAll _ _ _ (TablesCanonical.fetched h (n := c) (b := bank) (a := addr) (tw := tw) (th := th) (t := t)
        (o := opn) (d := done) (e := err) ?_)
      split <;> exact hlong'.trans hlong
  · exact .self s

theorem keeps_execJobRecordResponse {x : Nat} {ds : List RData} {s : State} :
    OutcomeKeeps s (execJobRecordResponse x ds s) := by
  unfold execJobRecordResponse
  split
  · have hanswer : Keeps s (setLong none (memErr (anyErr ds) (answered x s))) :=
      (keeps_answered.trans keeps_memErr).trans keeps_setLong_none
    refine .ite (fun _ => .ite (fun _ => ?_) (fun _ => ?_)) (fun _ => .self s)
    · exact Keeps.after keeps_complete (Keeps.after (keeps_putSlot_idle rfl) hanswer)
    · split
      · exact Keeps.after keeps_startDecision (Keeps.after keeps_complete (Keeps.after (keeps_putSlot_idle rfl) hanswer))
      · exact Keeps.after keeps_complete (Keeps.after (keeps_putSlot_idle rfl) hanswer)
  · exact .self s

theorem keeps_execJobStarted {s : State} : OutcomeKeeps s (execJobStarted s) := by
  unfold execJobStarted
  split
  · rename_i i hi
    dsimp only
    split
    · refine .ite (fun _ => ?_) (fun _ => .self s)
      refine Keeps.after keeps_putSeq (Keeps.trans keeps_pushReport (keeps_putSlot fun _ => ?_))
      rw [frame_pushReport.slots]
      exact busySlot_busy hi
    · exact .self s
  · exact .self s

theorem keeps_execJobEnded {s : State} : OutcomeKeeps s (execJobEnded s) := by
  unfold execJobEnded
  split
  · split
    · exact .ite (fun _ => keeps_endJob.trans keeps_holdAfterEnd) (fun _ => .self s)
    · exact .self s
  · exact .self s

theorem keeps_execSweepBurstResponse {x : Nat} {r : Resp} {s : State} : OutcomeKeeps s (execSweepBurstResponse x r s) := by
  unfold execSweepBurstResponse
  split
  · refine .ite (fun _ => ?_) (fun _ => .ite (fun _ => ?_) (fun _ => keeps_answered))
    · exact ((keeps_answered.trans keeps_setLatch).trans keeps_stopSweep).trans keeps_failDue
    · exact Keeps.after keeps_tookGeneration (Keeps.trans (keeps_answered.trans keeps_setSweep)
        (keeps_putArea rfl rfl fun h => nomatch h))
  · exact .self s

theorem keeps_execMergeReadResponse {x : Nat} {d : RData} {s : State} : OutcomeKeeps s (execMergeReadResponse x d s) := by
  unfold execMergeReadResponse
  repeat' split
  all_goals first | exact .self s | exact keeps_answered.trans keeps_mergeRead

theorem keeps_execMergeWriteResponse {x : Nat} {r : Resp} {s : State} : OutcomeKeeps s (execMergeWriteResponse x r s) := by
  unfold execMergeWriteResponse
  repeat' split
  all_goals first
    | exact .self s
    | exact ((keeps_answered.trans keeps_memErr).trans keeps_handWrite).trans keeps_endMerge

theorem keeps_execAttemptEndTaken {s : State} : OutcomeKeeps s (execAttemptEndTaken s) := by
  unfold execAttemptEndTaken
  split
  · rename_i i j e hrun _
    obtain ⟨hactive, -, -⟩ := running_active hrun
    exact .ite (fun _ => keeps_takeEnd (by rw [hactive]; rfl)) (fun _ => .self s)
  · exact .self s

theorem keeps_execFrameGapExpiry {s : State} : OutcomeKeeps s (execFrameGapExpiry s) := by
  unfold execFrameGapExpiry
  split
  · exact .ite (fun _ => keeps_putSeq) (fun _ => .self s)
  · exact .self s

theorem keeps_execExposureWaitExpiry {s : State} : OutcomeKeeps s (execExposureWaitExpiry s) := by
  unfold execExposureWaitExpiry
  split
  · exact .ite (fun _ => keeps_dropAttempt.trans keeps_failDue) (fun _ => .self s)
  · exact .self s

theorem keeps_execSampleTake {s : State} : OutcomeKeeps s (execSampleTake s) := by
  unfold execSampleTake
  split
  · exact .ite (fun _ => keeps_takeHead) (fun _ => .self s)
  · exact .self s

theorem keeps_execFinishScanResponse {x : Nat} {ds : List RData} {s : State} :
    OutcomeKeeps s (execFinishScanResponse x ds s) := by
  unfold execFinishScanResponse
  split
  · split
    · dsimp only
      split
      · refine .ite (fun _ => ?_) (fun _ => .self s)
        exact Keeps.after keeps_scanComplete (Keeps.after keeps_endAccess (Keeps.trans (keeps_answered.trans keeps_memErr)
          (keeps_setScanning swf_beats)))
      · exact .self s
    · exact .self s
  · exact .self s

theorem keeps_execLimitTest {s : State} : OutcomeKeeps s (execLimitTest s) := by
  unfold execLimitTest
  split
  · exact .ite (fun _ => keeps_setComp.trans keeps_failDue) (fun _ => keeps_setComp)
  · exact .self s

theorem keeps_execGainComputationComplete {s : State} : OutcomeKeeps s (execGainComputationComplete s) := by
  unfold execGainComputationComplete
  split
  · exact Keeps.after keeps_endDueAt (keeps_setComp.trans (keeps_putBank fun _ => swf_sputAll _ _ _ rfl))
  · exact .self s

theorem keeps_execResultRead {h : TxnHdr} {s : State} : OutcomeKeeps s (execResultRead h s) := by
  unfold execResultRead
  split
  · split
    · exact .ite (fun _ => (keeps_openRead.trans keeps_readBeats).trans keeps_releaseReads) (fun _ => .self s)
    · exact .self s
  · exact .self s

theorem keeps_execRenderCellResponse {x : Nat} {d : RData} {s : State} : OutcomeKeeps s (execRenderCellResponse x d s) := by
  unfold execRenderCellResponse
  repeat' split
  all_goals first
    | exact .self s
    | exact (((keeps_answered.trans keeps_memErr).trans keeps_answerCell).trans keeps_endAccess).trans keeps_releaseReads

theorem keeps_execHeldCaptureBeatTaken {s : State} : OutcomeKeeps s (execHeldCaptureBeatTaken s) := by
  unfold execHeldCaptureBeatTaken
  split
  · rename_i it its hheld
    refine .ite (fun hc => ((keeps_takeItem ?_).trans keeps_drain).trans keeps_releaseWrites) (fun _ => .self s)
    unfold holdCleared at hc
    rw [hheld] at hc
    unfold mustHold
    cases hp : positions? it s with
    | none => rfl
    | some n => simp only [hp] at hc; simp [hc]
  · exact .self s

theorem keeps_execPassThrough {t : Txn} {s : State} : OutcomeKeeps s (execPassThrough t s) := by
  unfold execPassThrough
  split
  · exact .ite (fun _ => keeps_openRead.trans keeps_requestM) (fun _ => .self s)
  · exact .ite (fun _ => keeps_openWrite.trans keeps_offer) (fun _ => .self s)

theorem keeps_execPassThroughResponse {x : Nat} {m : MResp} {s : State} : OutcomeKeeps s (execPassThroughResponse x m s) := by
  unfold execPassThroughResponse
  split
  · split
    · exact .ite (fun _ => (keeps_answered.trans keeps_putReadPath).trans keeps_releaseReads) (fun _ => .self s)
    · exact .self s
  · exact .ite (fun _ => keeps_returnWrite) (fun _ => .self s)
  · exact .ite (fun _ => keeps_returnWrite) (fun _ => .self s)
  · exact .self s

theorem keeps_execIllegalTransaction {w : Bool} {h : TxnHdr} {s : State} : OutcomeKeeps s (execIllegalTransaction w h s) :=
  .ite (fun _ => .ite (fun _ => .ite (fun _ => keeps_openWrite.trans keeps_offer) (fun _ => .self s))
    (fun _ => keeps_openRead.trans keeps_releaseReads)) (fun _ => .self s)

theorem keeps_execTeedCopyResponse {x : Nat} {r : Resp} {s : State} : OutcomeKeeps s (execTeedCopyResponse x r s) := by
  unfold execTeedCopyResponse
  split
  · rename_i no _
    split
    · rename_i w hw
      refine .ite (fun _ => ?_) (fun _ => .self s)
      exact Keeps.after keeps_releaseWrites (Keeps.trans (keeps_answered.trans keeps_memErr)
        (keeps_putSWrite (show w.no = no from sWrite?_no hw)))
    · exact .self s
  · exact .self s

theorem keeps_execStoppedIssuerResponse {x : Nat} {m : MResp} {s : State} :
    OutcomeKeeps s (execStoppedIssuerResponse x m s) := by
  unfold execStoppedIssuerResponse
  split
  · exact keeps_answered.trans keeps_memErr
  · exact .self s

theorem keeps_execPresenceChange {v : Presence} {s : State} : OutcomeKeeps s (execPresenceChange v s) :=
  .ite (fun _ => keeps_changePresence) (fun _ => .self s)

theorem keeps_execStalenessExpiry {s : State} : OutcomeKeeps s (execStalenessExpiry s) :=
  .ite (fun _ => (keeps_setLamp.trans keeps_departure).trans keeps_lampChanged) (fun _ => .self s)

theorem keeps_execGuardTime {s : State} : OutcomeKeeps s (execGuardTime s) :=
  .ite (fun _ => keeps_setLamp.trans keeps_startDecision) (fun _ => .self s)

theorem keeps_execRecoveryComplete {s : State} : OutcomeKeeps s (execRecoveryComplete s) :=
  .ite (fun _ => keeps_setLamp.trans keeps_completeRecovery) (fun _ => .self s)

theorem keeps_execCoalescedReportServed {f : CoalFlag} {s : State} : OutcomeKeeps s (execCoalescedReportServed f s) :=
  .ite (fun _ => Keeps.trans keeps_pushReport (keeps_setRpu (by rw [Rpu.putFlag_queue]; exact id))) (fun _ => .self s)

theorem keeps_execReportRecordWrite {s : State} : OutcomeKeeps s (execReportRecordWrite s) := by
  unfold execReportRecordWrite
  split
  · exact Keeps.trans keeps_requestM (keeps_setRpu id)
  · exact .self s

theorem keeps_execReportRecordResponse {x : Nat} {r : Resp} {s : State} : OutcomeKeeps s (execReportRecordResponse x r s) := by
  unfold execReportRecordResponse
  split
  · have hadvance : ∀ b, Keeps s (advance b (noteErr r (answered x s))) := fun _ =>
      (keeps_answered.trans keeps_noteErr).trans keeps_advance
    exact Keeps.after keeps_reportsKick (Keeps.ite
      (fun _ => ((hadvance _).trans keeps_takeEvent).trans keeps_startDecision) (fun _ => hadvance _))
  · exact .self s

theorem keeps_execHeadWriteResponse {x : Nat} {r : Resp} {s : State} : OutcomeKeeps s (execHeadWriteResponse x r s) := by
  unfold execHeadWriteResponse
  split
  · exact ((keeps_answered.trans keeps_noteErr).trans keeps_post).trans keeps_reportsKick
  · exact .self s

theorem keeps_execTimebaseTick {s : State} : OutcomeKeeps s (execTimebaseTick s) := by
  have hjob : ∀ now u, Keeps u (tickJob now u) := fun now u => by
    unfold tickJob
    split
    · exact keeps_putSeq
    · exact .refl u
  exact Keeps.trans (Keeps.trans (.of_frame frame_setTime.wide) keeps_setLamp) (hjob _ _)

/-- Every command but the release of RESET_N and the grant keeps every law. -/
theorem keeps_exec {c : Instr} {s : State} (hrel : ∀ p, c ≠ .resetNRelease p) (hgrant : ∀ a b, c ≠ .mpaGrant a b) :
    OutcomeKeeps s (exec c s) := by
  unfold exec
  split
  · exact keeps_pinReset
  · exact absurd rfl (hrel _)
  · exact keeps_beatStep
  · exact keeps_handAlone
  · exact keeps_handAlone
  · exact keeps_handAlone
  · unfold execCommandTake
    split
    · exact keeps_takeNow
    · exact .self s
  · exact keeps_takeCmd fun _ _ => keeps_complete
  · exact keeps_execTakenWriteResponse
  · exact keeps_execDoneWriteResponse
  · exact keeps_takeCmd fun _ _ => keeps_runCmd (c := some .setSensor)
  · exact keeps_takeCmd fun _ _ => keeps_runCmd (c := some .setLamp)
  · exact keeps_takeCmd fun _ _ => keeps_runCmd (c := some .setLadder)
  · exact keeps_takeCmd fun _ _ => keeps_runSetWindow
  · exact keeps_takeCmd fun _ _ => keeps_runClearWindow
  · exact keeps_takeCmd fun _ _ => keeps_runSetMatch
  · exact keeps_takeCmd fun _ _ => keeps_runDefineArea
  · exact keeps_takeCmd fun _ _ => keeps_runSetReports
  · exact keeps_execSetReportsHeadResponse
  · exact keeps_takeCmd fun _ _ => keeps_runFlatStore
  · exact keeps_execFlatStoreResponse
  · exact keeps_takeCmd fun _ _ => keeps_runFlatFetch
  · exact keeps_execFlatFetchHeaderResponse
  · exact keeps_execFlatFetchGainResponse
  · exact keeps_takeCmd fun _ _ => keeps_runFlatDrop
  · exact keeps_takeCmd fun _ _ => keeps_runCmd (c := some .run)
  · exact keeps_takeCmd fun _ _ => keeps_runHold
  · exact keeps_takeCmd fun _ _ => keeps_runCmd (c := some .resume)
  · exact keeps_takeCmd fun _ _ => keeps_runCmd (c := some .snapshot)
  · exact keeps_takeCmd fun _ _ => keeps_runResetPart
  · exact keeps_takeCmd fun _ _ => keeps_runLoadJob
  · exact keeps_execJobRecordResponse
  · exact keeps_takeCmd fun _ _ => keeps_runAbortJob
  · exact keeps_takeCmd fun _ _ => keeps_runReleaseJob
  · exact keeps_execJobStarted
  · exact keeps_execJobEnded
  · exact keeps_execSweepBurstResponse
  · exact keeps_execStoppedIssuerResponse
  · exact keeps_beatStep
  · exact keeps_execHeldCaptureBeatTaken
  · exact keeps_execTeedCopyResponse
  · exact keeps_execSampleTake
  · exact keeps_execMergeReadResponse
  · exact keeps_execMergeWriteResponse
  · exact keeps_execAttemptEndTaken
  · exact keeps_execFrameGapExpiry
  · exact keeps_execExposureWaitExpiry
  · exact keeps_execFinishScanResponse
  · exact keeps_execLimitTest
  · exact keeps_execGainComputationComplete
  · exact keeps_execResultRead
  · exact keeps_execRenderCellResponse
  · exact keeps_beatStep
  · exact keeps_execPresenceChange
  · exact keeps_execStalenessExpiry
  · exact keeps_execGuardTime
  · exact keeps_execRecoveryComplete
  · exact keeps_execCoalescedReportServed
  · exact keeps_execReportRecordWrite
  · exact keeps_execReportRecordResponse
  · exact keeps_execHeadWriteResponse
  · exact keeps_execPassThrough
  · exact keeps_execPassThroughResponse
  · exact keeps_execIllegalTransaction
  · exact absurd rfl (hgrant _ _)
  · exact keeps_execTimebaseTick

/-! ### The release of RESET_N and the grant -/

/-- What a grant lets its issuer do next keeps every law (R11, R89, R91, R95). -/
theorem keeps_afterGrant {t : MTxn} {s : State} : Keeps s (afterGrant t s) := by
  unfold afterGrant
  split
  · exact keeps_setRpu id
  · unfold sweepNext
    split
    · exact Keeps.ite (fun _ => keeps_requestM.trans keeps_setSweep) (fun _ => .refl s)
    · exact .refl s
  · exact keeps_storeNext
  · exact keeps_fetchNext
  · unfold scanGranted
    split
    · exact Keeps.ite (fun _ => keeps_scanRequest) (fun _ => .refl s)
    · exact .refl s
  · exact .refl s

/-- A grant moves a request to the transactions granted, and what follows keeps every law. -/
theorem exec_mpaGrant_next {a b : Bool} {s t : State} (h : exec (.mpaGrant a b) s = .next t) :
    ∃ m, Keeps (s.setMpa m) t := by
  change execMpaGrant a b s = .next t at h
  unfold execMpaGrant at h
  split at h
  · split at h
    · cases h; exact ⟨_, keeps_afterGrant⟩
    · cases h; exact ⟨s.mpa, .refl s⟩
  · cases h; exact ⟨s.mpa, .refl s⟩

/-- Where no other window is in use, window 0 may take its place (R152). -/
theorem windowsDisjoint_page {s : State} {b : Nat} (h : ∀ i, i ≠ 0 → vget s.wmu.windows i = none) :
    WindowsDisjoint (s.setWmu { s.wmu with windows := vput s.wmu.windows 0 (some (Win.page b)) }) := by
  have only : ∀ i v, vget (vput s.wmu.windows 0 (some (Win.page b))) i = some v → i = 0 := by
    intro i v hv
    refine Classical.byContradiction fun hi => ?_
    rw [vget_vput_ne _ _ _ _ hi, h i hi] at hv
    cases hv
  intro i j v w hij hv hw
  exact absurd ((only i v hv).trans (only j w hw).symm) hij

/-- What a step keeps, as the statements say it. -/
structure StepKeeps (s t : State) : Prop where
  bounded : Bounded s → Bounded t
  sensor : SensorLawful s → SensorLawful t
  intake : IntakeDistinct s → IntakeDistinct t
  inOrder : PortInOrder s → PortInOrder t
  numbered : PortsNumbered s → PortsNumbered t
  requested : PortsNumbered s → ReadsRequested s t
  windows : s.resetN = true ∨ (∀ i, i ≠ 0 → vget s.wmu.windows i = none) → WindowsDisjoint s → WindowsDisjoint t
  oneBusy : OneBusy s → OneBusy t
  areas : AreasDisjoint s → AreasDisjoint t
  tables : TablesCanonical s → TablesCanonical t

theorem ReadsStand.requested {s t : State} (h : ReadsStand s t) : ReadsRequested s t := by
  intro a ha hr
  obtain ⟨⟨d, hd, hno, hdr, -, -⟩, -⟩ | hreq := h a ha hr
  · exact .inl ⟨d, hd, hno, hdr⟩
  · exact .inr hreq

theorem Keeps.step {s t : State} (h : Keeps s t) : StepKeeps s t where
  bounded := fun ⟨hr, hc, hp⟩ => ⟨h.reports hr, h.counter hc, h.pixels hp⟩
  sensor := h.sensor
  intake := h.intake
  inOrder := h.inOrder
  numbered := h.numbered
  requested hn := (h.reads hn).requested
  windows _ := h.windows
  oneBusy := h.oneBusy
  areas := h.areas
  tables := h.tables

/-- What holds from a state with another arbiter holds from the state: no law but that of the requests speaks of the arbiter, and
that one only of those after the step. -/
theorem StepKeeps.of_setMpa {s t : State} {m : Mpa} (h : StepKeeps (s.setMpa m) t) : StepKeeps s t := { h with }

theorem stepKeeps_resetNRelease {p : BitVec 16} {s t : State} (h : exec (.resetNRelease p) s = .next t) : StepKeeps s t := by
  change execResetNRelease p s = .next t at h
  unfold execResetNRelease at h
  split at h
  · cases h
    exact (Keeps.refl s).step
  · rename_i hreset
    cases h
    refine { (Keeps.refl s).step with windows := fun hw _ => ?_ }
    exact windowsDisjoint_page (s := s.setResetN true) (hw.resolve_left hreset)

theorem stepKeeps_exec {c : Instr} {s t : State} (h : exec c s = .next t) : StepKeeps s t := by
  by_cases hrel : ∃ p, c = .resetNRelease p
  · obtain ⟨p, rfl⟩ := hrel
    exact stepKeeps_resetNRelease h
  · by_cases hgrant : ∃ a b, c = .mpaGrant a b
    · obtain ⟨a, b, rfl⟩ := hgrant
      obtain ⟨m, hm⟩ := exec_mpaGrant_next h
      exact hm.step.of_setMpa
    · have hk : OutcomeKeeps s (exec c s) := keeps_exec (fun p hp => hrel ⟨p, hp⟩) (fun a b hab => hgrant ⟨a, b, hab⟩)
      rw [h] at hk
      exact Keeps.step hk

/-- Taking the front command off the queue touches no law. -/
theorem stepKeeps_step {s t : State} (h : step s = .next t) : StepKeeps s t := by
  unfold step at h
  split at h
  · rename_i c rest _
    exact { stepKeeps_exec h with }
  · cases h
    exact (Keeps.refl s).step

/-- Settles O57: the laws are carried through every operation by `Keeps`; the release of RESET_N and the grant are the two
commands judged apart. -/
theorem stepKeepsBoundsProfileAndIntake : Obligations.StepKeepsBoundsProfileAndIntake := by
  intro s t h
  have hk := stepKeeps_step h
  exact ⟨hk.bounded, hk.sensor, hk.intake, hk.inOrder, hk.numbered, hk.requested, hk.windows⟩

/-- Settles O58: a slot becomes busy only by a start decision, which finds none busy, or from another busy state. -/
theorem stepKeepsOneBusySlot : Obligations.StepKeepsOneBusySlot := fun _ _ hone h => (stepKeeps_step h).oneBusy hone

/-- Settles O59: an area's range changes only by DEFINE_AREA, whose overlap check keeps the areas apart, and every write of a table
keeps its canonical form. -/
theorem stepKeepsAreasAndTables : Obligations.StepKeepsAreasAndTables := fun _ _ hareas htables h =>
  ⟨(stepKeeps_step h).areas hareas, (stepKeeps_step h).tables htables⟩

end Sys2Proof.Machine
end

section
/-! SUPPORT. The step, the resets (R75, R152, R164, R183) and the hand-over of bytes to the intake (R157, R165 to R168, R180, R188). -/
namespace Sys2Proof.Machine
set_option Elab.async false

/-! ### The step and the resets -/

/-- Settles O1: the two cases of the queue. -/
theorem stepRunsFrontCommand : Obligations.StepRunsFrontCommand := by
  refine fun s => ⟨fun c rest h => ?_, fun h => ?_⟩
  · rw [step, h]
  · rw [step, h]

/-- Settles O2: each value is a field of the state at reset. -/
theorem resetLeavesSpecValues : Obligations.ResetLeavesSpecValues := by
  refine ⟨rfl, rfl, by decide, rfl, rfl, rfl, rfl, rfl, rfl, by decide, rfl, rfl, rfl, rfl, rfl, rfl, rfl, rfl, by decide,
    rfl, rfl, rfl, rfl, rfl, rfl, rfl, rfl, rfl, rfl, rfl, by decide, rfl, rfl, rfl, ⟨0, rfl⟩, by decide, rfl,
    rfl, rfl, rfl, rfl, rfl, rfl, rfl, rfl, by decide, rfl, rfl, rfl, rfl, rfl, rfl, rfl, rfl, rfl, rfl, rfl, rfl, rfl⟩

/-- Settles O3: pin reset replaces every block, and of what was granted only the purpose. -/
theorem pinResetAbandonsAllTraffic : Obligations.PinResetAbandonsAllTraffic := by
  refine fun s => ⟨pinResetState s, rfl, ?blocks, rfl, rfl, rfl, rfl, rfl, rfl, ?ids, ?kinds, rfl, rfl, rfl⟩
  case blocks =>
    intro f hf
    cases f <;> first | rfl | simp at hf
  case ids => exact List.map_map ..
  case kinds =>
    intro x hx
    obtain ⟨y, -, rfl⟩ := List.mem_map.1 hx
    exact ⟨_, rfl⟩

/-- Settles O4: while RESET_N is asserted its release sets window 0 alone. -/
theorem resetReleaseSetsCommandPage : Obligations.ResetReleaseSetsCommandPage := by
  intro s p
  refine ⟨fun h => ⟨_, if_neg (by simp [h]), rfl, ?base, ?others, rfl, frame_setResetN.seq frame_setWmu⟩, fun h => if_pos h⟩
  case base => exact vget_vput_self ..
  case others => exact fun i hi => vget_vput_ne _ _ _ _ hi

/-! ### The hand-over -/

/-- A write at an index leaves every other reading (R165). -/
theorem sget_sput {m : Sparse} (h : swf m = true) (k v o : Nat) : sget (sput m k v) o = if o = k then v else sget m o := by
  by_cases ho : o = k
  · rw [if_pos ho, ho, sget_sput_self m k v h]
  · rw [if_neg ho, sget_sput_ne m k v o ho]

/-- The last byte handed for an offset of the shadow stands there (R165, R188). -/
theorem sget_shadowAfter {m : Sparse} (h : swf m = true) (bs : List (Nat × Byte)) (off : Nat) :
    sget (shadowAfter m bs) off =
      match bs.reverse.find? fun p => p.1 == off with
      | some p => if inShadow off then p.2.toNat else sget m off
      | none => sget m off := by
  induction bs generalizing m with
  | nil => rfl
  | cons p bs ih =>
    obtain ⟨k, b⟩ := p
    have hput : swf (if inShadow k then sput m k b.toNat else m) = true := by
      split
      · exact swf_sput m _ _ h
      · exact h
    rw [shadowAfter, ih hput, List.reverse_cons, List.find?_append]
    have hfirst : sget (if inShadow k then sput m k b.toNat else m) off =
        if off = k ∧ inShadow off = true then b.toNat else sget m off := by
      by_cases hk : inShadow k = true
      · rw [if_pos hk, sget_sput h]
        by_cases ho : off = k
        · rw [if_pos ho, if_pos ⟨ho, ho ▸ hk⟩]
        · rw [if_neg ho, if_neg fun hc => ho hc.1]
      · rw [if_neg hk, if_neg]
        rintro ⟨rfl, hin⟩
        exact hk hin
    cases hlast : bs.reverse.find? fun p => p.1 == off with
    | some q =>
      change (if inShadow off = true then q.2.toNat else _) = if inShadow off = true then q.2.toNat else _
      by_cases hin : inShadow off = true
      · rw [if_pos hin, if_pos hin]
      · rw [if_neg hin, if_neg hin, hfirst, if_neg fun hc => hin hc.2]
    | none =>
      rw [Option.none_or, List.find?_singleton]
      by_cases hk : k = off
      · subst hk
        simp only [beq_self_eq_true, if_true]
        rw [hfirst]
        by_cases hin : inShadow k = true <;> simp [hin]
      · have hk' : (k == off) = false := beq_eq_false_iff_ne.2 hk
        simp only [hk', Bool.false_eq_true, if_false]
        rw [hfirst, if_neg fun hc => hk hc.1.symm]

theorem judgeByte_shadow (off : Nat) (b : Byte) (s : State) : (judgeByte off b s).cin.shadow = s.cin.shadow := by
  unfold judgeByte issueSlot withdrawSlot
  repeat' split
  all_goals rfl

theorem judgeBytes_shadow (bs : List (Nat × Byte)) (s : State) : (judgeBytes bs s).cin.shadow = s.cin.shadow := by
  induction bs generalizing s with
  | nil => rfl
  | cons p bs ih => exact (ih _).trans (judgeByte_shadow ..)

/-- The intake's shadow after a hand-over (R165). -/
theorem handBytes_shadow (bs : List (Nat × Byte)) (s : State) :
    (handBytes bs s).cin.shadow = shadowAfter s.cin.shadow bs := by
  rw [handBytes, judgeBytes_shadow, frame_tailAfter.cin]
  rfl

/-- Settles O5: the hand-over writes the bytes in order, and judging them leaves the shadow. -/
theorem handedBytesReplaceShadow : Obligations.HandedBytesReplaceShadow := by
  refine ⟨fun off => ?_, fun bs s off h => ?_⟩
  · simp only [inShadow, Bool.or_eq_true, Bool.and_eq_true, decide_eq_true_eq]
    exact Iff.rfl
  · rw [handBytes_shadow, sget_shadowAfter h] <;> rfl

/-- A byte that is no STATE byte of a slot at ISSUED or WITHDRAWN is only written (R166, R167). -/
theorem judgeByte_other {off : Nat} {b : Byte} {s : State} (h : off < 512 → off % 64 = 0 → b ≠ 1 ∧ b ≠ 3) :
    judgeByte off b s = s := by
  unfold judgeByte
  split
  · split
    · obtain ⟨h1, h3⟩ := h (by omega) ‹_›
      rw [if_neg h1, if_neg h3]
    · rfl
  · rfl

theorem judgeByte_issued (n : Fin 8) (s : State) : judgeByte (64 * n.1) 1 s = takeEvent (issueSlot n s) := by
  have hdiv : 64 * n.1 / 64 = n.1 := Nat.mul_div_cancel_left _ (by decide)
  have hslot : ∀ h : 64 * n.1 / 64 < 8, (⟨64 * n.1 / 64, h⟩ : Fin 8) = n := fun h => Fin.ext hdiv
  rw [judgeByte, dif_pos (hdiv.symm ▸ n.2 : 64 * n.1 / 64 < 8), if_pos (Nat.mul_mod_right ..), if_pos rfl, hslot]

theorem judgeByte_withdrawn (n : Fin 8) (s : State) : judgeByte (64 * n.1) 3 s = takeEvent (withdrawSlot n s) := by
  have hdiv : 64 * n.1 / 64 = n.1 := Nat.mul_div_cancel_left _ (by decide)
  have hslot : ∀ h : 64 * n.1 / 64 < 8, (⟨64 * n.1 / 64, h⟩ : Fin 8) = n := fun h => Fin.ext hdiv
  rw [judgeByte, dif_pos (hdiv.symm ▸ n.2 : 64 * n.1 / 64 < 8), if_pos (Nat.mul_mod_right ..), if_neg (by decide), if_pos rfl, hslot]

/-- A byte handed alone into the slots' part of the shadow is written and judged, and TAIL stands. -/
theorem handBytes_slot {off : Nat} (h : off < 512) (b : Byte) (s : State) :
    handBytes [(off, b)] s = judgeByte off b (setShadow (sput s.cin.shadow off b.toNat) s) := by
  have hin : inShadow off = true := by simp [inShadow, h]
  have hout : inTailWord off = false := by
    rw [inTailWord, tailOffset, Bool.and_eq_false_iff]
    exact .inl (decide_eq_false (by omega))
  have htail : ∀ u, tailAfter [(off, b)] u = u := fun u => if_neg (by simp [hout])
  rw [handBytes, htail]
  simp only [judgeBytes, shadowAfter, hin, if_true]

/-- A byte of the REPORT_TAIL word handed alone is written, and TAIL is the word modulo 64 (R180). -/
theorem handBytes_tail (off : Fin 4) (b : Byte) (s : State) :
    handBytes [(0x204 + off.1, b)] s =
      (setShadow (sput s.cin.shadow (0x204 + off.1) b.toNat) s).setRpu
        { s.rpu with tail := leNat (shadowBytes (sput s.cin.shadow (0x204 + off.1) b.toNat) 0x204 4) % 64 } := by
  have htail : inTailWord (0x204 + off.1) = true :=
    Bool.and_eq_true_iff.2 ⟨decide_eq_true (Nat.le_add_right ..), decide_eq_true (Nat.add_lt_add_left off.2 _)⟩
  have hin : inShadow (0x204 + off.1) = true := by rw [inShadow, Bool.or_eq_true]; exact .inr htail
  have hset : ∀ u, tailAfter [(0x204 + off.1, b)] u = u.setRpu { u.rpu with tail := tailOf u.cin.shadow } := fun u =>
    if_pos (by simp [htail])
  rw [handBytes, hset]
  simp only [judgeBytes, shadowAfter, hin, if_true]
  rw [judgeByte_other (by omega)]
  rfl

theorem handAlone_held {off : Nat} {v : Byte} {s : State} (h : s.wmu.held ≠ []) :
    handAlone off v s = { s with wmu := { s.wmu with held := s.wmu.held ++ [.hand off v] } } := by
  rw [handAlone, if_neg (by simpa using h)]
  rfl

theorem handAlone_free {off : Nat} {v : Byte} {s : State} (h : s.wmu.held = []) :
    handAlone off v s = handBytes [(off, v)] (dueTakes s) := by
  rw [handAlone, if_pos (by simp [h])]
  rfl

/-- Settles O8: the byte of the word is no STATE byte, so the hand-over writes it and sets TAIL. -/
theorem reportTailTakenModulo64 : Obligations.ReportTailTakenModulo64 := by
  refine ⟨fun off v s => ⟨fun h => congrArg _ (handAlone_held h), fun h hwf => ?free⟩, fun s => ?irq⟩
  case irq => simp [irqAsserted]
  case free =>
    have hrun : exec (.reportTail off v) s = .next (handBytes [(0x204 + off.1, v)] (dueTakes s)) :=
      congrArg _ (handAlone_free h)
    rw [← dueTakes_shadow s] at hwf
    rw [handBytes_tail] at hrun
    refine ⟨_, hrun, sget_sput_self _ _ _ hwf, fun o ho => ?_, rfl, rfl, frame_setShadow.seq frame_setRpu⟩
    rw [← dueTakes_shadow s]
    exact sget_sput_ne _ _ _ _ ho

/-! ### ISSUED and WITHDRAWN by the slot's standing (R166, R167) -/

theorem issueSlot_of_standing {n : Fin 8} {s : State} (h : n ∈ s.cin.queue ∨ (cmdSlot s n).opened = true) :
    issueSlot n s = s := if_pos (by simpa using h)

theorem issueSlot_of_free {n : Fin 8} {s : State} (hq : n ∉ s.cin.queue) (ho : (cmdSlot s n).opened = false) :
    issueSlot n s = s.setCin { s.cin with queue := s.cin.queue ++ [n] } := if_neg (by simp [hq, ho])

theorem withdrawSlot_of_queued {n : Fin 8} {s : State} (h : n ∈ s.cin.queue) :
    withdrawSlot n s = s.setCin { s.cin with queue := s.cin.queue.filter fun m => m != n } := if_pos (by simpa using h)

theorem withdrawSlot_of_open {n : Fin 8} {s : State} (hq : n ∉ s.cin.queue) (ho : (cmdSlot s n).opened = true) :
    withdrawSlot n s = putCmdSlot n { cmdSlot s n with late := true } s := by
  rw [withdrawSlot, if_neg (by simpa using hq), if_pos ho]

theorem withdrawSlot_of_closed {n : Fin 8} {s : State} (hq : n ∉ s.cin.queue) (ho : (cmdSlot s n).opened = false) :
    withdrawSlot n s = s := by
  rw [withdrawSlot, if_neg (by simpa using hq), if_neg (by simp [ho])]

/-- WITHDRAWN touches the queue and the slots' standings alone. -/
theorem withdrawSlot_stands (n : Fin 8) (s : State) : (withdrawSlot n s).cin.shadow = s.cin.shadow ∧
    (withdrawSlot n s).cin.long = s.cin.long ∧ (withdrawSlot n s).cin.waits = s.cin.waits := by
  unfold withdrawSlot
  split
  · exact ⟨rfl, rfl, rfl⟩
  · split <;> exact ⟨rfl, rfl, rfl⟩

/-- ISSUED touches the queue alone. -/
theorem issueSlot_stands (n : Fin 8) (s : State) :
    (issueSlot n s).cin = { s.cin with queue := (issueSlot n s).cin.queue } := by
  unfold issueSlot
  split <;> rfl

/-- Settles O7: either byte is one STATE byte of the slot's, written into the shadow and judged as its row says. -/
theorem issuedAppendsAndWithdrawnLeaves : Obligations.IssuedAppendsAndWithdrawnLeaves := by
  intro n s
  have hoff : 64 * n.1 < 512 := by omega
  refine ⟨fun h => ⟨congrArg _ (handAlone_held h), congrArg _ (handAlone_held h)⟩, fun h hwf => ?free⟩
  rw [← dueTakes_shadow s] at hwf
  have hstand : ∀ v o, o ≠ 64 * n.1 → sget (sput (dueTakes s).cin.shadow (64 * n.1) v) o = sget s.cin.shadow o := by
    intro v o ho
    rw [sget_sput_ne _ _ _ _ ho, dueTakes_shadow]
  refine ⟨?issued, ?withdrawn⟩
  case issued =>
    have hrun : exec (.issued n) s = .next (takeEvent (issueSlot n (setShadow
        (sput (dueTakes s).cin.shadow (64 * n.1) 1) (dueTakes s)))) := by
      rw [← judgeByte_issued]
      exact congrArg _ ((handAlone_free h).trans (handBytes_slot hoff 1 _))
    generalize hu : setShadow (sput (dueTakes s).cin.shadow (64 * n.1) 1) (dueTakes s) = u at hrun
    have hcin : u.cin = { (dueTakes s).cin with shadow := sput (dueTakes s).cin.shadow (64 * n.1) 1 } := by rw [← hu]; rfl
    have hslot : cmdSlot u n = cmdSlot (dueTakes s) n := by rw [cmdSlot, hcin]; rfl
    have hstands : (takeEvent (issueSlot n u)).cin.shadow = sput (dueTakes s).cin.shadow (64 * n.1) 1 := by
      change (issueSlot n u).cin.shadow = _
      rw [issueSlot_stands, hcin]
    refine ⟨_, hrun, ?_, takeJudged_takeEvent _, fun hq => ?_, fun hq ho => ?_, ?_, ?_, ?_⟩
    · refine (congrArg (fun c : Cin => { c with takeDue := (takeEvent (issueSlot n u)).cin.takeDue })
        (issueSlot_stands n u)).trans ?_
      rw [hcin, hstands]
      rfl
    · rw [issueSlot_of_standing (by rwa [hcin, hslot])]
      change u.cin.queue = _
      rw [hcin]
    · rw [issueSlot_of_free (by rwa [hcin]) (by rwa [hslot])]
      change u.cin.queue ++ [n] = _
      rw [hcin]
    · rw [hstands, sget_sput_self _ _ _ hwf]
    · exact fun o ho => by rw [hstands, hstand 1 o ho]
    · rw [← hu]
      exact (frame_setShadow.trans frame_issueSlot).seq frame_takeEvent
  case withdrawn =>
    have hrun : exec (.withdrawn n) s = .next (takeEvent (withdrawSlot n (setShadow
        (sput (dueTakes s).cin.shadow (64 * n.1) 3) (dueTakes s)))) := by
      rw [← judgeByte_withdrawn]
      exact congrArg _ ((handAlone_free h).trans (handBytes_slot hoff 3 _))
    generalize hu : setShadow (sput (dueTakes s).cin.shadow (64 * n.1) 3) (dueTakes s) = u at hrun
    have hcin : u.cin = { (dueTakes s).cin with shadow := sput (dueTakes s).cin.shadow (64 * n.1) 3 } := by rw [← hu]; rfl
    have hslot : ∀ m, cmdSlot u m = cmdSlot (dueTakes s) m := fun m => by rw [cmdSlot, hcin]; rfl
    obtain ⟨hshadow, hlong, hwaits⟩ := withdrawSlot_stands n u
    rw [hcin] at hshadow hlong hwaits
    refine ⟨_, hrun, fun hq => ?_, fun hq => ?_, hlong, hwaits, takeJudged_takeEvent _, ?_, ?_, ?_⟩
    · rw [withdrawSlot_of_queued (by rwa [hcin])]
      change u.cin.queue.filter _ = _ ∧ u.cin.slots = _
      rw [hcin]
      exact ⟨rfl, rfl⟩
    · have hq' : n ∉ u.cin.queue := by rwa [hcin]
      cases ho : (cmdSlot (dueTakes s) n).opened with
      | true =>
        rw [withdrawSlot_of_open hq' (by rw [hslot, ho])]
        refine ⟨?_, (vget_vput_self ..).trans ?_, fun m hm => (vget_vput_ne _ _ _ _ hm).trans (hslot m)⟩
        · change u.cin.queue = _
          rw [hcin]
        · rw [hslot, Bool.or_true]
      | false =>
        rw [withdrawSlot_of_closed hq' (by rw [hslot, ho])]
        refine ⟨?_, (hslot n).trans ?_, fun m _ => hslot m⟩
        · change u.cin.queue = _
          rw [hcin]
        · rw [Bool.or_false]
    · exact (congrArg (sget · _) hshadow).trans (sget_sput_self _ _ _ hwf)
    · exact fun o ho => (congrArg (sget · _) hshadow).trans (hstand _ o ho)
    · rw [← hu]
      exact (frame_setShadow.trans frame_withdrawSlot).seq frame_takeEvent

/-! ### Choosing (R168) -/

theorem free_eq (s : State) : s.free = 8 - s.rpu.queue.length := rfl

/-- What the slot chosen must meet to be taken (R168). -/
theorem takable_of_chosen {s : State} {n : Fin 8} (h : chosen s = some n) :
    takable s = if idleFor s n = true ∧ roomFor (cmdOf s n) ≤ s.free then some n else none := by
  simp only [takable, h, Bool.and_eq_true, decide_eq_true_eq]

/-- Beside a command other than LOAD_JOB nothing may be taken (R168). -/
theorem idleFor_busy {s : State} {l : LongOp} (h : s.cin.long = some l) (hl : ∀ c i, l ≠ .loadJob c i) (n : Fin 8) :
    idleFor s n = false := by
  unfold idleFor
  rw [h]
  cases l with
  | loadJob c i => exact absurd rfl (hl c i)
  | _ => rfl

/-- The take is not due again by bytes that are no STATE byte at ISSUED or WITHDRAWN (R168). -/
theorem judgeBytes_other {bs : List (Nat × Byte)} {s : State}
    (h : ∀ p ∈ bs, p.1 < 512 → p.1 % 64 = 0 → p.2 ≠ 1 ∧ p.2 ≠ 3) : judgeBytes bs s = s := by
  induction bs generalizing s with
  | nil => rfl
  | cons p bs ih =>
    obtain ⟨off, b⟩ := p
    rw [judgeBytes, judgeByte_other (h (off, b) List.mem_cons_self)]
    exact ih fun q hq => h q (List.mem_cons_of_mem _ hq)

theorem find_resetPart {s : State} {before after : List (Fin 8)} {n : Fin 8} (hq : s.cin.queue = before ++ n :: after)
    (hb : ∀ m ∈ before, cmdOf s m ≠ some .resetPart) (hn : cmdOf s n = some .resetPart) : chosen s = some n := by
  have hnone : before.find? (fun m => cmdOf s m == some .resetPart) = none :=
    List.find?_eq_none.2 fun m hm => by simpa using hb m hm
  simp [chosen, hq, List.find?_append, hnone, hn]

theorem chosen_oldest {s : State} {after : List (Fin 8)} {n : Fin 8} (hq : s.cin.queue = n :: after)
    (ha : ∀ m ∈ after, cmdOf s m ≠ some .resetPart) (hn : cmdOf s n ≠ some .resetPart) : chosen s = some n := by
  have hnone : (n :: after).find? (fun m => cmdOf s m == some .resetPart) = none :=
    List.find?_eq_none.2 fun m hm => by
      rcases List.mem_cons.1 hm with rfl | hm
      · simpa using hn
      · simpa using ha m hm
  simp [chosen, hq, hnone]

theorem besideLoad_iff {c : Option Cmd} :
    besideLoad c = true ↔ c = some .snapshot ∨ c = some .abortJob ∨ c = some .releaseJob := by
  cases c with
  | none => simp [besideLoad]
  | some c => cases c <;> simp [besideLoad]

/-- Settles O9: the choice by the position of the first RESET_PART, then the conditions of the slot chosen. -/
theorem resetPartChosenFirst : Obligations.ResetPartChosenFirst := by
  refine ⟨rfl, fun c => by cases c <;> rfl, fun s => ⟨rfl, takable_nil, fun l hl hload => ?busy,
    fun h => if_pos h, fun h => if_neg (by simp [h])⟩, fun bs s h => ?bytes, fun s before after n hq hb => ⟨fun hn => ?reset, ?oldest⟩⟩
  case busy =>
    cases hc : chosen s with
    | none => rw [takable, hc]
    | some n => rw [takable_of_chosen hc, idleFor_busy hl hload, if_neg fun h => nomatch h.1]
  case bytes =>
    rw [handBytes, judgeBytes_other h, frame_tailAfter.cin]
    rfl
  case reset =>
    have hc := find_resetPart hq hb hn
    refine ⟨hc, fun hl => ?_⟩
    have hidle : idleFor s n = true := by
      unfold idleFor
      obtain hl | ⟨c, i, hl⟩ := hl
      · rw [hl]
      · simp [hl, hn]
    rw [takable_of_chosen hc, if_pos ⟨hidle, by rw [hn]; exact Nat.zero_le _⟩]
  case oldest =>
    rintro rfl ha hn
    have hc := chosen_oldest hq ha hn
    refine ⟨hc, fun hl hroom => ?_, fun hroom => ?_, fun c i hl => ⟨fun hbeside hroom => ?_, fun hbeside => ?_⟩⟩
    · rw [takable_of_chosen hc, if_pos ⟨by rw [idleFor, hl], hroom⟩]
    · rw [takable_of_chosen hc, if_neg fun h => absurd h.2 (Nat.not_le.2 hroom)]
    · have hidle : idleFor s n = true := by simp [idleFor, hl, hq, besideLoad_iff.2 hbeside]
      rw [takable_of_chosen hc, if_pos ⟨hidle, hroom⟩]
    · rw [← besideLoad_iff] at hbeside
      have hidle : ¬ idleFor s n = true := by simp [idleFor, hl, hn, hbeside]
      rw [takable_of_chosen hc, if_neg fun h => hidle h.1]

end Sys2Proof.Machine
end

section
/-! SUPPORT. Little-endian fields and byte layouts (chapter 11), and the take of a command (R168 to R170, R174). -/
namespace Sys2Proof.Machine
set_option Elab.async false

/-! ### Little-endian fields -/

theorem leNat_lt (bs : List Byte) : leNat bs < 256 ^ bs.length := by
  induction bs with
  | nil => exact Nat.one_pos
  | cons b bs ih =>
    have hb : b.toNat < 256 := b.isLt
    rw [leNat, List.length_cons, Nat.pow_succ]
    omega

theorem field_lt (bs : List Byte) (off n : Nat) : field bs off n < 256 ^ n :=
  Nat.lt_of_lt_of_le (leNat_lt _) (Nat.pow_le_pow_right (by decide) (List.length_take_le ..))

theorem arg_lt (t : Taken) (off n : Nat) : t.arg off n < 256 ^ n := field_lt ..

/-- The little-endian digits of a number give it back, modulo their width. -/
theorem leNat_digits (w v : Nat) : leNat ((List.range w).map fun k => BitVec.ofNat 8 (v / 256 ^ k)) = v % 256 ^ w := by
  induction w generalizing v with
  | zero => rw [Nat.pow_zero, Nat.mod_one]; rfl
  | succ w ih =>
    have hstep : ((List.range w).map Nat.succ).map (fun k => BitVec.ofNat 8 (v / 256 ^ k)) =
        (List.range w).map fun k => BitVec.ofNat 8 (v / 256 / 256 ^ k) := by
      rw [List.map_map]
      refine List.map_congr_left fun k _ => ?_
      dsimp only [Function.comp]
      rw [Nat.div_div_eq_div_mul, Nat.pow_succ']
    rw [List.range_succ_eq_map, List.map_cons, hstep, leNat, ih, Nat.pow_zero, Nat.div_one, BitVec.toNat_ofNat,
      Nat.pow_succ' (m := 256) (n := w), Nat.mod_mul (a := 256) (b := 256 ^ w)]

/-- A run of bytes that a function of their place gives, cut out of a longer one. -/
theorem range_map_drop_take {f : Nat → Byte} {n off w : Nat} (h : off + w ≤ n) :
    (((List.range n).map f).drop off).take w = (List.range w).map fun k => f (off + k) := by
  apply List.ext_getElem
  · simp; omega
  · intro k h1 h2
    simp

/-! ### Layouts -/

theorem layoutByte_of_none {fs : List (Nat × Nat × Nat)} {i : Nat}
    (h : ∀ o w v, (o, w, v) ∈ fs → ¬ (o ≤ i ∧ i < o + w)) : layoutByte fs i = 0 := by
  induction fs with
  | nil => rfl
  | cons f fs ih =>
    obtain ⟨o, w, v⟩ := f
    rw [layoutByte, if_neg (h o w v List.mem_cons_self)]
    exact ih fun o w v hm => h o w v (List.mem_cons_of_mem _ hm)

/-- The byte of a field, in a layout whose fields share no byte. -/
theorem layoutByte_of_mem {fs : List (Nat × Nat × Nat)} {o w v i : Nat}
    (hapart : fs.Pairwise fun f g => f.1 + f.2.1 ≤ g.1 ∨ g.1 + g.2.1 ≤ f.1) (hm : (o, w, v) ∈ fs) (hi : i < w) :
    layoutByte fs (o + i) = BitVec.ofNat 8 (v / 256 ^ i) := by
  induction fs with
  | nil => cases hm
  | cons f fs ih =>
    obtain ⟨o', w', v'⟩ := f
    obtain ⟨hfirst, hrest⟩ := List.pairwise_cons.1 hapart
    rw [layoutByte]
    rcases List.mem_cons.1 hm with heq | hm
    · cases heq
      rw [if_pos ⟨Nat.le_add_right .., Nat.add_lt_add_left hi _⟩, Nat.add_sub_cancel_left]
    · have hout : ¬ (o' ≤ o + i ∧ o + i < o' + w') := by
        have := hfirst _ hm
        dsimp only at this
        omega
      rw [if_neg hout]
      exact ih hrest hm

/-- A layout whose fields fit and share no byte holds them, and 0 elsewhere (R184). -/
theorem recordHolds_layout {n : Nat} {fs : List (Nat × Nat × Nat)} (hfit : ∀ f ∈ fs, f.1 + f.2.1 ≤ n)
    (hapart : fs.Pairwise fun f g => f.1 + f.2.1 ≤ g.1 ∨ g.1 + g.2.1 ≤ f.1) : RecordHolds (layout n fs) n fs := by
  refine ⟨by simp [layout], fun o w v hm => ?_, fun i hi hnone => ?_⟩
  · rw [field, layout, range_map_drop_take (hfit _ hm)]
    rw [List.map_congr_left fun k hk => layoutByte_of_mem hapart hm (List.mem_range.1 hk)]
    exact leNat_digits w v
  · simp [layout, hi, layoutByte_of_none hnone]

/-! ### What the slot's bytes in the shadow are (R168) -/

theorem takenOf_arg (s : State) (n : Fin 8) {off len : Nat} (h : 12 ≤ off) (hl : off + len ≤ 64) :
    (takenOf s n).arg off len = leNat (shadowBytes s.cin.shadow (64 * n.1 + off) len) := by
  rw [Taken.arg, field, takenOf]
  dsimp only
  rw [shadowBytes, range_map_drop_take (by omega)]
  refine congrArg leNat (List.map_congr_left fun k _ => ?_)
  rw [show 64 * n.1 + 12 + (off - 12 + k) = 64 * n.1 + off + k by omega]

/-! ### The queue under a command -/

theorem complete_queue (n : Fin 8) (r : Result) (s : State) : (complete n r s).cin.queue = s.cin.queue := by
  rw [(complete_spec n r s).1]

theorem complete_long (n : Fin 8) (r : Result) (s : State) : (complete n r s).cin.long = s.cin.long := by
  rw [(complete_spec n r s).1]

theorem answer_queue {t : Taken} {r : Result} {f : State → State} {s : State} (h : (f s).cin = s.cin) :
    (answer t r f s).cin.queue = s.cin.queue := by
  rw [answer, complete_queue]
  split
  · rw [h]
  · rfl

theorem pumpDone_queue (s : State) : (pumpDone s).cin.queue = s.cin.queue := by
  rw [pumpDone]
  change (pumpWaits [] s.cin.waits s).2.cin.queue = _
  rw [frame_pumpWaits.cin]

theorem runHold_queue (t : Taken) (s : State) : (runHold t s).cin.queue = s.cin.queue := by
  unfold runHold finishHold
  dsimp only
  split
  · exact complete_queue ..
  · split
    · rfl
    · rw [complete_queue]
      change (holdEntry (setLong (some (.hold t.slot)) s)).cin.queue = _
      rw [frame_holdEntry.cin]
      rfl

theorem runDefineArea_queue (t : Taken) (s : State) : (runDefineArea t s).cin.queue = s.cin.queue := by
  unfold runDefineArea
  dsimp only
  split
  · split
    · split
      · exact answer_queue rfl
      · exact answer_queue rfl
    · exact complete_queue ..
  · exact complete_queue ..

theorem reportsKick_queue (s : State) : (reportsKick s).cin.queue = s.cin.queue := by
  unfold reportsKick
  split
  · split <;> rfl
  · rfl

theorem storeNext_queue (s : State) : (storeNext s).cin.queue = s.cin.queue := by
  unfold storeNext
  split
  · dsimp only
    split <;> rfl
  · rfl

/-- A command adds no slot to the intake queue: RESET_PART empties it, and no other touches it. -/
theorem runCmd_queue (c : Option Cmd) (t : Taken) (s : State) :
    (runCmd c t s).cin.queue = s.cin.queue ∨ (runCmd c t s).cin.queue = [] := by
  unfold runCmd
  split
  · exact .inl (answer_queue rfl)
  · exact .inl (answer_queue rfl)
  · exact .inl (answer_queue rfl)
  · exact .inl (answer_queue frame_setWindowNow.cin)
  · exact .inl (answer_queue frame_clearWindowNow.cin)
  · exact .inl (answer_queue frame_setMatchNow.cin)
  · exact .inl (runDefineArea_queue ..)
  · left
    unfold runSetReports
    dsimp only
    split
    · exact reportsKick_queue _
    · exact complete_queue ..
  · left
    unfold runFlatStore
    dsimp only
    split
    · exact storeNext_queue _
    · exact complete_queue ..
  · left
    unfold runFlatFetch
    dsimp only
    split
    · rfl
    · exact complete_queue ..
  · exact .inl (answer_queue rfl)
  · exact .inl (answer_queue frame_runEntry.cin)
  · exact .inl (runHold_queue ..)
  · exact .inl (answer_queue frame_arm.cin)
  · exact .inl (answer_queue frame_snapNow.cin)
  · exact .inr (pumpDone_queue _)
  · left
    unfold runLoadJob
    dsimp only
    split
    · rfl
    · exact complete_queue ..
  · left
    unfold runAbortJob
    split
    · exact answer_queue frame_abortSlot.cin
    · exact complete_queue ..
  · left
    unfold runReleaseJob
    split
    · exact answer_queue ((frame_putSlot.trans frame_setAtb).seq (c := startFields) frame_startDecision).cin
    · exact complete_queue ..
  · exact .inl (complete_queue ..)

/-- A take shortens the queue. -/
theorem takeNow_queue_length {n : Fin 8} {s : State} (h : n ∈ s.cin.queue) :
    (takeNow n s).cin.queue.length < s.cin.queue.length := by
  have hfilter : (openSlot n s).cin.queue.length < s.cin.queue.length :=
    List.length_filter_lt_length_iff_exists.2 ⟨n, h, by simp⟩
  unfold takeNow
  rcases runCmd_queue (cmdOf s n) (takenOf s n) (openSlot n s) with hq | hq
  · rwa [hq]
  · rw [hq]
    exact List.length_pos_of_mem h

theorem makeTakes_of_none {k : Nat} {s : State} (h : takes s = none) : makeTakes k s = s := by
  cases k with
  | zero => rfl
  | succ k => rw [makeTakes, h]

theorem makeTakes_of_some {k : Nat} {s : State} {n : Fin 8} (h : takes s = some n) :
    makeTakes (k + 1) s = makeTakes k (takeNow n s) := by rw [makeTakes, h]

theorem takes_mem {s : State} {n : Fin 8} (h : takes s = some n) : n ∈ s.cin.queue :=
  have ⟨_, _, hm⟩ := takes_room h
  hm

/-- As many takes as the queue is long are all that there are. -/
theorem makeTakes_enough {k l : Nat} {s : State} (hk : s.cin.queue.length ≤ k) (hl : s.cin.queue.length ≤ l) :
    makeTakes k s = makeTakes l s := by
  induction k generalizing l s with
  | zero =>
    have hnone : takes s = none := by
      cases ht : takes s with
      | none => rfl
      | some n => exact absurd (List.length_pos_of_mem (takes_mem ht)) (by omega)
    rw [makeTakes_of_none hnone, makeTakes_of_none hnone]
  | succ k ih =>
    cases ht : takes s with
    | none => rw [makeTakes_of_none ht, makeTakes_of_none ht]
    | some n =>
      have hlt := takeNow_queue_length (takes_mem ht)
      obtain ⟨l, rfl⟩ : ∃ l', l = l' + 1 := ⟨l - 1, by omega⟩
      rw [makeTakes_of_some ht, makeTakes_of_some ht]
      exact ih (by omega) (by omega)

/-- The takes that are due begin with COMMAND_TAKE's, and are then those that are due after it (R168). -/
theorem dueTakes_take {s : State} {n : Fin 8} (h : takes s = some n) : dueTakes s = dueTakes (takeNow n s) := by
  have hlt := takeNow_queue_length (takes_mem h)
  obtain ⟨k, hk⟩ : ∃ k, s.cin.queue.length = k + 1 := ⟨s.cin.queue.length - 1, by omega⟩
  rw [dueTakes, dueTakes, hk, makeTakes_of_some h, makeTakes_enough (l := (takeNow n s).cin.queue.length) (by omega) (Nat.le_refl _)]

/-! ### The S-port under a command -/

/-- The S-port stands but for its windows and its match mode. -/
def PortStands (s t : State) : Prop := t.wmu = { s.wmu with windows := t.wmu.windows, mode := t.wmu.mode }

theorem PortStands.of_eq {s t : State} (h : t.wmu = s.wmu) : PortStands s t := by rw [PortStands, h]

theorem PortStands.trans {s t u : State} (h : PortStands s t) (k : PortStands t u) : PortStands s u := by
  rw [PortStands, k, h]

theorem answer_portStands {t : Taken} {r : Result} {f : State → State} {s : State} (h : PortStands s (f s)) :
    PortStands s (answer t r f s) := by
  unfold answer
  split
  · exact h.trans (.of_eq frame_complete.wmu)
  · exact .of_eq frame_complete.wmu

/-- Of the S-port a command changes the windows and the match mode alone. -/
theorem runCmd_portStands (c : Option Cmd) (t : Taken) (s : State) : PortStands s (runCmd c t s) := by
  unfold runCmd
  split
  · exact answer_portStands (.of_eq rfl)
  · exact answer_portStands (.of_eq rfl)
  · exact answer_portStands (.of_eq rfl)
  · refine answer_portStands ?_
    unfold setWindowNow
    split <;> rfl
  · refine answer_portStands ?_
    unfold clearWindowNow
    split <;> rfl
  · refine answer_portStands ?_
    unfold setMatchNow
    split <;> rfl
  · exact .of_eq frame_runDefineArea.wmu
  · exact .of_eq frame_runSetReports.wmu
  · exact .of_eq frame_runFlatStore.wmu
  · exact .of_eq frame_runFlatFetch.wmu
  · exact answer_portStands (.of_eq rfl)
  · exact answer_portStands (.of_eq frame_runEntry.wmu)
  · exact .of_eq frame_runHold.wmu
  · exact answer_portStands (.of_eq frame_arm.wmu)
  · exact answer_portStands (.of_eq frame_snapNow.wmu)
  · exact .of_eq (frame_softIntake.wmu.trans frame_softBlocks.wmu)
  · exact .of_eq frame_runLoadJob.wmu
  · exact .of_eq frame_runAbortJob.wmu
  · exact .of_eq frame_runReleaseJob.wmu
  · exact .of_eq frame_complete.wmu

theorem dueTakes_portStands (s : State) : PortStands s (dueTakes s) := by
  change PortStands s (makeTakes s.cin.queue.length s)
  generalize s.cin.queue.length = k
  induction k generalizing s with
  | zero => exact .of_eq rfl
  | succ k ih =>
    cases ht : takes s with
    | none => rw [makeTakes_of_none ht]; exact .of_eq rfl
    | some n =>
      rw [makeTakes_of_some ht]
      exact ((PortStands.of_eq frame_openSlot.wmu).trans (runCmd_portStands ..)).trans (ih _)

/-! ### The take -/

theorem execCommandTake_of {s : State} {n : Fin 8} (h : takes s = some n) : exec .commandTake s = .next (takeNow n s) := by
  change execCommandTake s = _
  rw [execCommandTake, h]

/-- The row of the command that a slot's CODE names runs that command. -/
theorem exec_row {s : State} {n : Fin 8} {c : Cmd} (h : takes s = some n) (hc : cmdOf s n = some c) :
    exec c.row s = .next (runCmd (some c) (takenOf s n) (openSlot n s)) := by
  cases c <;> exact congrArg Host.Outcome.next (takeCmd_of h hc)

theorem ofCode_iff (v : Nat) (c : Cmd) : Cmd.ofCode v = some c ↔ (v, c) ∈ [(0x0101, Cmd.setSensor), (0x0102, .setLamp),
    (0x0103, .setLadder), (0x0104, .setWindow), (0x0105, .clearWindow), (0x0106, .setMatch), (0x0107, .defineArea),
    (0x0108, .setReports), (0x0201, .flatStore), (0x0202, .flatFetch), (0x0203, .flatDrop), (0x0301, .run), (0x0302, .hold),
    (0x0303, .resume), (0x0304, .snapshot), (0x03FF, .resetPart), (0x0401, .loadJob), (0x0402, .abortJob),
    (0x0403, .releaseJob)] := by
  constructor
  · intro h
    unfold Cmd.ofCode at h
    split at h <;> cases h <;> decide
  · intro h
    simp only [List.mem_cons, Prod.mk.injEq, List.not_mem_nil, or_false] at h
    rcases h with ⟨rfl, rfl⟩ | ⟨rfl, rfl⟩ | ⟨rfl, rfl⟩ | ⟨rfl, rfl⟩ | ⟨rfl, rfl⟩ | ⟨rfl, rfl⟩ | ⟨rfl, rfl⟩ | ⟨rfl, rfl⟩ |
      ⟨rfl, rfl⟩ | ⟨rfl, rfl⟩ | ⟨rfl, rfl⟩ | ⟨rfl, rfl⟩ | ⟨rfl, rfl⟩ | ⟨rfl, rfl⟩ | ⟨rfl, rfl⟩ | ⟨rfl, rfl⟩ | ⟨rfl, rfl⟩ |
      ⟨rfl, rfl⟩ | ⟨rfl, rfl⟩ <;> rfl

/-- Settles O10: COMMAND_TAKE and the command's own row run the same command, and each take shortens the queue, so that the takes
due come to an end. -/
theorem commandTakeRunsNamedCommand : Obligations.CommandTakeRunsNamedCommand := by
  refine ⟨fun s n ht => ⟨fun hc => ?unknown, fun c hc => ?named, ⟨_, execCommandTake_of ht, dueTakes_take ht⟩⟩,
    fun s => ⟨fun ht => ?idle, if_neg (by simp [dueTakes, noTakeDue]), dueTakes_portStands s⟩, fun _ _ => rfl, ofCode_iff,
    fun s n off len h hl => takenOf_arg s n h hl⟩
  case unknown =>
    obtain ⟨htaken, hopen, hlong, -, -⟩ := openSlot_taken n s
    refine ⟨complete n .unknown (openSlot n s), ?_, congrArg _ (takeCmd_of ht hc), completes_of_taken htaken hlong,
      hopen.trans (complete_spec ..).2.1, frame_openSlot.seq frame_complete⟩
    rw [execCommandTake_of ht, takeNow, hc]
    rfl
  case named => rw [execCommandTake_of ht, exec_row ht hc, takeNow, hc]
  case idle => rw [dueTakes, makeTakes_of_none ht]; rfl

/-! ### The answers to the status writes (R169, R170, R174) -/

/-- An error in the answer to a NOTE write sets NOTE_LOST and MEMERR_SEEN (R170). -/
theorem noteErr_rpu (r : Resp) (s : State) : (noteErr r s).rpu =
    { s.rpu with noteLost := s.rpu.noteLost || respErr r, memerrSeen := s.rpu.memerrSeen || respErr r } := by
  unfold noteErr
  cases respErr r <;> simp [setLatch, Rpu.latch]

/-- An error in the answer to the part's own traffic sets MEMERR_SEEN (R163). -/
theorem memErr_rpu (e : Bool) (s : State) : (memErr e s).rpu = { s.rpu with memerrSeen := s.rpu.memerrSeen || e } := by
  unfold memErr
  cases e <;> simp [setLatch, Rpu.latch]

theorem takenBytes_holds : RecordHolds takenBytes 4 [(0, 1, 2)] :=
  (recordHolds_layout (n := 4) (fs := [(0, 1, 2)]) (by decide) (by decide) : RecordHolds (layout 4 _) _ _)

theorem doneBytes_holds (r : Result) (late : Bool) :
    RecordHolds (doneBytes r late) 8 [(0, 1, 4), (4, 1, r.code), (5, 1, if late then 1 else 0)] := by
  have h : doneBytes r late = layout 8 [(0, 1, 4), (4, 1, r.code), (5, 1, if late then 1 else 0)] := by
    cases late <;> rfl
  rw [h]
  refine recordHolds_layout (fun f hf => ?_) ?_
  · simp only [List.mem_cons, List.not_mem_nil, or_false] at hf
    rcases hf with rfl | rfl | rfl <;> simp
  · simp

/-- Settles O11: the answer frees the slot's own DONE write and those that follow it, and the order of the commands that wait
decides the requests. -/
theorem statusAnswersReleaseAndClose : Obligations.StatusAnswersReleaseAndClose := by
  refine ⟨fun txn r s n => ⟨fun hg => ?taken, fun res late hg => ?done⟩, takenBytes_holds, doneBytes_holds, rfl⟩
  case done =>
    refine ⟨putCmdSlot n CmdSlot.closed (noteErr r (answered txn s)), ?_, ?_, ?_, noteErr_rpu r (answered txn s),
      (frame_answered.trans frame_noteErr).seq frame_putCmdSlot⟩
    · change execDoneWriteResponse txn r s = _
      rw [execDoneWriteResponse, hg]
    · have hcin : (noteErr r (answered txn s)).cin = s.cin := frame_noteErr.cin.trans frame_answered.cin
      change { (noteErr r (answered txn s)).cin with slots := vput (noteErr r (answered txn s)).cin.slots n CmdSlot.closed } = _
      rw [hcin]
      rfl
    · exact frame_noteErr.mpa
  case taken =>
    intro waiting asked
    have hrun : exec (.takenWriteResponse txn r) s = .next (pumpDone (putCmdSlot n
        { cmdSlot (noteErr r (answered txn s)) n with takenWait := false } (noteErr r (answered txn s)))) := by
      change execTakenWriteResponse txn r s = _
      rw [execTakenWriteResponse, hg]
    have hslot : cmdSlot (noteErr r (answered txn s)) n = cmdSlot s n := by
      rw [cmdSlot, (frame_answered.seq (c := [.mpa, .rpu]) frame_noteErr : Frame _ s _).cin]; rfl
    rw [hslot] at hrun
    generalize hu : putCmdSlot n { cmdSlot s n with takenWait := false } (noteErr r (answered txn s)) = u at hrun
    have hframe : Frame [.mpa, .rpu, .cin] s u := by
      rw [← hu]; exact (frame_answered.trans frame_noteErr).seq frame_putCmdSlot
    have hcin : u.cin = { s.cin with slots := vput s.cin.slots n { cmdSlot s n with takenWait := false } } := by
      rw [← hu, ← (frame_answered.seq (c := [.mpa, .rpu]) frame_noteErr : Frame _ s (noteErr r (answered txn s))).cin]
      rfl
    have hmpa : u.mpa = { s.mpa with granted := s.mpa.granted.filter (fun x => x.id != txn) } := by
      rw [← hu]; exact frame_noteErr.mpa
    have hself : cmdSlot u n = { cmdSlot s n with takenWait := false } := by rw [cmdSlot, hcin]; exact vget_vput_self ..
    have hothers : ∀ m, m ≠ n → cmdSlot u m = cmdSlot s m := fun m hm => by
      rw [cmdSlot, hcin]; exact vget_vput_ne _ _ _ _ hm
    have hlate : ∀ m, (cmdSlot u m).late = (cmdSlot s m).late := fun m => by
      by_cases hm : m = n
      · rw [hm, hself]
      · rw [hothers m hm]
    have hwait : ∀ d ∈ s.cin.waits, (cmdSlot u d.slot).takenWait = waiting d := fun d _ => by
      by_cases hd : d.slot = n
      · simp [waiting, hd, hself]
      · simp [waiting, hd, hothers]
    have hwaits : u.cin.waits = s.cin.waits := by rw [hcin]
    obtain ⟨hkept, hnote⟩ := pumpWaits_kept waiting [] s.cin.waits u hwait
    obtain ⟨hc, hreq, hbulk, hcell, hsys, -⟩ := pumpWaits_spec [] s.cin.waits u
    have hpump : pumpDone u = setWaits (pumpWaits [] s.cin.waits u).1 (pumpWaits [] s.cin.waits u).2 := by
      rw [pumpDone, hwaits]
    have htc : (pumpDone u).cin = { u.cin with waits := (pumpWaits [] s.cin.waits u).1 } := by rw [hpump, ← hc]; rfl
    have htm : (pumpDone u).mpa = (pumpWaits [] s.cin.waits u).2.mpa := by rw [hpump]; rfl
    have htslot : ∀ m, cmdSlot (pumpDone u) m = cmdSlot u m := fun m => by rw [cmdSlot, htc]; rfl
    refine ⟨pumpDone u, hrun, (htslot n).trans hself, fun m hm => (htslot m).trans (hothers m hm), ?_, ?_, ?_, ?_, ?_, ?_,
      ⟨keptOf waiting [] s.cin.waits, keptOf_length .., ?_, ?_, ?_⟩, ?_⟩
    · rw [htc, hcin]
    · rw [htc, hcin]
    · rw [htc, hcin]
    · rw [htc, hcin]
    · obtain ⟨a, b, c, d, hm⟩ := hreq
      have hstand : (pumpWaits [] s.cin.waits u).2.mpa =
          { u.mpa with note := (pumpWaits [] s.cin.waits u).2.mpa.note } := by
        rw [hm] at hbulk hcell hsys ⊢
        dsimp only at hbulk hcell hsys ⊢
        rw [hbulk, hcell, hsys]
      rw [htm, hstand, hmpa]
    · rw [frame_pumpDone.rpu, ← hu]
      exact noteErr_rpu r (answered txn s)
    · intro i d hd
      simpa using keptOf_spec waiting [] s.cin.waits i d hd
    · rw [htc]
      exact hkept
    · rw [htm, hnote, hmpa]
      have hserial : u.serial = s.serial := hframe.serial
      have hpage : pageBase u = pageBase s := by rw [pageBase, hframe.wmu]; rfl
      simp only [hserial, hpage, hlate, asked]
    · exact hframe.seq frame_pumpDone

end Sys2Proof.Machine
end

section
/-! SUPPORT. The configuration commands (R8, R49, R92, R133, R153 to R155, R177): their checks in order and their effects. -/
namespace Sys2Proof.Machine
set_option Elab.async false

/-! ### Checks and answers -/

theorem checks_cons (b : Bool) (r : Result) (cs : List (Bool × Result)) :
    checks ((b, r) :: cs) = if b = true then checks cs else r := rfl

theorem checks_nil : checks [] = .ok := rfl

/-- Two checks in a row with one result are one. -/
theorem checks_merge (a b : Bool) (r : Result) (cs : List (Bool × Result)) :
    checks ((a, r) :: (b, r) :: cs) = checks ((a && b, r) :: cs) := by cases a <;> rfl

theorem inHold_iff (s : State) : inHold s = true ↔ s.device = .hold := beq_iff_eq

theorem hitsWindow_iff (s : State) (e : Option (Fin 16)) (base size : Nat) :
    (!hitsWindow s e base size) = true ↔ ClearOfWindows s e base size := by
  rw [Bool.not_eq_true']
  refine ⟨clearOfWindows_of, fun h => List.any_eq_false.2 fun i _ => ?_⟩
  cases hw : vget s.wmu.windows i with
  | none => simp
  | some w =>
    have := h i w
    simp_all [overlaps]

theorem hitsArea_iff (s : State) (e : Option (Fin 4)) (base size : Nat) :
    (!hitsArea s e base size) = true ↔ ClearOfAreas s e base size := by
  rw [Bool.not_eq_true']
  refine ⟨clearOfAreas_of, fun h => List.any_eq_false.2 fun i _ => ?_⟩
  have := h i
  simp_all [overlaps]

theorem hitsRing_iff (s : State) (base size : Nat) : (!hitsRing s base size) = true ↔ ClearOfRing s base size := by
  rw [Bool.not_eq_true']
  refine ⟨clearOfRing_of, fun h => ?_⟩
  unfold hitsRing
  split
  · have hclear := h _ ‹_›
    rw [← Bool.not_eq_true]
    simp only [overlaps, Bool.and_eq_true, decide_eq_true_eq]
    exact hclear
  · rfl

theorem answer_wmu (t : Taken) (r : Result) (f : State → State) (s : State) :
    (answer t r f s).wmu = if r = .ok then (f s).wmu else s.wmu := by
  rw [answer, frame_complete.wmu, apply_ite State.wmu]

theorem answer_pdt (t : Taken) (r : Result) (f : State → State) (s : State) :
    (answer t r f s).pdt = if r = .ok then (f s).pdt else s.pdt := by
  rw [answer, frame_complete.pdt, apply_ite State.pdt]

theorem answer_fst (t : Taken) (r : Result) (f : State → State) (s : State) :
    (answer t r f s).fst = if r = .ok then (f s).fst else s.fst := by
  rw [answer, frame_complete.fst, apply_ite State.fst]

theorem answer_atb (t : Taken) (r : Result) (f : State → State) (s : State) :
    (answer t r f s).atb = if r = .ok then (f s).atb else s.atb := by
  rw [answer, frame_complete.atb, apply_ite State.atb]

/-- A refusal at the take completes the command and changes nothing else. -/
theorem complete_refuses (n : Fin 8) (r : Result) (s : State) :
    Completes n r s (complete n r (openSlot n s)) ∧ OnlyRequests s (complete n r (openSlot n s)) ∧
    Frame [.cin, .mpa, .serial] s (complete n r (openSlot n s)) := by
  obtain ⟨htaken, hopen, hlong, -, -⟩ := openSlot_taken n s
  exact ⟨completes_of_taken htaken hlong, hopen.trans (complete_spec ..).2.1, frame_openSlot.seq frame_complete⟩

theorem toFin?_of_lt {n v : Nat} (h : v < n) : toFin? n v = some ⟨v, h⟩ := dif_pos h

theorem toFin?_of_ge {n v : Nat} (h : n ≤ v) : toFin? n v = none := dif_neg (Nat.not_lt.2 h)

theorem toFin?_val {n : Nat} (i : Fin n) : toFin? n i.1 = some i := toFin?_of_lt i.2

/-! ### SET_LAMP and SET_LADDER -/

/-- The checks of SET_LAMP in the order of R133: HOLD, then the ranges of Table 7-4, of which the widths of the arguments keep
four. -/
theorem checkLamp_eq (t : Taken) (s : State) : checkLamp t s =
    if s.device ≠ .hold then .notHeld
    else if t.arg 12 1 ≤ 15 ∧ 1 ≤ t.arg 13 1 ∧ t.arg 13 1 ≤ 64 ∧ t.arg 16 4 ≤ 16777215 ∧ 1 ≤ t.arg 22 1 then .ok
    else .range := by
  have hsettle := arg_lt t 14 2
  have hstale := arg_lt t 20 2
  have hlim := arg_lt t 22 1
  have hguard := arg_lt t 24 2
  have hrange : (lampArg t).inRange = true ↔
      t.arg 12 1 ≤ 15 ∧ 1 ≤ t.arg 13 1 ∧ t.arg 13 1 ≤ 64 ∧ t.arg 16 4 ≤ 16777215 ∧ 1 ≤ t.arg 22 1 := by
    simp only [LampCfg.inRange, Bool.and_eq_true, decide_eq_true_eq]
    simp only [lampArg]
    omega
  by_cases hd : s.device = .hold
  · simp [checkLamp, checks_cons, checks_nil, inHold_iff, hd, hrange]
  · simp [checkLamp, checks_cons, inHold_iff, hd]

/-- The five depths SET_LADDER names are the five bytes from offset 16. -/
theorem ladderArg_depth (t : Taken) :
    (ladderArg t).depth = #v[t.arg 16 1, t.arg 17 1, t.arg 18 1, t.arg 19 1, t.arg 20 1] := rfl

/-- The checks of SET_LADDER in the order of R49: HOLD, then the ranges, then the thresholds' order. -/
theorem checkLadder_eq (t : Taken) (s : State) : checkLadder t s =
    if s.device ≠ .hold then .notHeld
    else if ∀ d ∈ (ladderArg t).depth.toList, 1 ≤ d ∧ d ≤ 8 then
      (if (ladderArg t).t2 ≤ (ladderArg t).t1 ∧ (ladderArg t).t3 ≤ (ladderArg t).t2 ∧ (ladderArg t).t4 ≤ (ladderArg t).t3 then .ok
        else .order)
    else .range := by
  have h1 : (ladderArg t).t1 ≤ 255 := Nat.le_of_lt_succ (arg_lt t 12 1)
  have h2 : (ladderArg t).t2 ≤ 255 := Nat.le_of_lt_succ (arg_lt t 13 1)
  have h3 : (ladderArg t).t3 ≤ 255 := Nat.le_of_lt_succ (arg_lt t 14 1)
  have h4 : (ladderArg t).t4 ≤ 255 := Nat.le_of_lt_succ (arg_lt t 15 1)
  have hdepth : ((ladderArg t).depth.toList.all fun d => decide (1 ≤ d) && decide (d ≤ 8)) = true ↔
      ∀ d ∈ (ladderArg t).depth.toList, 1 ≤ d ∧ d ≤ 8 := by
    simp only [List.all_eq_true, Bool.and_eq_true, decide_eq_true_eq]
  by_cases hd : s.device = .hold
  · simp only [checkLadder, checks_cons, checks_nil, inHold_iff, hd, h1, h2, h3, h4, hdepth, and_assoc, Bool.and_eq_true,
      decide_eq_true_eq, true_and, if_true, ne_eq, not_true_eq_false, if_false]
  · simp [checkLadder, checks_cons, inHold_iff, hd]

/-- Settles O13: each command's answer is that of its checks, and its one effect writes the whole configuration. -/
theorem setLampAndLadderSetWhole : Obligations.SetLampAndLadderSetWhole := by
  intro s n ht a
  refine ⟨?lamp, ?ladder⟩
  case lamp =>
    intro hc c r
    have hr : checkLamp (takenOf s n) (openSlot n s) = r := by rw [checkLamp_eq, frame_openSlot.device]
    have hrun : exec .setLamp s = .next (runSetLamp (takenOf s n) (openSlot n s)) := congrArg Host.Outcome.next (takeCmd_of ht hc)
    rw [runSetLamp, hr] at hrun
    obtain ⟨hcompletes, hrequests⟩ := answer_completes (s := s) (n := n) (r := r)
      (f := fun s => s.setLamp { s.lamp with cfg := lampArg (takenOf s n) }) rfl (.of_eq rfl)
    refine ⟨_, hrun, hcompletes, hrequests, ?_, frame_openSlot.seq (frame_answer fun _ => frame_setLamp)⟩
    rw [answer_lamp, frame_openSlot.lamp]
    split <;> rfl
  case ladder =>
    intro hc l r
    have hr : checkLadder (takenOf s n) (openSlot n s) = r := by rw [checkLadder_eq, frame_openSlot.device]; rfl
    have hrun : exec .setLadder s = .next (runSetLadder (takenOf s n) (openSlot n s)) :=
      congrArg Host.Outcome.next (takeCmd_of ht hc)
    rw [runSetLadder, hr] at hrun
    obtain ⟨hcompletes, hrequests⟩ := answer_completes (s := s) (n := n) (r := r)
      (f := fun s => s.setMge { s.mge with ladder := ladderArg (takenOf s n) }) rfl (.of_eq rfl)
    refine ⟨_, hrun, hcompletes, hrequests, ?_, frame_openSlot.seq (frame_answer fun _ => frame_setMge)⟩
    rw [answer_mge, frame_openSlot.mge]
    split <;> rfl

/-! ### SET_WINDOW -/

theorem pageAligned_iff (n : Nat) : pageAligned n = true ↔ n % 4096 = 0 := decide_eq_true_iff

/-- A check of two conditions is the check of one and then of the other. -/
theorem if_both {α : Type} {p q : Prop} [Decidable p] [Decidable q] (a b : α) :
    (if p ∧ q then a else b) = if p then (if q then a else b) else b := by
  by_cases hp : p <;> by_cases hq : q <;> simp only [hp, hq, and_self, and_false, false_and, if_true, if_false]

/-- The checks of SET_WINDOW in the order of R153; checks in a row with one result stand together. -/
theorem checkWindow_eq (t : Taken) (s : State) : checkWindow t s =
    if s.device = .hold then
      if (1 ≤ t.arg 12 1 ∧ t.arg 12 1 ≤ 15) ∧ 1 ≤ t.arg 13 1 ∧ t.arg 13 1 ≤ 3 then
        if t.arg 16 8 % 4096 = 0 ∧ t.arg 24 8 % 4096 = 0 then
          if (4096 ≤ t.arg 24 8 ∧ t.arg 24 8 ≤ 68719476736 ∧ t.arg 16 8 + t.arg 24 8 ≤ 2 ^ 40) ∧
              (winKindArg t).isSome = true then
            if (!hitsWindow s (toFin? 16 (t.arg 12 1)) (t.arg 16 8) (t.arg 24 8) &&
                !hitsArea s none (t.arg 16 8) (t.arg 24 8) && !hitsRing s (t.arg 16 8) (t.arg 24 8)) = true then .ok
            else .overlap
          else .range
        else .align
      else .range
    else .notHeld := by
  simp only [checkWindow, checks_cons, checks_nil, Bool.and_eq_true, inHold_iff, pageAligned, inSpace, decide_eq_true_eq, if_both]
  rfl

/-- A range that no window, area or ring meets, as SET_WINDOW and DEFINE_AREA test it (R8, R153). -/
theorem free_iff (s : State) (e : Option (Fin 16)) (f : Option (Fin 4)) (base size : Nat) :
    (!hitsWindow s e base size && !hitsArea s f base size && !hitsRing s base size) = true ↔
      ClearOfWindows s e base size ∧ ClearOfAreas s f base size ∧ ClearOfRing s base size := by
  rw [Bool.and_eq_true, Bool.and_eq_true, hitsWindow_iff, hitsArea_iff, hitsRing_iff, and_assoc]

/-- SET_WINDOW's effect on an entry: the window, and its totals 0 (R153). -/
theorem setWindowNow_of {t : Taken} {i : Fin 16} {k : WinKind} (hi : i.1 = t.arg 12 1) (hk : winKindArg t = some k) (s : State) :
    setWindowNow t s = putTotals i Totals.zero (putWindow i (some { kind := k, base := t.arg 16 8, size := t.arg 24 8 }) s) := by
  rw [setWindowNow, hk, ← hi, toFin?_val]

theorem winKindArg_capture {t : Taken} (h : t.arg 13 1 = 1) : winKindArg t = some .capture := by simp only [winKindArg, h]

theorem winKindArg_result {t : Taken} {i : Fin 4} {f : Fmt} (h : t.arg 13 1 = 2) (hi : t.arg 14 1 = i.1)
    (hf : Fmt.ofCode (t.arg 15 1) = some f) : winKindArg t = some (.result i f) := by
  simp only [winKindArg, h, hi, hf, toFin?_val]

theorem winKindArg_noFmt {t : Taken} {i : Fin 4} (h : t.arg 13 1 = 2) (hi : t.arg 14 1 = i.1)
    (hf : Fmt.ofCode (t.arg 15 1) = none) : winKindArg t = none := by
  simp only [winKindArg, h, hi, hf, toFin?_val]

theorem winKindArg_noSlot {t : Taken} (h : t.arg 13 1 = 2) (hi : 3 < t.arg 14 1) : winKindArg t = none := by
  simp only [winKindArg, h, toFin?_of_ge (Nat.succ_le_of_lt hi)]

theorem Fmt.ofCode_of_gt {v : Nat} (h : 1 < v) : Fmt.ofCode v = none := by
  obtain ⟨k, rfl⟩ := Nat.exists_eq_add_of_le' (Nat.succ_le_of_lt h)
  rfl

theorem monitorInRange_iff (w h r e : Nat) : monitorInRange w h r e = true ↔
    64 ≤ w ∧ w ≤ 12288 ∧ w % 8 = 0 ∧ 64 ≤ h ∧ h ≤ 9216 ∧ 2 ≤ r ∧ r ≤ 16 ∧ 1 ≤ e ∧ e ≤ 1024 := by
  simp only [monitorInRange, Bool.and_eq_true, decide_eq_true_eq, and_assoc]

theorem winKindArg_monitor {t : Taken} (h : t.arg 13 1 = 3) : winKindArg t =
    if monitorInRange (t.arg 32 2) (t.arg 34 2) (t.arg 36 1) (t.arg 38 2) = true then
      some (.monitor (t.arg 32 2) (t.arg 34 2) (t.arg 36 1) (t.arg 38 2)) else none := by
  simp only [winKindArg, h]

/-- Settles O14: the checks are made in R153's order, so the first that fails gives the answer, and with none the entry and its
totals are the effect. -/
theorem setWindowChecksThenSets : Obligations.SetWindowChecksThenSets := by
  refine ⟨?command, fun t => ⟨winKindArg_capture, fun h i hi => ⟨fun hf => winKindArg_result h hi (by rw [hf]; rfl),
    fun hf => winKindArg_result h hi (by rw [hf]; rfl), fun hf => winKindArg_noFmt h hi (Fmt.ofCode_of_gt hf)⟩,
    winKindArg_noSlot, fun h => ⟨?monitor, ?noMonitor⟩⟩⟩
  case monitor => intro hin; rw [winKindArg_monitor h, if_pos ((monitorInRange_iff ..).2 hin)]
  case noMonitor => intro hout; rw [winKindArg_monitor h, if_neg (fun hin => hout ((monitorInRange_iff ..).1 hin))]
  case command =>
    intro s n ht hc a base size numberOk kindOk aligned sized fieldsOk free
    have hrun : exec .setWindow s = .next (answer (takenOf s n) (checkWindow (takenOf s n) s) (setWindowNow (takenOf s n)) (openSlot n s)) :=
      congrArg Host.Outcome.next (takeCmd_of ht hc)
    obtain ⟨hcompletes, hrequests⟩ := answer_completes (s := s) (n := n) (r := checkWindow (takenOf s n) s)
      (f := setWindowNow (takenOf s n)) frame_setWindowNow.cin (.of_eq frame_setWindowNow.mpa)
    have hcheck := checkWindow_eq (takenOf s n) s
    refine ⟨_, _, hrun, hcompletes, hrequests, fun hd => ?_, fun hd h1 => ?_, fun hd h1 h2 => ?_, fun hd h1 h2 h3 => ?_,
      fun hd h1 h2 h3 h4 => ?_, fun hd h1 h2 h3 h4 => ?ok, fun hr => ?refused,
      frame_openSlot.seq (frame_answer fun _ => frame_setWindowNow)⟩
    · rw [hcheck, if_neg hd]
    · rw [hcheck, if_pos hd, if_neg h1]
    · rw [hcheck, if_pos hd, if_pos h1, if_neg h2]
    · rw [hcheck, if_pos hd, if_pos h1, if_pos h2, if_neg h3]
    · rw [hcheck, if_pos hd, if_pos h1, if_pos h2, if_pos h3, if_neg (mt (free_iff ..).1 h4)]
    case ok =>
      rw [if_pos hd, if_pos h1, if_pos h2, if_pos h3, if_pos ((free_iff ..).2 h4)] at hcheck
      obtain ⟨k, hk⟩ := Option.isSome_iff_exists.1 h3.2
      refine ⟨hcheck, ⟨a 12 1, Nat.lt_succ_of_le h1.1.2⟩, k, rfl, hk, ?_, ?_⟩
      · rw [answer_wmu, if_pos hcheck, setWindowNow_of (i := ⟨a 12 1, Nat.lt_succ_of_le h1.1.2⟩) rfl hk]
        rfl
      · rw [answer_pdt, if_pos hcheck, setWindowNow_of (i := ⟨a 12 1, Nat.lt_succ_of_le h1.1.2⟩) rfl hk]
        rfl
    case refused =>
      rw [answer_wmu, answer_pdt, if_neg hr, if_neg hr]
      exact ⟨frame_openSlot.wmu, frame_openSlot.pdt⟩

end Sys2Proof.Machine
end

section
/-! SUPPORT. CLEAR_WINDOW, SET_MATCH, FLAT_DROP, DEFINE_AREA and SET_REPORTS (R8, R92, R154, R155, R177). -/
namespace Sys2Proof.Machine
set_option Elab.async false

/-! ### CLEAR_WINDOW, SET_MATCH and FLAT_DROP -/

theorem checkClear_eq (t : Taken) (s : State) : checkClear t s =
    if s.device ≠ .hold then .notHeld else if 1 ≤ t.arg 12 1 ∧ t.arg 12 1 ≤ 15 then .ok else .range := by
  simp only [checkClear, checks_cons, checks_nil, inHold_iff, Bool.and_eq_true, decide_eq_true_eq, ne_eq, ite_not]

theorem MatchMode.ofCode_of_gt {v : Nat} (h : 1 < v) : MatchMode.ofCode v = none := by
  obtain ⟨k, rfl⟩ := Nat.exists_eq_add_of_le' (Nat.succ_le_of_lt h)
  rfl

theorem checkMatch_eq (t : Taken) (s : State) : checkMatch t s =
    if s.device ≠ .hold then .notHeld else if t.arg 12 1 ≤ 1 then .ok else .range := by
  have hmode : (MatchMode.ofCode (t.arg 12 1)).isSome = true ↔ t.arg 12 1 ≤ 1 := by
    constructor
    · intro h
      refine Nat.le_of_not_lt fun hgt => ?_
      rw [MatchMode.ofCode_of_gt hgt] at h
      cases h
    · intro h
      obtain h | h : t.arg 12 1 = 0 ∨ t.arg 12 1 = 1 := by omega
      · rw [h]; rfl
      · rw [h]; rfl
  simp only [checkMatch, checks_cons, checks_nil, inHold_iff, hmode, ne_eq, ite_not]

theorem bankArg_isSome_iff (t : Taken) : (bankArg t).isSome = true ↔ t.arg 12 1 ≤ 1 := by
  unfold bankArg toFin?
  split <;> simp <;> omega

theorem bankArg_of {t : Taken} {b : Fin 2} (h : b.1 = t.arg 12 1) : bankArg t = some b := by
  rw [bankArg, ← h, toFin?_val]

/-- The checks of FLAT_DROP (R92). -/
theorem checkDrop_eq (t : Taken) (s : State) : checks [(inHold s, .notHeld), ((bankArg t).isSome, .range)] =
    if s.device ≠ .hold then .notHeld else if t.arg 12 1 ≤ 1 then .ok else .range := by
  simp only [checks_cons, checks_nil, inHold_iff, bankArg_isSome_iff, ne_eq, ite_not]

theorem clearWindowNow_of {t : Taken} {i : Fin 16} (hi : i.1 = t.arg 12 1) (s : State) :
    clearWindowNow t s = putTotals i Totals.zero (putWindow i none s) := by
  rw [clearWindowNow, ← hi, toFin?_val]

/-- The mode after SET_MATCH's effect (R155). -/
theorem setMatchNow_mode (t : Taken) (s : State) : (setMatchNow t s).wmu =
    { s.wmu with mode := if t.arg 12 1 = 0 then .active else if t.arg 12 1 = 1 then .bypass else s.wmu.mode } := by
  unfold setMatchNow MatchMode.ofCode
  rcases ha : t.arg 12 1 with - | - | v
  · rfl
  · rfl
  · rfl

/-- Settles O15: three commands that answer at their take, each with one effect on one entry, mode or bank. -/
theorem clearMatchAndDrop : Obligations.ClearMatchAndDrop := by
  intro s n ht a
  refine ⟨fun hc => ?clear, fun hc => ?mode, fun hc => ?drop⟩
  case clear =>
    have hrun : exec .clearWindow s = .next (answer (takenOf s n) (checkClear (takenOf s n) s) (clearWindowNow (takenOf s n))
        (openSlot n s)) := congrArg Host.Outcome.next (takeCmd_of ht hc)
    obtain ⟨hcompletes, hrequests⟩ := answer_completes (s := s) (n := n) (r := checkClear (takenOf s n) s)
      (f := clearWindowNow (takenOf s n)) frame_clearWindowNow.cin (.of_eq frame_clearWindowNow.mpa)
    refine ⟨_, _, hrun, hcompletes, hrequests, checkClear_eq .., fun i hr hi => ⟨?_, ?_⟩, fun hr => ⟨?_, ?_⟩,
      frame_openSlot.seq (frame_answer fun _ => frame_clearWindowNow)⟩
    · rw [answer_wmu, if_pos hr, clearWindowNow_of hi]; rfl
    · rw [answer_pdt, if_pos hr, clearWindowNow_of hi]; rfl
    · rw [answer_wmu, if_neg hr, frame_openSlot.wmu]
    · rw [answer_pdt, if_neg hr, frame_openSlot.pdt]
  case mode =>
    have hrun : exec .setMatch s = .next (answer (takenOf s n) (checkMatch (takenOf s n) s) (setMatchNow (takenOf s n))
        (openSlot n s)) := congrArg Host.Outcome.next (takeCmd_of ht hc)
    obtain ⟨hcompletes, hrequests⟩ := answer_completes (s := s) (n := n) (r := checkMatch (takenOf s n) s)
      (f := setMatchNow (takenOf s n)) frame_setMatchNow.cin (.of_eq frame_setMatchNow.mpa)
    rw [checkMatch_eq] at hrun hcompletes hrequests
    refine ⟨_, hrun, hcompletes, hrequests, ?_, frame_openSlot.seq (frame_answer fun _ => frame_setMatchNow)⟩
    rw [answer_wmu, setMatchNow_mode, frame_openSlot.wmu]
    by_cases hd : s.device = .hold
    · by_cases ha : (takenOf s n).arg 12 1 ≤ 1
      · simp [hd, ha, a]
      · have h0 : (takenOf s n).arg 12 1 ≠ 0 := by omega
        have h1 : (takenOf s n).arg 12 1 ≠ 1 := by omega
        simp [hd, ha, a, h0, h1]
    · simp [hd]
  case drop =>
    have hrun : exec .flatDrop s = .next (answer (takenOf s n) (checks [(inHold s, .notHeld), ((bankArg (takenOf s n)).isSome, .range)])
        (putBank ((bankArg (takenOf s n)).getD 0) Bank.invalid) (openSlot n s)) := congrArg Host.Outcome.next (takeCmd_of ht hc)
    obtain ⟨hcompletes, hrequests⟩ := answer_completes (s := s) (n := n)
      (r := checks [(inHold s, .notHeld), ((bankArg (takenOf s n)).isSome, .range)])
      (f := putBank ((bankArg (takenOf s n)).getD 0) Bank.invalid) rfl (.of_eq rfl)
    refine ⟨_, _, hrun, hcompletes, hrequests, checkDrop_eq .., fun b hr hb => ?_, fun hr => ?_,
      frame_openSlot.seq (frame_answer fun _ => frame_putBank)⟩
    · rw [answer_fst, if_pos hr, bankArg_of hb]; rfl
    · rw [answer_fst, if_neg hr, frame_openSlot.fst]

/-! ### DEFINE_AREA -/

/-- Checks 3 to 6 of DEFINE_AREA in the order of R8. -/
theorem checkArea_eq (i : Fin 4) (base size : Nat) (s : State) : checkArea i base size s =
    if base % 4096 = 0 ∧ size % 4096 = 0 then
      if size ≤ 1073741824 ∧ base + size ≤ 2 ^ 40 then
        if (vget s.atb.areas i).owner = none then
          if (!hitsArea s (some i) base size && !hitsWindow s none base size && !hitsRing s base size) = true then .ok
          else .overlap
        else .busy
      else .range
    else .align := by
  simp only [checkArea, checks_cons, checks_nil, Bool.and_eq_true, pageAligned, inSpace, decide_eq_true_eq,
    Option.isNone_iff_eq_none]
  rfl

theorem areaFree_iff (s : State) (i : Fin 4) (base size : Nat) :
    (!hitsArea s (some i) base size && !hitsWindow s none base size && !hitsRing s base size) = true ↔
      ClearOfAreas s (some i) base size ∧ ClearOfWindows s none base size ∧ ClearOfRing s base size := by
  rw [Bool.and_eq_true, Bool.and_eq_true, hitsWindow_iff, hitsArea_iff, hitsRing_iff, and_assoc]

/-- The answer of DEFINE_AREA (R8). -/
def areaAnswer (t : Taken) (s : State) : Result :=
  if s.device = .hold then
    match toFin? 4 (t.arg 12 1) with
    | some i => if t.arg 24 8 = 0 then checks [((vget s.atb.areas i).owner.isNone, .busy)] else checkArea i (t.arg 16 8) (t.arg 24 8) s
    | none => .range
  else .notHeld

/-- The effect of DEFINE_AREA (R8). -/
def areaEffect (t : Taken) (s : State) : State :=
  match toFin? 4 (t.arg 12 1) with
  | some i =>
    if t.arg 24 8 = 0 then putArea i Area.reset s
    else putArea i { state := .needsClear, base := t.arg 16 8, size := t.arg 24 8, gen := 0, owner := none } s
  | none => s

/-- An answer is that of any function with the same effect on the state it answers in. -/
theorem answer_congr {t : Taken} {r : Result} {f g : State → State} {s : State} (h : f s = g s) :
    answer t r f s = answer t r g s := by rw [answer, answer, h]

theorem areaEffect_of {t : Taken} {i : Fin 4} (hi : i.1 = t.arg 12 1) (s : State) : areaEffect t s =
    if t.arg 24 8 = 0 then putArea i Area.reset s
    else putArea i { state := .needsClear, base := t.arg 16 8, size := t.arg 24 8, gen := 0, owner := none } s := by
  rw [areaEffect, ← hi, toFin?_val]

theorem areaAnswer_of {t : Taken} {i : Fin 4} {s : State} (hd : s.device = .hold) (hi : i.1 = t.arg 12 1) : areaAnswer t s =
    if t.arg 24 8 = 0 then checks [((vget s.atb.areas i).owner.isNone, .busy)] else checkArea i (t.arg 16 8) (t.arg 24 8) s := by
  rw [areaAnswer, if_pos hd, ← hi, toFin?_val]

theorem runDefineArea_eq (t : Taken) (s : State) : runDefineArea t s = answer t (areaAnswer t s) (areaEffect t) s := by
  unfold runDefineArea areaAnswer
  by_cases hd : s.device = .hold
  · rw [if_pos ((inHold_iff s).2 hd), if_pos hd]
    cases hi : toFin? 4 (t.arg 12 1) with
    | none => exact answer_congr (by simp only [areaEffect, hi]; rfl)
    | some i =>
      dsimp only
      by_cases hz : t.arg 24 8 = 0
      · rw [if_pos hz, if_pos hz]
        exact answer_congr (by simp only [areaEffect, hi, if_pos hz])
      · rw [if_neg hz, if_neg hz]
        exact answer_congr (by simp only [areaEffect, hi, if_neg hz])
  · rw [if_neg (mt (inHold_iff s).1 hd), if_neg hd]
    rfl

theorem frame_areaEffect {t : Taken} {s : State} : Frame [.atb] s (areaEffect t s) := by
  unfold areaEffect
  split
  · split
    · exact frame_putArea
    · exact frame_putArea
  · exact Frame.refl

/-- Settles O16: the answer is that of R8's checks in order, the owner alone where the size is 0, and the effect of OK is one
area's. -/
theorem defineAreaChecksThenDefines : Obligations.DefineAreaChecksThenDefines := by
  intro s n ht hc a base size aligned sized
  have hrun : exec .defineArea s = .next (answer (takenOf s n) (areaAnswer (takenOf s n) s) (areaEffect (takenOf s n)) (openSlot n s)) :=
    congrArg Host.Outcome.next ((takeCmd_of ht hc).trans (runDefineArea_eq ..))
  obtain ⟨hcompletes, hrequests⟩ := answer_completes (s := s) (n := n) (r := areaAnswer (takenOf s n) s)
    (f := areaEffect (takenOf s n)) frame_areaEffect.cin (.of_eq frame_areaEffect.mpa)
  refine ⟨_, _, hrun, hcompletes, hrequests, fun hd => if_neg hd, fun hd hi => ?_, fun i hd hi => ?area, fun hr => ?kept,
    frame_openSlot.seq (frame_answer fun _ => frame_areaEffect)⟩
  · rw [areaAnswer, if_pos hd, toFin?_of_ge (Nat.succ_le_of_lt hi)]
  case kept => rw [answer_atb, if_neg hr, frame_openSlot.atb]
  case area =>
    intro x free
    have hcheck := areaAnswer_of (s := s) hd hi
    refine ⟨fun hz ho => ?_, fun hz ho => ?undefines, fun hz h1 => ?_, fun hz h1 h2 => ?_, fun hz h1 h2 ho => ?_,
      fun hz h1 h2 ho h3 => ?_, fun hz h1 h2 ho h3 => ?defines⟩
    · rw [hcheck, if_pos hz, checks_cons, if_neg (by simpa using ho)]
    case undefines =>
      rw [if_pos hz, checks_cons, if_pos (by simpa using ho), checks_nil] at hcheck
      refine ⟨hcheck, ?_⟩
      rw [answer_atb, if_pos hcheck, areaEffect_of hi, if_pos hz]
      rfl
    · rw [hcheck, if_neg hz, checkArea_eq, if_neg h1]
    · rw [hcheck, if_neg hz, checkArea_eq, if_pos h1, if_neg h2]
    · rw [hcheck, if_neg hz, checkArea_eq, if_pos h1, if_pos h2, if_neg ho]
    · rw [hcheck, if_neg hz, checkArea_eq, if_pos h1, if_pos h2, if_pos ho, if_neg (mt (areaFree_iff ..).1 h3)]
    case defines =>
      rw [if_neg hz, checkArea_eq, if_pos h1, if_pos h2, if_pos ho, if_pos ((areaFree_iff ..).2 h3)] at hcheck
      refine ⟨hcheck, ?_, ?_⟩
      · rw [answer_atb, if_pos hcheck, areaEffect_of hi, if_neg hz]
        rfl
      · rw [answer_atb, if_pos hcheck, areaEffect_of hi, if_neg hz]
        rfl

/-! ### SET_REPORTS -/

/-- The checks of SET_REPORTS in the order of R177. -/
theorem checkReports_eq (t : Taken) (s : State) : checkReports t s =
    if s.device = .hold then
      if t.arg 12 1 ≤ 1 then
        if t.arg 16 8 % 4096 = 0 then
          if t.arg 16 8 + 4096 ≤ 2 ^ 40 then
            if (!hitsWindow s none (t.arg 16 8) 4096 && !hitsArea s none (t.arg 16 8) 4096) = true then .ok else .overlap
          else .range
        else .align
      else .range
    else .notHeld := by
  simp only [checkReports, checks_cons, checks_nil, inHold_iff, pageAligned, inSpace, decide_eq_true_eq]
  rfl

/-- The refusal of SET_REPORTS is that of its first failing check. -/
theorem checkReports_refused {t : Taken} {s : State} (h : ¬ (s.device = .hold ∧ t.arg 12 1 ≤ 1 ∧ t.arg 16 8 % 4096 = 0 ∧
      t.arg 16 8 + 4096 ≤ 2 ^ 40 ∧ (!hitsWindow s none (t.arg 16 8) 4096 && !hitsArea s none (t.arg 16 8) 4096) = true)) :
    checkReports t s ≠ .ok ∧ checkReports t s =
      if s.device ≠ .hold then .notHeld else if 1 < t.arg 12 1 then .range
      else if t.arg 16 8 % 4096 ≠ 0 then .align else if 2 ^ 40 < t.arg 16 8 + 4096 then .range else .overlap := by
  rw [checkReports_eq]
  generalize (!hitsWindow s none (t.arg 16 8) 4096 && !hitsArea s none (t.arg 16 8) 4096) = free at h ⊢
  generalize t.arg 12 1 = irq at h ⊢
  generalize t.arg 16 8 = base at h ⊢
  simp only [ne_eq, ite_not, ← Nat.not_le]
  by_cases hd : s.device = .hold
  · by_cases h1 : irq ≤ 1
    · by_cases h2 : base % 4096 = 0
      · by_cases h3 : base + 4096 ≤ 2 ^ 40
        · have h4 : ¬ free = true := fun h4 => h ⟨hd, h1, h2, h3, h4⟩
          rw [if_pos hd, if_pos h1, if_pos h2, if_pos h3, if_neg h4, if_pos hd, if_pos h1, if_pos h2, if_pos h3]
          exact ⟨nofun, rfl⟩
        · rw [if_pos hd, if_pos h1, if_pos h2, if_neg h3, if_pos hd, if_pos h1, if_pos h2, if_neg h3]
          exact ⟨nofun, rfl⟩
      · rw [if_pos hd, if_pos h1, if_neg h2, if_pos hd, if_pos h1, if_neg h2]
        exact ⟨nofun, rfl⟩
    · rw [if_pos hd, if_neg h1, if_pos hd, if_neg h1]
      exact ⟨nofun, rfl⟩
  · rw [if_neg hd, if_neg hd]
    exact ⟨nofun, rfl⟩

/-- SET_REPORTS goes on in its take, or waits, with nothing but the command in execution changed (R177). -/
theorem reportsKick_of_wait {s : State} {n : Fin 8} {b : Nat} {q : Bool} (h : s.cin.long = some (.reportsWait n b q))
    (hw : s.mpa.has isReportWrite = true) : reportsKick s = s := by
  rw [reportsKick, h]
  exact if_pos hw

theorem reportsKick_of_go {s : State} {n : Fin 8} {b : Nat} {q : Bool} (h : s.cin.long = some (.reportsWait n b q))
    (hw : s.mpa.has isReportWrite = false) : reportsKick s = requestHead 0 true (setLong (some (.reportsHead n))
      (s.setRpu { s.rpu with ringSet := true, ringBase := b, irqEn := q, head := 0, tail := 0 })) := by
  rw [reportsKick, h]
  exact if_neg (by simp [hw])

theorem Rpu.ring_iff (r : Rpu) (b : Nat) : r.ring = some b ↔ r.ringSet = true ∧ r.ringBase = b := by
  unfold Rpu.ring
  cases r.ringSet <;> simp

/-- A command that stays in execution leaves what its take has set but for what it waits for, and withdraws no request. -/
theorem TakenNow.keep_slots {n : Fin 8} {s u v : State} (h : TakenNow n s u) (hq : v.cin.queue = u.cin.queue)
    (hsh : v.cin.shadow = u.cin.shadow) (hs : v.cin.slots = u.cin.slots) (hn : ∀ x ∈ u.mpa.note, x ∈ v.mpa.note) :
    TakenNow n s v := by
  obtain ⟨hqueue, hshadow, hself, hothers, hreq⟩ := h
  have hslot : ∀ m, cmdSlot v m = cmdSlot u m := fun m => by rw [cmdSlot, cmdSlot, hs]
  exact ⟨hq.trans hqueue, hsh.trans hshadow, (hslot n).trans hself, fun m hm => (hslot m).trans (hothers m hm), hn _ hreq⟩

theorem NotesAdded.note_only {m m' : Mpa} (h : NotesAdded m m') : m' = { m with note := m'.note } := by
  obtain ⟨l, rfl⟩ := h
  rfl

/-- A completion makes no request but its DONE writes (R169). -/
theorem complete_notesAdded (n : Fin 8) (r : Result) (s : State) : NotesAdded s.mpa (complete n r s).mpa := by
  obtain ⟨-, ⟨a, b, c, d, hm⟩, hbulk, hcell, hsys, -⟩ := complete_spec n r s
  rw [hm] at hbulk hcell hsys
  dsimp only at hbulk hcell hsys
  exact ⟨a, by rw [hm, hbulk, hcell, hsys]⟩

/-- A command in execution that has ended completes: no request but its DONE writes (R169). -/
theorem doneFollows_ended (n : Fin 8) (r : Result) {s u : State} (hcin : u.cin = s.cin) (hw : u.wmu.windows = s.wmu.windows) :
    DoneFollows n r s (complete n r (setLong none u)) :=
  doneFollows_complete (show u.cin.slots = _ by rw [hcin]) hw rfl

/-- The TAKEN write of a take is no record or HEAD write. -/
theorem openSlot_has (n : Fin 8) (s : State) : (openSlot n s).mpa.has isReportWrite = s.mpa.has isReportWrite := by
  simp [openSlot, requestTaken, requestM_mpa, Mpa.enqueue, Mpa.has, isReportWrite, putCmdSlot]

theorem onlyRequests_requestHead (v : Nat) (q : Bool) (s : State) : OnlyRequests s (requestHead v q s) :=
  onlyRequests_requestM (.head v (s.rpu.headSeq + 1) q) .note true (pageBase s + 512) 4 (leBytes 4 v) s

/-- The HEAD write of 0 that SET_REPORTS requests (R177). -/
theorem requestHead_mem (s : State) : ∃ x ∈ (requestHead 0 true s).mpa.note, x.kind = .head 0 (s.rpu.headSeq + 1) true ∧
    x.addr = pageBase s + 0x200 ∧ x.bytes = [0, 0, 0, 0] :=
  ⟨_, List.mem_append_right _ (List.mem_singleton_self _), rfl, rfl, (by decide : leBytes 4 0 = [0, 0, 0, 0])⟩

theorem requestHead_note (v : Nat) (q : Bool) (s : State) {x : MTxn} (h : x ∈ s.mpa.note) : x ∈ (requestHead v q s).mpa.note :=
  (onlyRequests_requestHead v q s).note h

/-- Settles O17: accepted, the command is in execution as a wait that ends in the take where no report write is outstanding; its
HEAD write's answer completes it. -/
theorem setReportsSetsRing : Obligations.SetReportsSetsRing := by
  refine ⟨Rpu.ring_iff, fun s n => ⟨fun ht hc => ?taken, fun txn r v seq hg hl => ?answered⟩⟩
  case answered =>
    have hrun : exec (.setReportsHeadResponse txn r) s = .next (complete n .ok (setLong none
        ((noteErr r (answered txn s)).setRpu { (noteErr r (answered txn s)).rpu with posted := 0, postedSeq := seq }))) := by
      change execSetReportsHeadResponse txn r s = _
      rw [execSetReportsHeadResponse, hg, hl]
    have hframe : Frame [.mpa, .rpu] s (noteErr r (answered txn s)) := frame_answered.trans frame_noteErr
    refine ⟨_, hrun, doneFollows_ended n .ok hframe.cin (by rw [State.setRpu_wmu, hframe.wmu]), ?_, ?_, ?_⟩
    · have hnotes := complete_notesAdded n .ok (setLong none
        ((noteErr r (answered txn s)).setRpu { (noteErr r (answered txn s)).rpu with posted := 0, postedSeq := seq }))
      have hmpa : (setLong none ((noteErr r (answered txn s)).setRpu
          { (noteErr r (answered txn s)).rpu with posted := 0, postedSeq := seq })).mpa = (answered txn s).mpa := frame_noteErr.mpa
      rwa [hmpa] at hnotes
    · rw [frame_complete.rpu]
      change { (noteErr r (answered txn s)).rpu with posted := 0, postedSeq := seq } = _
      rw [noteErr_rpu]
      rfl
    · exact (((hframe.trans frame_setRpu).trans frame_setLong).trans frame_complete).wide
  case taken =>
    intro a base clear ok
    obtain ⟨htaken, hopen, hlong, hwaits, -⟩ := openSlot_taken n s
    have hrun : exec .setReports s = .next (runSetReports (takenOf s n) (openSlot n s)) := congrArg Host.Outcome.next (takeCmd_of ht hc)
    have hcheck : checkReports (takenOf s n) (openSlot n s) = checkReports (takenOf s n) s := rfl
    have hclear : (!hitsWindow s none base 4096 && !hitsArea s none base 4096) = true ↔ clear := by
      rw [Bool.and_eq_true, hitsWindow_iff, hitsArea_iff]
    have hok : s.device = .hold → ok → runSetReports (takenOf s n) (openSlot n s) =
        reportsKick (setLong (some (.reportsWait n base (decide (a 12 1 = 1)))) (openSlot n s)) := by
      intro hd ⟨h1, h2, h3, h4⟩
      have hcheck : checkReports (takenOf s n) (openSlot n s) = .ok := by
        rw [hcheck, checkReports_eq, if_pos hd, if_pos h1, if_pos h2, if_pos h3, if_pos (hclear.2 h4)]
      exact if_pos hcheck
    refine ⟨fun hd h hw => ?go, fun hd h hw => ?wait, fun h => ?refused⟩
    case go =>
      rw [hok hd h, reportsKick_of_go (s := setLong (some (.reportsWait n base (decide (a 12 1 = 1)))) (openSlot n s)) rfl
        ((openSlot_has n s).trans hw)] at hrun
      generalize hu : setLong (some (.reportsHead n)) _ = u at hrun
      have hframe : Frame [.cin, .mpa, .serial, .rpu] s u := by
        rw [← hu]; exact ((frame_openSlot.trans frame_setLong).trans (frame_setRpu.trans frame_setLong)).wide
      have hmpa : u.mpa = (openSlot n s).mpa := by rw [← hu]; rfl
      have hcin : (requestHead 0 true u).cin = { (openSlot n s).cin with long := some (.reportsHead n) } := by
        rw [frame_requestHead.cin, ← hu]; rfl
      have hrpu : u.rpu = { s.rpu with ringSet := true, ringBase := base, irqEn := decide (a 12 1 = 1), head := 0, tail := 0 } := by
        rw [← hu]; rfl
      have hmem := requestHead_mem u
      rw [pageBase, hframe.wmu, hrpu] at hmem
      refine ⟨_, hrun, htaken.keep_slots (by rw [hcin]) (by rw [hcin]) (by rw [hcin]) fun x hx => requestHead_note 0 true u (hmpa ▸ hx),
        hopen.trans ((OnlyRequests.of_eq hmpa).trans (onlyRequests_requestHead 0 true u)), by rw [hcin], by rw [hcin]; rfl, ?_, hmem,
        hframe.seq frame_requestHead⟩
      change { u.rpu with headSeq := u.rpu.headSeq + 1 } = _
      rw [hrpu]
    case wait =>
      rw [hok hd h, reportsKick_of_wait (s := setLong (some (.reportsWait n base (decide (a 12 1 = 1)))) (openSlot n s)) rfl
        ((openSlot_has n s).trans hw)] at hrun
      exact ⟨_, hrun, htaken.keep_slots rfl rfl rfl fun x hx => hx, hopen, rfl, rfl, frame_openSlot.seq frame_setLong⟩
    case refused =>
      obtain ⟨hne, heq⟩ := checkReports_refused (t := takenOf s n) (s := s) fun ⟨hd, h1, h2, h3, h4⟩ =>
        h ⟨hd, h1, h2, h3, hclear.1 h4⟩
      have hrefuse : runSetReports (takenOf s n) (openSlot n s) = complete n (checkReports (takenOf s n) s) (openSlot n s) :=
        if_neg hne
      obtain ⟨hcompletes, hrequests, hframe⟩ := complete_refuses n (checkReports (takenOf s n) s) s
      rw [← heq]
      exact ⟨_, hrun.trans (congrArg _ hrefuse), hcompletes, hrequests, hframe⟩

end Sys2Proof.Machine
end

section
/-! SUPPORT. Flat images (section 5.5): FLAT_STORE and FLAT_FETCH at their takes and at the answers to their bursts. -/
namespace Sys2Proof.Machine
set_option Elab.async false

/-! ### The image (R87, Table 11-8) -/

theorem imageHeader_holds (k : Bank) : RecordHolds ((List.range 32).map (imageByte k)) 32
    [(0, 2, 1), (2, 2, k.tw), (4, 2, k.th), (8, 4, k.t), (12, 4, k.opn)] := by
  have hlayout : (List.range 32).map (imageByte k) = layout 32 (imageHeader k) :=
    List.map_congr_left fun i hi => if_pos (List.mem_range.1 hi)
  rw [hlayout]
  refine recordHolds_layout (fun f hf => ?_) ?_
  · simp only [imageHeader, List.mem_cons, List.not_mem_nil, or_false] at hf
    rcases hf with rfl | rfl | rfl | rfl | rfl <;> simp
  · simp [imageHeader]

theorem imageByte_gain (k : Bank) (tile : Nat) {i : Nat} (hi : i < 2) :
    imageByte k (32 + 2 * tile + i) = BitVec.ofNat 8 (sget k.gains tile / 256 ^ i) := by
  rw [imageByte, if_neg (by omega), show (32 + 2 * tile + i - 32) / 2 = tile by omega, show (32 + 2 * tile + i) % 2 = i by omega]

theorem imageGain_holds (k : Bank) (tile : Nat) :
    field ((List.range 2).map fun i => imageByte k (32 + 2 * tile + i)) 0 2 = sget k.gains tile % 65536 := by
  rw [List.map_congr_left fun i hi => imageByte_gain k tile (List.mem_range.1 hi)]
  exact leNat_digits 2 _

/-- The bytes of an answer are those of its beats, lane after lane. -/
theorem respBytes_getElem? {beats : List RData} {k i : Nat} {d : RData} (h : beats[k]? = some d) (hi : i < 16) :
    (respBytes beats)[16 * k + i]? = some (d.data.extractLsb' (8 * i) 8) := by
  induction beats generalizing k with
  | nil => cases h
  | cons b bs ih =>
    have hlen : (beatBytes b.data).length = 16 := by simp [beatBytes]
    rw [respBytes, List.flatMap_cons]
    cases k with
    | zero =>
      obtain rfl := Option.some.inj h
      rw [List.getElem?_append_left (by omega)]
      simp [beatBytes, hi]
    | succ k =>
      rw [List.getElem?_append_right (by omega), hlen, show 16 * (k + 1) + i - 16 = 16 * k + i by omega]
      exact ih h

/-! ### A burst's answer -/

/-- The answer to a burst of an issuer `p` has been taken: an error sets MEMERR_SEEN, and after one the bursts that are not yet
granted are withdrawn (R89, R91, R163). -/
def burstAnswered (p : MTxn → Bool) (err now : Bool) (txn : Nat) (s : State) : State :=
  if err then (memErr now (answered txn s)).setMpa ((memErr now (answered txn s)).mpa.withdraw p) else memErr now (answered txn s)

theorem frame_burstAnswered {p : MTxn → Bool} {err now : Bool} {txn : Nat} {s : State} :
    Frame [.mpa, .rpu] s (burstAnswered p err now txn s) :=
  Frame.ite (fun _ => ((frame_answered.trans frame_memErr).trans frame_setMpa).wide) (fun _ => frame_answered.seq frame_memErr)

theorem burstAnswered_rpu (p : MTxn → Bool) (err now : Bool) (txn : Nat) (s : State) :
    (burstAnswered p err now txn s).rpu = { s.rpu with memerrSeen := s.rpu.memerrSeen || now } := by
  have h := memErr_rpu now (answered txn s)
  unfold burstAnswered
  split
  · exact h
  · exact h

theorem burstAnswered_mpa (p : MTxn → Bool) (err now : Bool) (txn : Nat) (s : State) :
    (burstAnswered p err now txn s).mpa = { s.mpa with granted := s.mpa.granted.filter (fun x => x.id != txn),
                                                       bulk := s.mpa.bulk.filter (fun x => !(err && p x)),
                                                       cell := s.mpa.cell.filter (fun x => !(err && p x)) } := by
  have h : (memErr now (answered txn s)).mpa = { s.mpa with granted := s.mpa.granted.filter (fun x => x.id != txn) } :=
    frame_memErr.mpa
  cases err with
  | true =>
    change (memErr now (answered txn s)).mpa.withdraw p = _
    rw [h]
    rfl
  | false =>
    have hall : ∀ l : List MTxn, l.filter (fun x => !(false && p x)) = l := fun l => List.filter_eq_self.2 fun _ _ => rfl
    rw [hall, hall]
    exact h

theorem memErr_eq (e : Bool) (s : State) : memErr e s = s.setRpu { s.rpu with memerrSeen := s.rpu.memerrSeen || e } := by
  cases e with
  | true => rw [Bool.or_true]; rfl
  | false => rw [Bool.or_false]; rfl

/-- The answer to a burst, whole: of the state only the arbiter and the latches change. -/
theorem burstAnswered_eq (p : MTxn → Bool) (err now : Bool) (txn : Nat) (s : State) : burstAnswered p err now txn s =
    { s with mpa := (burstAnswered p err now txn s).mpa, rpu := (burstAnswered p err now txn s).rpu } := by
  cases err with
  | true => rw [burstAnswered, if_pos rfl, memErr_eq]; rfl
  | false => rw [burstAnswered, if_neg Bool.false_ne_true, memErr_eq]; rfl

/-! ### FLAT_STORE -/

/-- The checks of FLAT_STORE in the order of R88. -/
theorem checkStore_eq (t : Taken) (k : Bank) (s : State) : checkStore t k s =
    if s.device = .hold then
      if t.arg 12 1 ≤ 1 then
        if t.arg 16 8 % 64 = 0 then
          if k.state = .valid then
            if t.arg 16 8 + (32 + 2 * (k.tw * k.th)) ≤ 2 ^ 40 then
              if (!overlaps (t.arg 16 8) (32 + 2 * (k.tw * k.th)) (pageBase s) 4096 &&
                  !hitsRing s (t.arg 16 8) (32 + 2 * (k.tw * k.th))) = true then .ok else .overlap
            else .range
          else .state
        else .align
      else .range
    else .notHeld := by
  simp only [checkStore, checks_cons, checks_nil, inHold_iff, bankArg_isSome_iff, decide_eq_true_eq, beq_iff_eq]
  rfl

theorem storeFree_iff (s : State) (addr len : Nat) :
    (!overlaps addr len (pageBase s) 4096 && !hitsRing s addr len) = true ↔
      ¬ (addr < pageBase s + 4096 ∧ pageBase s < addr + len) ∧ ClearOfRing s addr len := by
  rw [Bool.and_eq_true, hitsRing_iff, Bool.not_eq_true', ← Bool.not_eq_true, overlaps, Bool.and_eq_true, decide_eq_true_eq,
    decide_eq_true_eq]

theorem storeNext_of {s : State} {n : Fin 8} {b : Fin 2} {addr done : Nat} (h : s.cin.long = some (.flatStore n b addr done false))
    (hd : done < imageLen (vget s.fst.banks b).tw (vget s.fst.banks b).th) : storeNext s =
    requestM .flatWrite .bulk true (addr + done) (burstLen (addr + done) (imageLen (vget s.fst.banks b).tw (vget s.fst.banks b).th - done))
      (imageBytes (vget s.fst.banks b) done (burstLen (addr + done) (imageLen (vget s.fst.banks b).tw (vget s.fst.banks b).th - done)))
      (setLong (some (.flatStore n b addr
        (done + burstLen (addr + done) (imageLen (vget s.fst.banks b).tw (vget s.fst.banks b).th - done)) false)) s) := by
  rw [storeNext, h]
  exact if_pos hd

/-- What a command that has ended leaves of the arbiter: its DONE write is the one request it may add. -/
theorem ended_mpa (n : Fin 8) (r : Result) (s : State) :
    (complete n r (setLong none s)).mpa = { s.mpa with note := (complete n r (setLong none s)).mpa.note } :=
  (complete_notesAdded n r (setLong none s)).note_only

/-- FLAT_STORE accepted: its first burst is requested (R88, R89). -/
theorem runFlatStore_accepted {t : Taken} {b : Fin 2} {s : State} (hb : b.1 = t.arg 12 1)
    (hok : checkStore t (vget s.fst.banks b) s = .ok) :
    let k := vget s.fst.banks b
    let first := burstLen (t.arg 16 8) (imageLen k.tw k.th)
    runFlatStore t s = requestM .flatWrite .bulk true (t.arg 16 8) first ((List.range first).map (imageByte k))
      (setLong (some (.flatStore t.slot b (t.arg 16 8) first false)) s) := by
  have hlen : 0 < imageLen (vget s.fst.banks b).tw (vget s.fst.banks b).th := Nat.lt_of_lt_of_le (by decide) (Nat.le_add_right 32 _)
  rw [runFlatStore, bankArg_of hb]
  refine (if_pos hok).trans ((storeNext_of (s := setLong (some (.flatStore t.slot b (t.arg 16 8) 0 false)) s) rfl hlen).trans ?_)
  simp only [imageBytes, Nat.zero_add]
  rfl

/-- The request of a BULK transaction stands in the arbiter. -/
theorem requestM_bulk_mem (k : MKind) (w : Bool) (a len : Nat) (bs : List Byte) (s : State) :
    ∃ x ∈ (requestM k .bulk w a len bs s).mpa.bulk, x.kind = k ∧ x.write = w ∧ x.addr = a ∧ x.len = len ∧ x.bytes = bs :=
  ⟨_, List.mem_append_right _ (List.mem_singleton_self _), rfl, rfl, rfl, rfl, rfl⟩

/-- A command accepted into execution with a BULK request stays taken (R169). -/
theorem taken_request {n : Fin 8} {s u : State} (l : Option LongOp) (k : MKind) (w : Bool) (a len : Nat) (bs : List Byte)
    (htaken : TakenNow n s u) (hreq : OnlyRequests s u) :
    TakenNow n s (requestM k .bulk w a len bs (setLong l u)) ∧ OnlyRequests s (requestM k .bulk w a len bs (setLong l u)) :=
  have hmore := onlyRequests_requestM k .bulk w a len bs (setLong l u)
  ⟨htaken.keep_slots rfl rfl rfl fun _ hx => hmore.note (s := setLong l u) hx, hreq.trans hmore⟩

/-- Settles O18: the take requests the image's first burst, and each answer leaves a store that goes on or has ended. -/
theorem flatStoreWritesImage : Obligations.FlatStoreWritesImage := by
  refine ⟨fun k => ⟨imageHeader_holds k, imageGain_holds k⟩, fun s n => ⟨fun ht hc => ?taken, fun txn r b addr done err hg hl => ?answered⟩⟩
  case taken =>
    intro a addr
    obtain ⟨htaken, hopen, -, hwaits, -⟩ := openSlot_taken n s
    have hrun : exec .flatStore s = .next (runFlatStore (takenOf s n) (openSlot n s)) := congrArg Host.Outcome.next (takeCmd_of ht hc)
    have hbank : ∀ b : Fin 2, b.1 = a 12 1 → (bankArg (takenOf s n)).getD 0 = b := fun b hb => by rw [bankArg_of hb]; rfl
    have hle : ∀ b : Fin 2, b.1 = a 12 1 → a 12 1 ≤ 1 := fun b hb => hb ▸ Nat.le_of_lt_succ b.2
    generalize hr : checkStore (takenOf s n) (vget s.fst.banks ((bankArg (takenOf s n)).getD 0)) s = r
    have hcheck := checkStore_eq (takenOf s n) (vget s.fst.banks ((bankArg (takenOf s n)).getD 0)) s
    rw [hr] at hcheck
    have hbad : r ≠ .ok → runFlatStore (takenOf s n) (openSlot n s) = complete n r (openSlot n s) := fun hne => by
      subst hr; exact if_neg hne
    have hgood : ∀ b : Fin 2, b.1 = a 12 1 → r = .ok → _ := fun b hb hok =>
      runFlatStore_accepted (s := openSlot n s) hb (by rw [← hok, ← hr, hbank b hb]; rfl)
    have hboth : TakenNow n s (runFlatStore (takenOf s n) (openSlot n s)) ∧ OnlyRequests s (runFlatStore (takenOf s n) (openSlot n s)) := by
      by_cases hok : r = .ok
      · have hb : a 12 1 ≤ 1 := by
          rw [hok] at hcheck
          refine Classical.byContradiction fun hgt => ?_
          by_cases hd : s.device = .hold
          · rw [if_pos hd, if_neg hgt] at hcheck; cases hcheck
          · rw [if_neg hd] at hcheck; cases hcheck
        rw [hgood ⟨a 12 1, Nat.lt_succ_of_le hb⟩ rfl hok]
        exact taken_request _ _ _ _ _ _ htaken hopen
      · rw [hbad hok]
        obtain ⟨hcompletes, hrequests, -⟩ := complete_refuses n r s
        exact ⟨hcompletes.1, hrequests⟩
    refine ⟨_, r, hrun, hboth.1, hboth.2, fun hne => ?_, fun hd => ?_, fun hd h1 => ?_, fun b hd hb => ?bank,
      frame_openSlot.seq frame_runFlatStore⟩
    · rw [hbad hne]; exact (complete_refuses n r s).1
    · rw [hcheck, if_neg hd]
    · rw [hcheck, if_pos hd, if_neg (Nat.not_le.2 h1)]
    case bank =>
      intro k len first free
      rw [hbank b hb, if_pos hd, if_pos (hle b hb)] at hcheck
      refine ⟨fun h1 => ?_, fun h1 h2 => ?_, fun h1 h2 h3 => ?_, fun h1 h2 h3 h4 => ?_, fun h1 h2 h3 h4 => ?_⟩
      · rw [hcheck, if_neg h1]
      · rw [hcheck, if_pos h1, if_neg h2]
      · rw [hcheck, if_pos h1, if_pos h2, if_neg (Nat.not_le.2 h3)]
      · rw [hcheck, if_pos h1, if_pos h2, if_pos h3, if_neg (mt (storeFree_iff ..).1 h4)]
      · rw [if_pos h1, if_pos h2, if_pos h3, if_pos ((storeFree_iff ..).2 h4)] at hcheck
        rw [hgood b hb hcheck]
        exact ⟨hcheck, rfl, hwaits, rfl, requestM_bulk_mem .flatWrite true _ _ _ _⟩
  case answered =>
    intro e m len
    have hrun : exec (.flatStoreResponse txn r) s = .next (storeEnd n (vget (burstAnswered isFlatWrite e (respErr r) txn s).fst.banks b) done e
        (setLong (some (.flatStore n b addr done e)) (burstAnswered isFlatWrite e (respErr r) txn s))) := by
      change execFlatStoreResponse txn r s = _
      rw [execFlatStoreResponse, hg, hl]
      rfl
    have hframe : Frame [.mpa, .rpu] s (burstAnswered isFlatWrite e (respErr r) txn s) := frame_burstAnswered
    have hrpu := burstAnswered_rpu isFlatWrite e (respErr r) txn s
    have hmpa : (burstAnswered isFlatWrite e (respErr r) txn s).mpa = m := burstAnswered_mpa ..
    generalize burstAnswered isFlatWrite e (respErr r) txn s = u at hrun hframe hrpu hmpa
    rw [hframe.fst] at hrun
    have hended : ∀ res, DoneFollows n res s (complete n res (setLong none u)) ∧
        (complete n res (setLong none u)).mpa = { m with note := (complete n res (setLong none u)).mpa.note } := fun res => by
      rw [← hmpa]
      exact ⟨doneFollows_ended n res hframe.cin (by rw [hframe.wmu]), ended_mpa n res u⟩
    refine ⟨_, hrun, ?_, fun hgo => ?_, fun hout herr => ?_, fun hout herr hdone => ?_,
      ((hframe.trans frame_setLong).trans frame_storeEnd).wide⟩
    · rw [frame_storeEnd.rpu]
      exact hrpu
    · have hstay : storeEnd n (vget s.fst.banks b) done e (setLong (some (.flatStore n b addr done e)) u) =
          setLong (some (.flatStore n b addr done e)) u := by
        unfold storeEnd
        rcases hgo with hout | ⟨herr, hdone⟩
        · exact if_pos (by rw [← hout, ← hmpa]; rfl)
        · rw [herr, if_neg Bool.false_ne_true]
          exact (congrArg (ite _ _) (if_neg (Nat.not_le.2 hdone))).trans (ite_self _)
      rw [hstay]
      exact ⟨by rw [← hframe.cin]; rfl, hmpa⟩
    · have hend : storeEnd n (vget s.fst.banks b) done e (setLong (some (.flatStore n b addr done e)) u) =
          complete n .memoryError (setLong none u) := by
        have hnone : ¬ u.mpa.has isFlatWrite = true := by rw [hmpa, hout]; nofun
        exact (if_neg hnone).trans (if_pos herr)
      rw [hend]
      exact hended _
    · have hend : storeEnd n (vget s.fst.banks b) done e (setLong (some (.flatStore n b addr done e)) u) =
          complete n .ok (setLong none u) := by
        have hnone : ¬ u.mpa.has isFlatWrite = true := by rw [hmpa, hout]; nofun
        exact (if_neg hnone).trans ((if_neg (by rw [herr]; nofun)).trans (if_pos hdone))
      rw [hend]
      exact hended _

/-! ### FLAT_FETCH -/

/-- The checks of FLAT_FETCH in the order of R90. -/
theorem checkFetch_eq (t : Taken) (s : State) : checkFetch t s =
    if s.device = .hold then
      if t.arg 12 1 ≤ 1 then
        if t.arg 16 8 % 64 = 0 then
          if t.arg 16 8 + 32 ≤ 2 ^ 40 then .ok else .range
        else .align
      else .range
    else .notHeld := by
  simp only [checkFetch, checks_cons, checks_nil, inHold_iff, bankArg_isSome_iff, decide_eq_true_eq]
  rfl

/-- Checks 5 to 8 of R90. -/
theorem flatHeader_ok_iff (bs : List Byte) (addr : Nat) : (FlatHeader.read bs).ok addr = true ↔
    field bs 0 2 = 1 ∧ (1 ≤ field bs 2 2 ∧ field bs 2 2 ≤ 192) ∧ (1 ≤ field bs 4 2 ∧ field bs 4 2 ≤ 144) ∧
    (32768 ≤ field bs 8 4 ∧ field bs 8 4 ≤ 16776223 ∧ field bs 12 4 = field bs 8 4 / 32) ∧
    addr + (32 + 2 * (field bs 2 2 * field bs 4 2)) ≤ 2 ^ 40 := by
  simp only [FlatHeader.ok, Bool.and_eq_true, decide_eq_true_eq, and_assoc]
  rfl

theorem fetchNext_of {s : State} {n : Fin 8} {b : Fin 2} {addr tw th t opn done : Nat} {g : Sparse}
    (h : s.cin.long = some (.flatGains n b addr tw th t opn done false g)) (hd : done < 2 * (tw * th)) : fetchNext s =
    requestM (.flatGain (done / 2) (burstLen (addr + 32 + done) (2 * (tw * th) - done) / 2)) .bulk false (addr + 32 + done)
      (burstLen (addr + 32 + done) (2 * (tw * th) - done)) []
      (setLong (some (.flatGains n b addr tw th t opn (done + burstLen (addr + 32 + done) (2 * (tw * th) - done)) false g)) s) := by
  rw [fetchNext, h]
  exact if_pos hd

/-- The header's answer has been taken (R90, R163). -/
theorem headerAnswered_rpu (e : Bool) (txn : Nat) (s : State) :
    (memErr e (answered txn s)).rpu = { s.rpu with memerrSeen := s.rpu.memerrSeen || e } := memErr_rpu e (answered txn s)

/-- Settles O19: the take requests the header, and its answer is judged by R90's checks 5 to 8. -/
theorem flatFetchReadsHeader : Obligations.FlatFetchReadsHeader := by
  refine ⟨fun beats k i d => respBytes_getElem?, fun s n => ⟨fun ht hc => ?taken, fun txn beats b addr hg hl hlen => ?answered⟩⟩
  case taken =>
    intro a addr
    obtain ⟨htaken, hopen, -, hwaits, -⟩ := openSlot_taken n s
    have hrun : exec .flatFetch s = .next (runFlatFetch (takenOf s n) (openSlot n s)) := congrArg Host.Outcome.next (takeCmd_of ht hc)
    generalize hr : checkFetch (takenOf s n) s = r
    have hcheck := checkFetch_eq (takenOf s n) s
    rw [hr] at hcheck
    have hbad : r ≠ .ok → runFlatFetch (takenOf s n) (openSlot n s) = complete n r (openSlot n s) := fun hne => by
      subst hr; exact if_neg hne
    have hgood : r = .ok → runFlatFetch (takenOf s n) (openSlot n s) = requestM .flatHeader .bulk false addr 32 []
        (setLong (some (.flatHeader n ((bankArg (takenOf s n)).getD 0) addr))
          (putBank ((bankArg (takenOf s n)).getD 0) Bank.invalid (openSlot n s))) := fun hok => by
      subst hr; exact if_pos hok
    have hboth : TakenNow n s (runFlatFetch (takenOf s n) (openSlot n s)) ∧ OnlyRequests s (runFlatFetch (takenOf s n) (openSlot n s)) := by
      by_cases hok : r = .ok
      · rw [hgood hok]
        exact taken_request _ _ _ _ _ _ (htaken.keep rfl fun _ hx => hx) (hopen.trans (.of_eq rfl))
      · rw [hbad hok]
        obtain ⟨hcompletes, hrequests, -⟩ := complete_refuses n r s
        exact ⟨hcompletes.1, hrequests⟩
    refine ⟨_, r, hrun, hboth.1, hboth.2, fun hne => ?_, fun hd => ?_, fun hd h1 => ?_, fun hd h1 h2 => ?_, fun hd h1 h2 h3 => ?_,
      fun b hd hb h2 h3 => ?_, frame_openSlot.seq frame_runFlatFetch⟩
    · rw [hbad hne]
      exact ⟨(complete_refuses n r s).1, frame_complete.fst⟩
    · rw [hcheck, if_neg hd]
    · rw [hcheck, if_pos hd, if_neg (Nat.not_le.2 h1)]
    · rw [hcheck, if_pos hd, if_pos h1, if_neg h2]
    · rw [hcheck, if_pos hd, if_pos h1, if_pos h2, if_neg (Nat.not_le.2 h3)]
    · have hle : a 12 1 ≤ 1 := hb ▸ Nat.le_of_lt_succ b.2
      rw [if_pos hd, if_pos hle, if_pos h2, if_pos h3] at hcheck
      rw [hgood hcheck, bankArg_of hb]
      obtain ⟨x, hx, hkind, hwrite, haddr, hlen, -⟩ := requestM_bulk_mem .flatHeader false addr 32 []
        (setLong (some (.flatHeader n b addr)) (putBank b Bank.invalid (openSlot n s)))
      exact ⟨hcheck, rfl, rfl, hwaits, rfl, x, hx, hkind, hwrite, haddr, hlen⟩
  case answered =>
    intro bs tw th target opn ok first m
    have hrun : exec (.flatFetchHeaderResponse txn beats) s = .next
        (if anyErr beats then complete n .memoryError (setLong none (memErr (anyErr beats) (answered txn s)))
        else if (FlatHeader.read bs).ok addr then fetchNext (setLong (some (.flatGains n b addr tw th target opn 0 false []))
          (memErr (anyErr beats) (answered txn s)))
        else complete n .range (setLong none (memErr (anyErr beats) (answered txn s)))) := by
      change execFlatFetchHeaderResponse txn beats s = _
      rw [execFlatFetchHeaderResponse, hg, hl]
      refine (if_pos hlen).trans ?_
      rw [apply_ite Host.Outcome.next, apply_ite Host.Outcome.next]
      rfl
    have hframe : Frame [.mpa, .rpu] s (memErr (anyErr beats) (answered txn s)) := frame_answered.seq frame_memErr
    have hrpu := headerAnswered_rpu (anyErr beats) txn s
    have hmpa : (memErr (anyErr beats) (answered txn s)).mpa = m := frame_memErr.mpa
    generalize memErr (anyErr beats) (answered txn s) = u at hrun hframe hrpu hmpa
    have hended : ∀ res, DoneFollows n res s (complete n res (setLong none u)) ∧
        (complete n res (setLong none u)).mpa = { m with note := (complete n res (setLong none u)).mpa.note } := fun res => by
      rw [← hmpa]
      exact ⟨doneFollows_ended n res hframe.cin (by rw [hframe.wmu]), ended_mpa n res u⟩
    have hendedFrame : ∀ res, Frame [.cin, .mpa, .rpu, .serial] s (complete n res (setLong none u)) := fun res =>
      ((hframe.trans frame_setLong).trans frame_complete).wide
    have hokIff := flatHeader_ok_iff bs addr
    cases herr : anyErr beats with
    | true =>
      rw [if_pos herr] at hrun
      refine ⟨_, hrun, ?_, fun _ => hended _, nofun, nofun, hendedFrame _⟩
      rw [frame_complete.rpu, ← herr]
      exact hrpu
    | false =>
      rw [herr, if_neg Bool.false_ne_true] at hrun
      rw [herr] at hrpu
      by_cases hok : ok
      · have hpos : 0 < 2 * (tw * th) := Nat.mul_pos (by decide) (Nat.mul_pos hok.2.1.1 hok.2.2.1.1)
        have hnext := fetchNext_of (s := setLong (some (.flatGains n b addr tw th target opn 0 false [])) u) rfl hpos
        simp only [Nat.zero_add, Nat.add_zero, Nat.sub_zero, Nat.zero_div] at hnext
        rw [if_pos (hokIff.2 hok), hnext] at hrun
        refine ⟨_, hrun, hrpu, nofun, fun _ hnot => absurd hok hnot, fun _ _ => ⟨?_, ?_⟩,
          (((hframe.trans frame_setLong).trans frame_setLong).trans frame_requestM).wide⟩
        · rw [← hframe.cin]
          rfl
        · rw [← hmpa, ← hframe.serial]
          rfl
      · rw [if_neg (mt hokIff.1 hok)] at hrun
        refine ⟨_, hrun, ?_, nofun, fun _ _ => hended _, fun _ h => absurd h hok, hendedFrame _⟩
        rw [frame_complete.rpu]
        exact hrpu

/-! ### The end of a fetch (R91) -/

/-- A fetch in execution as its fields say. -/
def FetchAt (s : State) (n : Fin 8) (b : Fin 2) (addr tw th t opn done : Nat) (err : Bool) (g : Sparse) : Prop :=
  s.cin.long = some (.flatGains n b addr tw th t opn done err g)

section
variable {s : State} {n : Fin 8} {b : Fin 2} {addr tw th t opn done : Nat} {err : Bool} {g : Sparse}

theorem fetchEnd_stays (h : FetchAt s n b addr tw th t opn done err g)
    (hgo : s.mpa.has isFlatGain = true ∨ (err = false ∧ done < 2 * (tw * th))) : fetchEnd s = s := by
  rw [FetchAt] at h
  simp only [fetchEnd, h]
  rcases hgo with hout | ⟨rfl, hdone⟩
  · exact if_pos hout
  · rw [if_neg Bool.false_ne_true, if_pos hdone, ite_self]

theorem fetchEnd_fails (h : FetchAt s n b addr tw th t opn done err g) (herr : err = true) (hout : s.mpa.has isFlatGain = false) :
    fetchEnd s = complete n .memoryError (setLong none s) := by
  rw [FetchAt] at h
  simp only [fetchEnd, h]
  rw [if_neg (by rw [hout]; nofun), if_pos herr]

theorem fetchEnd_completes (h : FetchAt s n b addr tw th t opn done err g) (herr : err = false) (hout : s.mpa.has isFlatGain = false)
    (hdone : 2 * (tw * th) ≤ done) : fetchEnd s = startDecision (complete n .ok (setLong none
      (putBank b { state := .valid, tw := tw, th := th, t := t, opn := opn, gains := g } s))) := by
  rw [FetchAt] at h
  simp only [fetchEnd, h]
  rw [if_neg (by rw [hout]; nofun), if_neg (by rw [herr]; nofun), if_neg (Nat.not_lt.2 hdone)]

end

/-- Settles O20: an answer stores its gains or discards them all, and the fetch then stays in execution or ends. -/
theorem flatFetchStoresGains : Obligations.FlatFetchStoresGains := by
  intro s n txn beats first m b addr tw th target opn done err g hg hl hlen e g' mpa rpu
  have hrun : exec (.flatFetchGainResponse txn beats) s = .next (fetchEnd (setLong (some (.flatGains n b addr tw th target opn done e g'))
      (burstAnswered isFlatGain e (anyErr beats) txn s))) := by
    change execFlatFetchGainResponse txn beats s = _
    rw [execFlatFetchGainResponse, hg, hl]
    exact if_pos hlen
  have hframe : Frame [.mpa, .rpu] s (burstAnswered isFlatGain e (anyErr beats) txn s) := frame_burstAnswered
  have hrpu : (burstAnswered isFlatGain e (anyErr beats) txn s).rpu = rpu := burstAnswered_rpu ..
  have hmpa : (burstAnswered isFlatGain e (anyErr beats) txn s).mpa = mpa := burstAnswered_mpa ..
  have hwhole := burstAnswered_eq isFlatGain e (anyErr beats) txn s
  rw [hrpu, hmpa] at hwhole
  generalize burstAnswered isFlatGain e (anyErr beats) txn s = u at hrun hframe hrpu hmpa hwhole
  have hat : FetchAt (setLong (some (.flatGains n b addr tw th target opn done e g')) u) n b addr tw th target opn done e g' := rfl
  have hout : ∀ q, mpa.has isFlatGain = q →
      (setLong (some (.flatGains n b addr tw th target opn done e g')) u).mpa.has isFlatGain = q := fun q hq => by
    rw [← hq, ← hmpa]; rfl
  refine ⟨fun hgo => ?_, fun hnone herr => ?_, fun hnone herr hdone => ?_⟩
  · rw [hrun, fetchEnd_stays hat (hgo.imp_left (hout true)), hwhole]
    rfl
  · rw [fetchEnd_fails hat herr (hout false hnone)] at hrun
    refine ⟨_, hrun, doneFollows_complete (congrArg Cin.slots hframe.cin :) (by rw [← hframe.wmu]; rfl) rfl, ?_, ?_, ?_⟩
    · rw [← hmpa]
      exact ended_mpa ..
    · rw [frame_complete.rpu]
      exact hrpu
    · exact (((hframe.trans frame_setLong).trans frame_setLong).trans frame_complete).wide
  · rw [fetchEnd_completes hat herr (hout false hnone) hdone] at hrun
    have hquiet : u.rpu = s.rpu := by
      have hnow : anyErr beats = false := (Bool.or_eq_false_iff.1 herr).2
      rw [hrpu]
      change { s.rpu with memerrSeen := s.rpu.memerrSeen || anyErr beats } = _
      rw [hnow, Bool.or_false]
    refine ⟨_, hrun, doneFollows_complete (congrArg Cin.slots hframe.cin :) (by rw [← hframe.wmu]; rfl) rfl, ?_, ?_, ?_⟩
    · rw [frame_complete.fst, ← hframe.fst]
      rfl
    · rw [← hmpa]
      exact ended_mpa ..
    · intro f hf
      have hall : Frame [.fst, .cin, .mpa, .serial, .rpu] s (complete n .ok (setLong none (putBank b
          { state := .valid, tw := tw, th := th, t := target, opn := opn, gains := g' }
          (setLong (some (.flatGains n b addr tw th target opn done e g')) u)))) :=
        ((((hframe.trans frame_setLong).trans frame_putBank).trans frame_setLong).trans frame_complete).wide
      by_cases hfr : f = .rpu
      · rw [hfr]
        exact frame_complete.rpu.trans hquiet
      · exact hall f (by simpa [hfr] using hf)

end Sys2Proof.Machine
end

section
/-! SUPPORT. RUN, SNAPSHOT and RELEASE_JOB (R171, R173, R70), the job timers (R43, R50), the tick (R114) and the choice of a job
to start (R59 to R61). -/
namespace Sys2Proof.Machine
set_option Elab.async false

/-! ### RUN -/

/-- The checks of RUN: HOLD, then a ring (R171). -/
theorem checkRun_ok_iff (s : State) : checks [(inHold s, .state), (s.rpu.ring.isSome, .state)] =
    if s.device = .hold ∧ s.rpu.ring ≠ none then .ok else .state := by
  simp only [checks_cons, checks_nil, inHold_iff, Option.isSome_iff_ne_none, if_both]

/-- RUN entry, whole: under a SETTLING lamp the start decision finds no job (R59, R171). -/
theorem runEntry_eq (s : State) : runEntry s = setFlag .lamp ((s.setDevice .run).setLamp s.lamp.unsettled) :=
  startDecision_of_lamp _ nofun

/-- Settles O21: RUN answers at its take, and its effect is RUN entry. -/
theorem runEntersRun : Obligations.RunEntersRun := by
  intro s n ht hc
  have hrun : exec .run s = .next (answer (takenOf s n) (checks [(inHold s, .state), (s.rpu.ring.isSome, .state)]) runEntry (openSlot n s)) :=
    congrArg Host.Outcome.next (takeCmd_of ht hc)
  rw [checkRun_ok_iff] at hrun
  refine ⟨fun hbad => ?refused, fun hd hring => ?accepted⟩
  case refused =>
    have hnot : ¬ (s.device = .hold ∧ s.rpu.ring ≠ none) := by
      rintro ⟨hd, hring⟩
      rcases hbad with hr | hr
      · rw [hd] at hr; cases hr
      · exact hring hr
    rw [if_neg hnot] at hrun
    obtain ⟨hcompletes, hrequests, hframe⟩ := complete_refuses n .state s
    exact ⟨_, hrun, hcompletes, hrequests, hframe⟩
  case accepted =>
    rw [if_pos ⟨hd, hring⟩] at hrun
    obtain ⟨hcompletes, hrequests⟩ := answer_completes (s := s) (n := n) (r := .ok) (f := runEntry)
      frame_runEntry.cin (.of_eq (by rw [runEntry_eq]; rfl))
    have heq : answer (takenOf s n) .ok runEntry (openSlot n s) =
        complete n .ok (setFlag .lamp (((openSlot n s).setDevice .run).setLamp s.lamp.unsettled)) := by
      change complete n .ok (runEntry (openSlot n s)) = _
      rw [runEntry_eq]
      rfl
    rw [heq] at hrun hcompletes hrequests
    refine ⟨_, hrun, hcompletes, hrequests, frame_complete.device, frame_complete.lamp, frame_complete.rpu, ?_⟩
    exact ((((frame_openSlot.trans frame_setDevice).trans frame_setLamp).trans frame_setFlag).trans frame_complete).wide

/-! ### SNAPSHOT -/

/-- A report enters a queue with a free entry (R175). -/
theorem pushReport_of_free {slot tag : Nat} {b : RepBody} {s : State} (h : 1 ≤ s.free) : pushReport slot tag b s =
    s.setRpu { s.rpu with queue := s.rpu.queue ++ [{ slot := slot, time := s.time, tag := tag, body := b }] } :=
  if_pos (Nat.lt_of_sub_pos (Nat.lt_of_lt_of_le Nat.zero_lt_one h))

theorem activeSlot_isSome_iff (s : State) : (activeSlot s).isSome = true ↔ ∃ i, (vget s.slots i).state = .active := by
  simp [activeSlot, List.find?_isSome, mem_four]

/-- Settles O24: a take of SNAPSHOT has its report's room, and its effect queues the values and clears the latches. -/
theorem snapshotReportsAndClears : Obligations.SnapshotReportsAndClears := by
  intro s n ht hc
  have hroom : 1 ≤ s.free := by
    have h := (takes_room ht).1
    rwa [hc] at h
  have hrun : exec .snapshot s = .next (answer (takenOf s n) .ok (snapNow (takenOf s n)) (openSlot n s)) :=
    congrArg Host.Outcome.next (takeCmd_of ht hc)
  obtain ⟨hcompletes, hrequests⟩ := answer_completes (s := s) (n := n) (r := .ok) (f := snapNow (takenOf s n))
    frame_snapNow.cin (.of_eq frame_snapNow.mpa)
  refine ⟨_, snapValues s, hrun, hcompletes, hrequests, ?queued, rfl, rfl, rfl, rfl, rfl, rfl, rfl, rfl, fun i => ⟨?_, ?_, ?_⟩,
    fun b => ?_, fun hact => ?active, fun hidle => ?idle, rfl, rfl, rfl, rfl,
    frame_openSlot.seq (frame_answer fun _ => frame_snapNow)⟩
  case queued =>
    have hpush := pushReport_of_free (slot := n.1) (tag := (takenOf s n).tag) (b := .snapshot (snapValues s)) (s := openSlot n s) hroom
    change (complete n .ok (snapNow (takenOf s n) (openSlot n s))).rpu = _
    rw [frame_complete.rpu]
    change (pushReport n.1 (takenOf s n).tag (.snapshot (snapValues s)) (openSlot n s)).rpu.clearLatches = _
    rw [hpush]
    rfl
  · exact vget_map ..
  · exact vget_map ..
  · exact vget_map ..
  · exact vget_map ..
  case active =>
    have hsome := (activeSlot_isSome_iff s).2 hact
    simp only [snapValues, hsome, if_true, true_and]
  case idle =>
    have hnone : ¬ (activeSlot s).isSome = true := fun h => by
      obtain ⟨i, hi⟩ := (activeSlot_isSome_iff s).1 h
      exact hidle i hi
    simp only [snapValues, if_neg hnone]
    exact ⟨rfl, rfl, rfl⟩

/-! ### RELEASE_JOB -/

theorem releasable_iff (x : SlotState) : x.releasable = true ↔ x = .done ∨ x = .failed ∨ x = .aborted := by
  cases x <;> simp [SlotState.releasable]

/-- Settles O28: the slot is emptied and its area freed before the start decision that an OK answer makes. -/
theorem releaseFreesSlot : Obligations.ReleaseFreesSlot := by
  intro s n ht hc
  have hrun : exec .releaseJob s = .next (runReleaseJob (takenOf s n) (openSlot n s)) := congrArg Host.Outcome.next (takeCmd_of ht hc)
  refine ⟨fun hi => ?none, fun i hi => ?slot⟩
  case none =>
    rw [runReleaseJob, toFin?_of_ge (Nat.succ_le_of_lt hi)] at hrun
    obtain ⟨hcompletes, hrequests, hframe⟩ := complete_refuses n .range s
    exact ⟨_, hrun, hcompletes, hrequests, hframe⟩
  case slot =>
    intro x on
    rw [runReleaseJob, ← hi, toFin?_val] at hrun
    have hon : (vget (openSlot n s).slots i).state.releasable = true ↔ on := releasable_iff _
    refine ⟨fun hoff => ?_, fun hyes => ?_⟩
    · have hbad : checks [((vget (openSlot n s).slots i).state.releasable, .state)] = .state := if_neg (mt hon.1 hoff)
      simp only [hbad] at hrun
      obtain ⟨hcompletes, hrequests, hframe⟩ := complete_refuses n .state s
      exact ⟨_, hrun, hcompletes, hrequests, hframe⟩
    · have hgood : checks [((vget (openSlot n s).slots i).state.releasable, .state)] = .ok := if_pos (hon.2 hyes)
      simp only [hgood] at hrun
      have hbefore : Frame [.slots, .atb] (openSlot n s) (disown i (putSlot i JobSlot.empty (openSlot n s))) :=
        frame_putSlot.trans frame_setAtb
      have hreq := onlyRequests_startDecision (disown i (putSlot i JobSlot.empty (openSlot n s)))
      obtain ⟨hcompletes, -⟩ := answer_completes (s := s) (n := n) (r := .ok) (f := releaseNow i)
        (frame_startDecision.cin.trans hbefore.cin) ((OnlyRequests.of_eq hbefore.mpa).trans hreq)
      refine ⟨disown i (putSlot i JobSlot.empty (openSlot n s)), hrun, hcompletes,
        (openSlot_taken n s).2.1.trans (.of_eq hbefore.mpa), rfl, rfl, fun k => ?_, (frame_openSlot.trans hbefore).wide⟩
      change vget (s.atb.areas.map fun a => if a.owner = some i then { a with owner := none } else a) k = _
      rw [vget_map]
      split <;> simp_all

/-! ### The job timers (R43, R50) -/

theorem isLive_unhanded (a : CellAcc) : a.unhanded.isLive = false := by
  obtain ⟨no, addr, len, use, stage⟩ := a
  cases use <;> rfl

/-- A port whose merges all go on unhanded has none of the attempt's (R30). -/
theorem live_unhanded (p : List CellAcc) : (p.map CellAcc.unhanded).any CellAcc.isLive = false := by
  rw [List.any_map, List.any_eq_false]
  intro a _
  simp [isLive_unhanded]

theorem dropAttempt_mge (s : State) : (dropAttempt s).mge = { s.mge with
    pixels := [], seq := { s.mge.seq with att := .waiting, endDue := none }, port := s.mge.port.map CellAcc.unhanded } := rfl

theorem failDue_of {s : State} {i : Fin 4} {j : JobRecord} (r : EndReason) (hj : (vget s.slots i).job = some j)
    (hnone : (vget s.slots i).endDue = none) : failDue i r s =
    putSlot i { vget s.slots i with endDue := some (JobEnd.without .failed r j), startDue := false } s := by
  rw [failDue, hj]
  exact if_neg (by rw [hnone]; nofun)

/-- Settles O42: each timer's row makes its failure due where its condition holds, and else does nothing. -/
theorem jobTimersExpire : Obligations.JobTimersExpire := by
  intro s i j hr q gap wait
  obtain ⟨-, hj, hnone⟩ := running_active hr
  have hgap : exec .frameGapExpiry s = if gap then .next (putSeq { q with endDue := some .gap } s) else .next s := by
    change execFrameGapExpiry s = _
    rw [execFrameGapExpiry, hr]
  have hwait : exec .exposureWaitExpiry s = if wait then .next (failDue i .timeout (dropAttempt s)) else .next s := by
    change execExposureWaitExpiry s = _
    rw [execExposureWaitExpiry, hr]
  refine ⟨fun h => hgap.trans (if_pos h), fun h => hgap.trans (if_neg h), fun h => ?_, fun h => hwait.trans (if_neg h)⟩
  have hslots : (dropAttempt s).slots = s.slots := rfl
  have hfail : failDue i .timeout (dropAttempt s) = _ := failDue_of (s := dropAttempt s) .timeout hj hnone
  have hseq : { q with att := .waiting, endDue := none } = q := by rw [← h.1, ← h.2.1]
  refine ⟨_, hwait.trans (if_pos h), by rw [hfail]; rfl, ?_, ?_, ((frame_dropAttempt.trans frame_failDue).wide)⟩
  · rw [frame_failDue.mge, dropAttempt_mge]
    exact congrArg (fun x => ({ s.mge with pixels := [], seq := x, port := s.mge.port.map CellAcc.unhanded } : Mge)) hseq
  · rw [liveMerges, frame_failDue.mge]
    exact live_unhanded _

/-! ### The tick (R114) -/

theorem tickJob_of_none {s : State} (now : Time) (h : running s = none) : tickJob now s = s := by rw [tickJob, h]

theorem tickJob_of_some {s : State} {i : Fin 4} {j : JobRecord} (now : Time) (h : running s = some (i, j)) : tickJob now s =
    putSeq { s.mge.seq with gap := s.mge.seq.gap.tick now j.frameGapMs, wait := s.mge.seq.wait.tick now j.expWaitMs } s := by
  rw [tickJob, h]

theorem frame_tickJob {now : Time} {s : State} : Frame [.mge] s (tickJob now s) := by
  unfold tickJob
  split
  · exact frame_putSeq
  · exact Frame.refl

/-- Settles O55: the timers' conditions are all that a tick changes beside the timebase. -/
theorem tickAdvancesTimebase : Obligations.TickAdvancesTimebase := by
  refine ⟨fun s => ?_, fun x now limit => ⟨rfl, by simp only [Timer.tick, Bool.or_eq_true, decide_eq_true_eq]⟩⟩
  let u := (s.setTime (s.time + 1)).setLamp (s.lamp.tick (s.time + 1))
  refine ⟨tickJob (s.time + 1) u, rfl, frame_tickJob.time, ?lamp, fun hnone => ?_, fun i j hr => ?_, ?_⟩
  case lamp =>
    have htime : (tickJob (s.time + 1) u).time = s.time + 1 := frame_tickJob.time
    rw [frame_tickJob.lamp, htime]
    have hguard : (s.lamp.state == .steady && (s.lamp.steady.tick (s.time + 1) s.lamp.cfg.guardMs).held && !s.lamp.steady.held) =
        (decide (s.lamp.state = .steady) && !s.lamp.steady.held && (s.lamp.steady.tick (s.time + 1) s.lamp.cfg.guardMs).held) :=
      Bool.and_right_comm ..
    change s.lamp.tick (s.time + 1) = _
    rw [Lamp.tick, hguard]
  · rw [tickJob_of_none (s := u) (s.time + 1) hnone]
    rfl
  · have htime : (tickJob (s.time + 1) u).time = s.time + 1 := frame_tickJob.time
    rw [htime, tickJob_of_some (s := u) (s.time + 1) hr]
    rfl
  · exact ((frame_setTime.trans frame_setLamp).trans frame_tickJob).wide

/-! ### The choice of a job to start (R59 to R61) -/

/-- A slot comes before another at a start decision: by PRIO, then by number (R60). -/
def StartsBefore (s : State) (i k : Fin 4) : Prop := prioOf s i < prioOf s k ∨ (prioOf s i = prioOf s k ∧ i ≤ k)

theorem pickStart_none {s : State} {l : List (Fin 4)} (h : pickStart s l = none) : ∀ k ∈ l, eligible s k = false := by
  induction l with
  | nil => intro k hk; cases hk
  | cons i l ih =>
    unfold pickStart at h
    split at h
    · split at h
      · cases h
      · rintro k (_ | ⟨_, hk⟩)
        · simpa using ‹¬ eligible s i = true›
        · exact ih ‹_› k hk
    · split at h <;> cases h

/-- The pick is the first of the eligible slots of an ascending list. -/
theorem pickStart_first {s : State} {l : List (Fin 4)} {i : Fin 4} (hl : l.Pairwise (· < ·)) (h : pickStart s l = some i) :
    i ∈ l ∧ ∀ k ∈ l, eligible s k = true → StartsBefore s i k := by
  induction l generalizing i with
  | nil => cases h
  | cons a l ih =>
    obtain ⟨hfirst, hrest⟩ := List.pairwise_cons.1 hl
    unfold pickStart at h
    split at h
    · rename_i hnone
      split at h
      · obtain rfl := Option.some.inj h
        refine ⟨List.mem_cons_self, ?_⟩
        rintro k (_ | ⟨_, hk⟩) hel
        · exact .inr ⟨rfl, Nat.le_refl _⟩
        · rw [pickStart_none hnone k hk] at hel
          cases hel
      · cases h
    · rename_i b hb
      obtain ⟨hmem, hmin⟩ := ih hrest hb
      split at h
      · rename_i hpick
        obtain rfl := Option.some.inj h
        obtain ⟨-, hprio⟩ := Bool.and_eq_true_iff.1 hpick
        have hprio := of_decide_eq_true hprio
        refine ⟨List.mem_cons_self, ?_⟩
        rintro k (_ | ⟨_, hk⟩) hel
        · exact .inr ⟨rfl, Nat.le_refl _⟩
        · have hlt := hfirst k hk
          rcases hmin k hk hel with h | ⟨h, -⟩
          · exact .inl (Nat.lt_of_le_of_lt hprio h)
          · rcases Nat.lt_or_eq_of_le (h ▸ hprio) with h' | h'
            · exact .inl h'
            · exact .inr ⟨h', Nat.le_of_lt hlt⟩
      · rename_i hpick
        obtain rfl := Option.some.inj h
        refine ⟨List.mem_cons_of_mem _ hmem, ?_⟩
        rintro k (_ | ⟨_, hk⟩) hel
        · left
          rw [hel, Bool.true_and, decide_eq_true_eq] at hpick
          exact Nat.lt_of_not_le hpick
        · exact hmin k hk hel

/-- The start decision starts the first of the eligible slots (R60). -/
theorem startDecision_of_first {s : State} {i : Fin 4} (hel : eligible s i = true)
    (hfirst : ∀ k, eligible s k = true → StartsBefore s i k) : startDecision s = enterStarting i s := by
  cases hp : pickStart s four with
  | none =>
    rw [pickStart_none hp i (mem_four i)] at hel
    cases hel
  | some k =>
    obtain ⟨-, hmin⟩ := pickStart_first (by decide) hp
    have hik := hfirst k (pickStart_eligible hp)
    have hki := hmin i (mem_four i) hel
    have heq : k = i := by
      unfold StartsBefore at hik hki
      rcases hik with h | ⟨h, hle⟩ <;> rcases hki with h' | ⟨h', hle'⟩
      · omega
      · omega
      · omega
      · exact Fin.le_antisymm hle' hle
    rw [startDecision, hp, heq]

theorem areaFreeFor_iff (i : Fin 4) (a : Area) : areaFreeFor i a = true ↔ a.owner = none ∨ a.owner = some i := by
  simp [areaFreeFor]

/-- The conditions of Table 4-4 that depend on the job's kind. -/
theorem kindAllows_iff (s : State) (i : Fin 4) (j : JobRecord) : kindAllows s i j = true ↔
    (j.kind = .plate → s.pdt.presence = .present ∧ (vget s.fst.banks j.bankNo).state = .valid ∧
      ((vget s.atb.areas j.areaNo).owner = none ∨ (vget s.atb.areas j.areaNo).owner = some i)) ∧
    (j.kind = .flat → s.pdt.presence = .absent) := by
  unfold kindAllows
  cases hk : j.kind with
  | plate => simp [areaFreeFor_iff, and_assoc]
  | flat => simp

theorem eligible_iff (s : State) (i : Fin 4) : eligible s i = true ↔
    (vget s.slots i).state = .pending ∧ s.device = .run ∧ holdRunning s = false ∧
    levelOf s.cec.value ≠ .halted ∧ (∀ k, (vget s.slots k).state.busy = false) ∧ s.lamp.state = .steady ∧
    (levelOf s.cec.value = .guarded → s.lamp.steady.held = true) ∧ s.rpu.queue.length ≤ 7 ∧
    ∃ j, (vget s.slots i).job = some j ∧ kindAllows s i j = true := by
  have hlamp : lampAllows s = true ↔ s.lamp.state = .steady ∧ (levelOf s.cec.value = .guarded → s.lamp.steady.held = true) := by
    simp only [lampAllows, Bool.and_eq_true, beq_iff_eq, Bool.or_eq_true, bne_iff_ne, ne_eq, Decidable.imp_iff_not_or]
  have hfree : 1 ≤ s.free ↔ s.rpu.queue.length ≤ 7 := by
    rw [State.free]
    change 1 ≤ 8 - _ ↔ _
    omega
  have hbusy : (busySlot s).isNone = true ↔ ∀ k, (vget s.slots k).state.busy = false := by
    rw [Option.isNone_iff_eq_none, busySlot_none_iff]
  cases hj : (vget s.slots i).job with
  | none => simp [eligible, hj]
  | some j =>
    simp only [eligible, hj, Bool.and_eq_true, beq_iff_eq, Bool.not_eq_true', bne_iff_ne, hlamp, hbusy, decide_eq_true_eq, hfree,
      Option.some.injEq, exists_eq_left', and_assoc]

/-- Settles O29: the pick runs over the slots in ascending number, and ties keep the lower one. -/
theorem startDecisionPicksLowestPrio : Obligations.StartDecisionPicksLowestPrio := by
  refine ⟨fun v => ⟨fun h => ?_, fun h1 h2 => ?_, fun h1 h2 => ?_, fun h => ?_⟩, fun j => ⟨fun h => ?_, fun h => ?_⟩, fun s =>
    ⟨fun i => ⟨?_, fun j hj => ?_⟩, fun i => ?_, startDecision_none s, fun i hel hfirst => startDecision_of_first hel hfirst⟩⟩
  · exact if_pos h
  · exact (if_neg (by omega)).trans (if_pos h2)
  · exact (if_neg (by omega)).trans ((if_neg (by omega)).trans (if_pos h2))
  · exact (if_neg (by omega)).trans ((if_neg (by omega)).trans (if_neg (by omega)))
  · exact Nat.mod_eq_of_lt (by omega)
  · exact Nat.mod_eq_of_lt (by omega)
  · cases (vget s.slots i).state <;> simp [SlotState.busy]
  · rw [prioOf, hj]
  · rw [eligible_iff]
    simp only [kindAllows_iff]

end Sys2Proof.Machine
end

section
/-! SUPPORT. Job transitions: STARTING, the ACTIVE transition, the end of a job, the clearing sweep's answers and absorbed
responses (chapters 1.8, 4.5, 4.6, 9.6). -/
namespace Sys2Proof.Machine
set_option Elab.async false

/-! ### STARTING (R10, R62, R63) -/

theorem vget_slots_putSlot (i : Fin 4) (x : JobSlot) (s : State) : vget (putSlot i x s).slots i = x := vget_vput_self ..

theorem enterStarting_plate {s : State} {i : Fin 4} {j : JobRecord} (hj : (vget s.slots i).job = some j) (hk : j.kind = .plate) :
    enterStarting i s = plateStarting i j (putSlot i { vget s.slots i with state := .starting } s) := by
  simp only [enterStarting, hj, hk]

theorem enterStarting_flat {s : State} {i : Fin 4} {j : JobRecord} (hj : (vget s.slots i).job = some j) (hk : j.kind = .flat) :
    enterStarting i s = flatStarting i j (putSlot i { vget s.slots i with state := .starting } s) := by
  simp only [enterStarting, hj, hk]

/-- Some merge that has begun has its cell in the area (R11). -/
theorem mergeInArea_iff (s : State) (a : Area) : mergeInArea s a = true ↔
    ∃ c ∈ s.mge.port, c.isMerge = true ∧ c.addr < a.base + a.size ∧ a.base < c.addr + c.len := by
  simp only [mergeInArea, List.any_eq_true, Bool.and_eq_true, overlaps_iff]

theorem tookGeneration_of {s : State} {i : Fin 4} {j : JobRecord} (g : Nat) (hj : (vget s.slots i).job = some j) :
    tookGeneration i g s = putSlot i { vget s.slots i with
      gen := g, opn := (vget s.fst.banks j.bankNo).opn, startDue := true } s := by
  simp only [tookGeneration, hj]

/-- The first burst of a sweep is requested unless a merge of a cell of its area has not ended (R11). -/
theorem sweepKick_of {s : State} {w : Sweep} (hw : s.atb.sweep = some w) (h0 : w.requested = 0) : sweepKick s =
    if mergeInArea s (vget s.atb.areas w.area) = false then
      setSweep (some { w with requested := 1 }) (requestSweep (vget s.atb.areas w.area) 0 s)
    else s := by
  simp only [sweepKick, hw, h0, true_and]

/-- A PLATE slot's STARTING up to its checks: the slot STARTING and the area its own. -/
def startingOwned (i : Fin 4) (j : JobRecord) (s : State) : State :=
  putArea j.areaNo { vget s.atb.areas j.areaNo with owner := some i } (putSlot i { vget s.slots i with state := .starting } s)

theorem frame_startingOwned {i : Fin 4} {j : JobRecord} {s : State} : Frame [.slots, .atb] s (startingOwned i j s) :=
  frame_putSlot.trans frame_putArea

theorem vget_startingOwned (i : Fin 4) (j : JobRecord) (s : State) :
    vget (startingOwned i j s).slots i = { vget s.slots i with state := .starting } := vget_vput_self ..

/-- A failure of the job that has just entered STARTING (R62). -/
theorem failDue_startingOwned {s : State} {i : Fin 4} {j : JobRecord} (r : EndReason) (hj : (vget s.slots i).job = some j)
    (hnone : (vget s.slots i).endDue = none) :
    (failDue i r (startingOwned i j s)).slots = vput s.slots i { vget s.slots i with
      state := .starting, startDue := false, endDue := some (JobEnd.without .failed r j) } ∧
    (failDue i r (startingOwned i j s)).atb =
      { s.atb with areas := vput s.atb.areas j.areaNo { vget s.atb.areas j.areaNo with owner := some i } } ∧
    Frame [.slots, .atb] s (failDue i r (startingOwned i j s)) := by
  have hx := vget_startingOwned i j s
  rw [failDue_of (s := startingOwned i j s) r (by rw [hx]; exact hj) (by rw [hx]; exact hnone)]
  refine ⟨?_, rfl, frame_startingOwned.seq frame_putSlot⟩
  rw [hx]
  exact vput_vput ..

/-- Settles O30: the checks of R62 in order, and then R10's step on the area. -/
theorem startingChecksInOrder : Obligations.StartingChecksInOrder := by
  intro s i j hj hnone x a b t sized grid
  have hsize : ¬ (a.state = .undefined ∨ a.size < 8 * j.pixels) ↔ sized := by
    rw [not_or, Nat.not_lt]
    exact Iff.rfl
  have hgrid : ¬ (b.tw ≠ tilesOf j.w ∨ b.th ≠ tilesOf j.h) ↔ grid := by
    rw [not_or, Classical.not_not, Classical.not_not]
    exact Iff.rfl
  have hplate : j.kind = .plate → t = if a.state = .undefined ∨ a.size < 8 * j.pixels then failDue i .areaSize (startingOwned i j s)
      else if b.tw ≠ tilesOf j.w ∨ b.th ≠ tilesOf j.h then failDue i .flatMismatch (startingOwned i j s)
      else generationStep i j.areaNo (startingOwned i j s) := fun hk => enterStarting_plate hj hk
  have hx := vget_startingOwned i j s
  have harea : vget (startingOwned i j s).atb.areas j.areaNo = { a with owner := some i } := vget_vput_self ..
  have hstep : j.kind = .plate → sized → grid → t = generationStep i j.areaNo (startingOwned i j s) := fun hk h1 h2 =>
    (hplate hk).trans ((if_neg (hsize.2 h1)).trans (if_neg (hgrid.2 h2)))
  refine ⟨fun hk h1 => ?_, fun hk h1 h2 => ?_, fun hk h1 h2 h3 h4 => ?ready, fun hk h1 h2 h3 => ?sweep, fun hk => ?flat⟩
  · rw [show t = _ from (hplate hk).trans (if_pos (Classical.not_not.1 (mt hsize.1 h1)))]
    exact failDue_startingOwned .areaSize hj hnone
  · rw [show t = _ from (hplate hk).trans ((if_neg (hsize.2 h1)).trans (if_pos (Classical.not_not.1 (mt hgrid.1 h2))))]
    exact failDue_startingOwned .flatMismatch hj hnone
  case ready =>
    have hgen : t = putSlot i { vget (startingOwned i j s).slots i with gen := a.gen + 1, opn := b.opn, startDue := true }
        (putArea j.areaNo { a with owner := some i, gen := a.gen + 1 } (startingOwned i j s)) := by
      rw [hstep hk h1 h2, generationStep, harea]
      refine (if_pos ⟨h3, h4⟩).trans (tookGeneration_of (s := putArea j.areaNo _ (startingOwned i j s)) _ ?_)
      change (vget (startingOwned i j s).slots i).job = some j
      rw [hx]; exact hj
    rw [hgen, hx]
    exact ⟨vput_vput .., congrArg (fun v => ({ s.atb with areas := v } : Atb)) (vput_vput ..),
      (frame_startingOwned.trans (frame_putArea.trans frame_putSlot)).wide⟩
  case sweep =>
    have hkick : t = sweepKick (setSweep (some { slot := i, area := j.areaNo, requested := 0 }) (startingOwned i j s)) := by
      rw [hstep hk h1 h2, generationStep, harea]
      exact if_neg h3
    rw [sweepKick_of rfl rfl] at hkick
    have hmerge : mergeInArea (setSweep (some { slot := i, area := j.areaNo, requested := 0 }) (startingOwned i j s))
        (vget (startingOwned i j s).atb.areas j.areaNo) = true ↔
        ∃ c ∈ s.mge.port, c.isMerge = true ∧ c.addr < a.base + a.size ∧ a.base < c.addr + c.len := by
      rw [mergeInArea_iff, harea]
      exact Iff.rfl
    have hframe : Frame [.slots, .atb] s (setSweep (some { slot := i, area := j.areaNo, requested := 0 }) (startingOwned i j s)) :=
      frame_startingOwned.seq frame_setSweep
    by_cases hin : mergeInArea (setSweep (some { slot := i, area := j.areaNo, requested := 0 }) (startingOwned i j s))
        (vget (startingOwned i j s).atb.areas j.areaNo) = true
    · have ht : t = setSweep (some { slot := i, area := j.areaNo, requested := 0 }) (startingOwned i j s) :=
        hkick.trans (if_neg fun hout => Bool.false_ne_true (hout.symm.trans hin))
      rw [ht]
      exact ⟨rfl, rfl, fun _ => ⟨rfl, rfl⟩, fun hno => absurd (hmerge.1 hin) hno, hframe.wide⟩
    · have ht : t = setSweep (some { slot := i, area := j.areaNo, requested := 1 })
          (requestSweep (vget (startingOwned i j s).atb.areas j.areaNo) 0
            (setSweep (some { slot := i, area := j.areaNo, requested := 0 }) (startingOwned i j s))) :=
        hkick.trans (if_pos (Bool.eq_false_iff.2 hin))
      rw [ht, harea]
      exact ⟨rfl, rfl, fun hyes => absurd (hmerge.2 hyes) hin, fun _ => ⟨rfl, rfl⟩,
        ((hframe.trans frame_requestSweep).trans frame_setSweep).wide⟩
  case flat =>
    have ht : t = flatStarting i j (putSlot i { vget s.slots i with state := .starting } s) := enterStarting_flat hj hk
    have hslot : vget (putSlot i { vget s.slots i with state := .starting } s).slots i = { vget s.slots i with state := .starting } :=
      vget_vput_self ..
    rw [ht]
    refine ⟨?_, rfl, rfl, ((frame_putSlot.trans frame_flatStarting).wide)⟩
    change vput (vput s.slots i { vget s.slots i with state := .starting }) i
      { vget (putSlot i { vget s.slots i with state := .starting } s).slots i with gen := 0, startDue := true } = _
    rw [hslot]
    exact vput_vput ..

/-! ### The ACTIVE transition (R31, R64) -/

theorem free_pos_iff (s : State) : 1 ≤ s.free ↔ s.rpu.queue.length ≤ 7 := by
  rw [State.free]
  change 1 ≤ 8 - _ ↔ _
  omega

/-- Settles O31: the transition is taken where an entry is free, and its report enters the queue then. -/
theorem jobStartedBecomesActive : Obligations.JobStartedBecomesActive := by
  intro s i j hb hj hstate hdue hnone
  refine ⟨fun hfull => ?_, fun hroom => ?_⟩
  · change execJobStarted s = _
    simp only [execJobStarted, hb, hj]
    refine if_neg ?_
    rintro ⟨-, -, -, hfree⟩
    have := (free_pos_iff s).1 hfree
    omega
  · have hfree := (free_pos_iff s).2 hroom
    have hrun : exec .jobStarted s = .next (putSeq { Seq.idle with
          depth := (match j.dmode with | .fixed => some j.depth | .ladder => none), wait := Timer.startAt s.time j.expWaitMs }
        (putSlot i { vget s.slots i with state := .active, startDue := false }
          (s.setRpu { s.rpu with queue := s.rpu.queue ++ [⟨i.1, s.time, j.tag, .jobStarted (vget s.slots i).gen
            (match j.dmode with | .fixed => j.depth | .ladder => 0)⟩] }))) := by
      change execJobStarted s = _
      simp only [execJobStarted, hb, hj]
      rw [if_pos ⟨hstate, hdue, hnone, hfree⟩, pushReport_of_free hfree]
      rfl
    exact ⟨_, hrun, rfl, rfl, rfl, ((frame_setRpu.trans frame_putSlot).trans frame_putSeq).wide⟩

/-! ### The end of a job (R65) -/

/-- A job's end before the start decision it makes: the report, the slot in its outcome's state, and of a job that had left
PENDING the sequencer idle and its bank as its outcome says. -/
def endedState (i : Fin 4) (j : JobRecord) (e : JobEnd) (s : State) : State :=
  if (vget s.slots i).state.busy then
    bankAtEnd j e.outcome (putSeq Seq.idle (putSlot i ((vget s.slots i).endedAs e) (pushEnded i j e s)))
  else putSlot i ((vget s.slots i).endedAs e) (pushEnded i j e s)

theorem endJob_eq {s : State} {i : Fin 4} {j : JobRecord} (e : JobEnd) (hj : (vget s.slots i).job = some j) :
    endJob i e s = startDecision (endedState i j e s) := by
  simp only [endJob, hj]
  rfl

theorem frame_endedState {i : Fin 4} {j : JobRecord} {e : JobEnd} {s : State} :
    Frame [.slots, .rpu, .mge, .fst] s (endedState i j e s) :=
  Frame.ite (fun _ => (((frame_pushEnded.trans frame_putSlot).trans frame_putSeq).trans frame_bankAtEnd).wide)
    (fun _ => (frame_pushEnded.trans frame_putSlot).wide)

theorem endedState_slots (i : Fin 4) (j : JobRecord) (e : JobEnd) (s : State) :
    (endedState i j e s).slots = vput s.slots i ((vget s.slots i).endedAs e) := by
  have h : (putSlot i ((vget s.slots i).endedAs e) (pushEnded i j e s)).slots = vput s.slots i ((vget s.slots i).endedAs e) := by
    change vput (pushEnded i j e s).slots i _ = _
    rw [frame_pushEnded.slots]
  unfold endedState
  split
  · rw [frame_bankAtEnd.slots]
    exact h
  · exact h

/-- The JOB_ENDED report of an end (R65, R187). -/
def endedReport (i : Fin 4) (j : JobRecord) (e : JobEnd) (now : Time) : Report :=
  ⟨i.1, now, j.tag, .jobEnded e.outcome e.reason e.kept j.kind e.dlo e.dhi e.counts⟩

theorem endedState_rpu {i : Fin 4} {j : JobRecord} {e : JobEnd} {s : State} (h : 1 ≤ s.free) :
    (endedState i j e s).rpu = { s.rpu with queue := s.rpu.queue ++ [endedReport i j e s.time] } := by
  have hpush : (pushEnded i j e s).rpu = { s.rpu with queue := s.rpu.queue ++ [endedReport i j e s.time] } := by
    rw [pushEnded, pushReport_of_free h]
    rfl
  unfold endedState
  split
  · rw [frame_bankAtEnd.rpu]
    exact hpush
  · exact hpush

theorem endedState_mge_busy {i : Fin 4} {j : JobRecord} {e : JobEnd} {s : State} (h : (vget s.slots i).state.busy = true) :
    (endedState i j e s).mge = { s.mge with seq := Seq.idle } := by
  rw [endedState, if_pos h, frame_bankAtEnd.mge]
  change { (pushEnded i j e s).mge with seq := Seq.idle } = _
  rw [frame_pushEnded.mge]

theorem endedState_of_idle {i : Fin 4} {j : JobRecord} {e : JobEnd} {s : State} (h : (vget s.slots i).state.busy = false) :
    endedState i j e s = putSlot i ((vget s.slots i).endedAs e) (pushEnded i j e s) := if_neg (by rw [h]; nofun)

theorem endedState_plate {i : Fin 4} {j : JobRecord} {e : JobEnd} {s : State} (h : j.kind = .plate) :
    (endedState i j e s).fst = s.fst := by
  have hpush : (pushEnded i j e s).fst = s.fst := frame_pushEnded.fst
  unfold endedState bankAtEnd
  simp only [h]
  split
  · exact hpush
  · exact hpush

/-- The bank of a FLAT job that had left PENDING: VALID after DONE, INVALID otherwise (R65, R85, R86). -/
theorem endedState_flat {i : Fin 4} {j : JobRecord} {e : JobEnd} {s : State} (hk : j.kind = .flat)
    (hb : (vget s.slots i).state.busy = true) : (endedState i j e s).fst =
      { s.fst with banks := vput s.fst.banks j.bankNo (if e.outcome = .done then { vget s.fst.banks j.bankNo with state := .valid } else Bank.invalid) } := by
  have hpush : (pushEnded i j e s).fst = s.fst := frame_pushEnded.fst
  rw [endedState, if_pos hb, ← hpush]
  unfold bankAtEnd
  simp only [hk]
  cases he : e.outcome <;> rfl

/-! ### HOLD entry's monitors (R134, R145) -/

theorem monitorsHold_lamp (s : State) : (monitorsHold s).lamp = Lamp.off s.lamp.cfg := by
  unfold monitorsHold
  dsimp only
  split <;> split <;> rfl

theorem monitorsHold_pdt (s : State) : (monitorsHold s).pdt = Pdt.off := rfl

theorem monitorsHold_cec (s : State) : (monitorsHold s).cec = { s.cec with armed := false } := by
  unfold monitorsHold
  dsimp only
  split <;> split <;> rfl

theorem monitorsHold_rpu (s : State) : (monitorsHold s).rpu = { s.rpu with
    fLamp := s.rpu.fLamp || decide (s.lamp.state ≠ .offline),
    fPresence := s.rpu.fPresence || decide (s.pdt.presence ≠ .unknown) } := by
  unfold monitorsHold
  by_cases hl : s.lamp.state = .offline
  · by_cases hp : s.pdt.presence = .unknown
    · simp [hl, hp]
    · simp [hl, hp, setFlag, Rpu.putFlag]
  · by_cases hp : s.pdt.presence = .unknown
    · simp [hl, hp, setFlag, Rpu.putFlag]
    · simp [hl, hp, setFlag, Rpu.putFlag]

/-- HOLD entry with no job active: the monitors go off, and the device into HOLD (R134, R145). -/
theorem holdEntry_of_idle {s : State} (h : busySlot s = none) : holdEntry s = (monitorsHold s).setDevice .hold := by
  rw [holdEntry, jobsHold, h]

theorem holdAfterEnd_of_not {s : State} (h : holdRunning s = false) : holdAfterEnd s = s := by
  unfold holdRunning at h
  unfold holdAfterEnd
  split
  · rename_i n hl
    rw [hl] at h
    cases h
  · rfl

theorem holdAfterEnd_of_hold {s : State} {n : Fin 8} (hl : s.cin.long = some (.hold n)) (hb : busySlot s = none) :
    holdAfterEnd s = finishHold n s := by
  rw [holdAfterEnd, hl]
  exact if_pos (by rw [hb]; rfl)

theorem execJobEnded_of {s : State} {i : Fin 4} {e : JobEnd} (hb : busySlot s = some i) (he : (vget s.slots i).endDue = some e) :
    exec .jobEnded s = if 1 ≤ s.free then .next (holdAfterEnd (endJob i e s)) else .next s := by
  change execJobEnded s = _
  simp only [execJobEnded, hb, he]

/-- HOLD entry with no job active, and the command's completion (R72, R134, R145, R172). -/
theorem finishHold_of_idle {s u : State} (n : Fin 8) (hb : busySlot u = none) (hcin : u.cin = s.cin)
    (hw : u.wmu = s.wmu) (hmpa : u.mpa = s.mpa) :
    (finishHold n u).device = .hold ∧ (finishHold n u).lamp = Lamp.off u.lamp.cfg ∧ (finishHold n u).pdt = Pdt.off ∧
    (finishHold n u).cec = { u.cec with armed := false } ∧
    (finishHold n u).rpu = { u.rpu with fLamp := u.rpu.fLamp || decide (u.lamp.state ≠ .offline),
                                        fPresence := u.rpu.fPresence || decide (u.pdt.presence ≠ .unknown) } ∧
    DoneFollows n .ok s (finishHold n u) ∧ NotesAdded s.mpa (finishHold n u).mpa ∧
    Frame [.device, .lamp, .pdt, .cec, .rpu, .cin, .mpa, .serial] u (finishHold n u) := by
  have hframe : Frame [.rpu, .lamp, .pdt, .cec, .device] u (holdEntry u) := by
    rw [holdEntry_of_idle hb]
    exact frame_monitorsHold.trans frame_setDevice
  have hnotes := complete_notesAdded n .ok (setLong none (holdEntry u))
  rw [show (setLong none (holdEntry u)).mpa = s.mpa from hframe.mpa.trans hmpa] at hnotes
  have hthrough : Frame [.cin, .serial, .mpa] (holdEntry u) (finishHold n u) := frame_setLong.seq frame_complete
  refine ⟨hthrough.device.trans rfl, ?_, ?_, ?_, ?_, doneFollows_ended n .ok (hframe.cin.trans hcin) ?_, hnotes, (hframe.trans hthrough).wide⟩
  · rw [hthrough.lamp, holdEntry_of_idle hb]
    exact monitorsHold_lamp u
  · rw [hthrough.pdt, holdEntry_of_idle hb]
    exact monitorsHold_pdt u
  · rw [hthrough.cec, holdEntry_of_idle hb]
    exact monitorsHold_cec u
  · rw [hthrough.rpu, holdEntry_of_idle hb]
    exact monitorsHold_rpu u
  · rw [hframe.wmu, hw]

/-- Settles O32: a due end is taken where an entry is free; a HOLD that waited for it makes its entry, the part idle. -/
theorem jobEndedRecordsOutcome : Obligations.JobEndedRecordsOutcome := by
  refine ⟨fun c => ⟨rfl, rfl, rfl, rfl, rfl, rfl⟩, ⟨rfl, rfl, fun i => vget_replicate ..⟩, fun o r j => rfl, rfl, fun s i j e hb hj he => ?_⟩
  have hbusy := busySlot_busy hb
  have hrun := execJobEnded_of hb he
  refine ⟨fun hfull => ?_, fun hroom => ?_⟩
  · rw [hrun, if_neg]
    rw [free_pos_iff]
    omega
  · have hfree := (free_pos_iff s).2 hroom
    rw [if_pos hfree, endJob_eq e hj] at hrun
    have hframe : Frame [.slots, .rpu, .mge, .fst] s (endedState i j e s) := frame_endedState
    have hstate : e.outcome.slotState = match e.outcome with | .done => .done | .failed => .failed | .aborted => .aborted := by
      cases e.outcome <;> rfl
    refine ⟨endedState i j e s, ?_, endedState_rpu hfree, endedState_mge_busy hbusy, endedState_plate, fun hk => ?_, hframe,
      fun hnot => ?_, fun n hl halone => ?_⟩
    · rw [endedState_slots, JobSlot.endedAs, hstate] <;> rfl
    · exact endedState_flat hk hbusy
    · have hcin : (startDecision (endedState i j e s)).cin = s.cin := frame_startDecision.cin.trans hframe.cin
      rw [hrun, holdAfterEnd_of_not (by rw [holdRunning, hcin]; exact hnot)]
    · have hlong : (endedState i j e s).cin.long = some (.hold n) := by rw [hframe.cin]; exact hl
      have hidle : busySlot (endedState i j e s) = none := by
        refine busySlot_none_iff.2 fun k => ?_
        rw [endedState_slots]
        by_cases hk : k = i
        · rw [hk, vget_vput_self]
          exact endedAs_not_busy ..
        · rw [vget_vput_ne _ _ _ _ hk]
          exact halone k hk
      rw [startDecision_of_holdRunning _ (by rw [holdRunning, hlong]), holdAfterEnd_of_hold hlong hidle] at hrun
      obtain ⟨hdevice, hlamp, hpdt, hcec, hrpu, hdone, hnotes, hrest⟩ := finishHold_of_idle (s := s) n hidle hframe.cin hframe.wmu hframe.mpa
      rw [hframe.lamp] at hlamp
      rw [hframe.cec] at hcec
      rw [hframe.lamp, hframe.pdt] at hrpu
      refine ⟨_, hrun, hdevice, hlamp, hpdt, hcec, hrest.slots, hrest.fst, hrest.mge, ?_, hdone, hnotes, hrest⟩
      rw [hrpu, endedState_rpu hfree]

/-! ### The sweep's answers (R10 to R12) -/

theorem stopSweep_of {s : State} {w : Sweep} (h : s.atb.sweep = some w) : stopSweep s =
    setSweep none (stopIssuer isSweep (putArea w.area (vget s.atb.areas w.area).unswept s)) := by
  rw [stopSweep, h]

/-- Settles O33: an error, the last answer and any other are the three branches of the row. -/
theorem sweepEndsInGeneration : Obligations.SweepEndsInGeneration := by
  intro s txn r w j hg hw hj hnone a x m
  have hrun : exec (.sweepBurstResponse txn r) s =
      if respErr r then .next (failDue w.slot .areaFault (stopSweep (setLatch .memerrSeen (answered txn s))))
      else if a.size ≤ sweepBurst * w.requested ∧ (answered txn s).mpa.has isSweep = false then
        .next (tookGeneration w.slot 1 (putArea w.area { a with state := .ready, gen := 1 } (setSweep none (answered txn s))))
      else .next (answered txn s) := by
    change execSweepBurstResponse txn r s = _
    simp only [execSweepBurstResponse, hg, hw]
    rfl
  have hsweep : isSweep = fun q => decide (q.kind = .sweep) := isSweep_eq
  refine ⟨fun herr => ?_, fun herr hlast hnoneLeft => ?_, fun herr hmore => ?_⟩
  · rw [if_pos herr, stopSweep_of (s := setLatch .memerrSeen (answered txn s)) hw] at hrun
    rw [failDue_of (s := setSweep none (stopIssuer isSweep (putArea w.area _ (setLatch .memerrSeen (answered txn s))))) .areaFault hj hnone] at hrun
    refine ⟨_, hrun, rfl, rfl, rfl, by rw [← hsweep]; rfl, ?_⟩
    exact ((((frame_answered.trans frame_setLatch).trans frame_putArea).trans frame_setMpa).trans (frame_setSweep.trans frame_putSlot)).wide
  · rw [if_neg (by rw [herr]; nofun), if_pos ⟨hlast, by rw [hsweep]; exact hnoneLeft⟩,
      tookGeneration_of (s := putArea w.area _ (setSweep none (answered txn s))) 1 hj] at hrun
    exact ⟨_, hrun, rfl, rfl, rfl, ((frame_answered.trans frame_setSweep).trans (frame_putArea.trans frame_putSlot)).wide⟩
  · rw [if_neg (by rw [herr]; nofun), if_neg] at hrun
    · exact hrun
    · rintro ⟨hlast, hout⟩
      rcases hmore with hleft | hhas
      · exact absurd hleft (Nat.not_lt.2 hlast)
      · have hout : m.has isSweep = false := hout
        rw [hout] at hhas
        cases hhas

/-! ### Absorbed responses (R158, R163) -/

/-- The writes with one of them replaced. -/
theorem putSWrite_eq (no : Nat) (x : SWrite) (s : State) : putSWrite no x s =
    s.setWmu { s.wmu with writes := s.wmu.writes.map fun v => if v.no = no then x else v } := by
  simp only [putSWrite, beq_iff_eq]

theorem mem_putSWrite {no : Nat} {x v : SWrite} {ws : List SWrite}
    (hv : v ∈ ws.map fun v => if v.no = no then x else v) (hno : v.no = no) : v = x := by
  obtain ⟨y, -, rfl⟩ := List.mem_map.1 hv
  by_cases hy : y.no = no
  · exact if_pos hy
  · rw [if_neg hy] at hno
    exact absurd hno hy

/-- Settles O34: a stopped issuer's answer only latches, and a teed copy's also marks its write answered at memory. -/
theorem absorbedResponsesOnlyLatch : Obligations.AbsorbedResponsesOnlyLatch := by
  intro s txn m
  refine ⟨fun x l hg => ?stopped, fun r no w hg hw hfull hpassed => ?teed⟩
  case stopped =>
    change execStoppedIssuerResponse txn x s = _
    rw [execStoppedIssuerResponse, hg]
    dsimp only
    rw [memErr_eq]
    rfl
  case teed =>
    intro u
    have hrun : exec (.teedCopyResponse txn r) s = .next (releaseWrites u) := by
      change execTeedCopyResponse txn r s = _
      have hu : putSWrite no { w with mDone := some r } (memErr (respErr r) (answered txn s)) = u := by
        rw [memErr_eq, putSWrite_eq]
        rfl
      rw [execTeedCopyResponse, hg]
      dsimp only
      rw [hw]
      refine (if_pos ⟨hfull, hpassed⟩).trans ?_
      rw [hu]
    obtain ⟨houts, hstand⟩ := releaseWriteList_spec [] u.wmu.writes
    have hmarked : ∀ v ∈ u.wmu.writes, v.no = no → v = { w with mDone := some r } := fun v hv =>
      mem_putSWrite hv
    have hafter : ∀ v ∈ (releaseWriteList [] u.wmu.writes).1, v.no = no →
        v = { w with mDone := some r } ∨ v = { w with mDone := some r, sent := true } := by
      intro v hv hno
      obtain ⟨y, hy, rfl | rfl⟩ := hstand v hv
      · exact .inl (hmarked v hy hno)
      · exact .inr (by rw [hmarked y hy hno])
    refine ⟨hrun, fun hsent v hv hno => ?_, fun v hv hno => ?_, (releaseWriteList [] u.wmu.writes).2, rfl, fun id e he => ?_⟩
    · obtain ⟨hv, hover⟩ := List.mem_filter.1 hv
      rcases hafter v hv hno with rfl | rfl
      · simp [SWrite.isOver, hsent] at hover
      · simp [SWrite.isOver] at hover
    · obtain ⟨hv, -⟩ := List.mem_filter.1 hv
      rcases hafter v hv hno with rfl | rfl
      · rfl
      · rfl
    · obtain ⟨y, hy, hno, hanswer⟩ := houts id no e he
      rwa [hmarked y hy hno] at hanswer

end Sys2Proof.Machine
end

section
/-! SUPPORT. Job records and LOAD_JOB (R54 to R57). -/
namespace Sys2Proof.Machine
set_option Elab.async false

/-! ### Records (R54, Table 11-7) -/

theorem JobKind.ofCode_iff (v : Nat) (k : JobKind) : JobKind.ofCode v = some k ↔ (v = 1 ∧ k = .plate) ∨ (v = 2 ∧ k = .flat) := by
  unfold JobKind.ofCode
  cases k <;> split <;> simp_all

theorem DepthMode.ofCode_iff (v : Nat) (k : DepthMode) :
    DepthMode.ofCode v = some k ↔ (v = 0 ∧ k = .fixed) ∨ (v = 1 ∧ k = .ladder) := by
  unfold DepthMode.ofCode
  cases k <;> split <;> simp_all

theorem RenderMode.ofCode_iff (v : Nat) (k : RenderMode) :
    RenderMode.ofCode v = some k ↔ (v = 0 ∧ k = .positive) ∨ (v = 1 ∧ k = .linear) := by
  unfold RenderMode.ofCode
  cases k <;> split <;> simp_all

theorem RangeMode.ofCode_iff (v : Nat) (k : RangeMode) :
    RangeMode.ofCode v = some k ↔ (v = 0 ∧ k = .fixed) ∨ (v = 1 ∧ k = .auto) := by
  unfold RangeMode.ofCode
  cases k <;> split <;> simp_all

theorem vget_ofFn {α : Type} {n : Nat} (f : Fin n → α) (i : Fin n) : vget (Vector.ofFn f) i = f i := by
  simp [vget]

theorem eq_ofFn {α : Type} {n : Nat} {v : Vector α n} {f : Fin n → α} (h : ∀ i, vget v i = f i) : v = Vector.ofFn f := by
  apply Vector.ext
  intro i hi
  rw [Vector.getElem_ofFn]
  exact h ⟨i, hi⟩

/-- A record read is the record laid in the bytes. -/
theorem JobRecord.read_iff (bs : List Byte) (j : JobRecord) : JobRecord.read bs = some j ↔ j.LaidIn bs := by
  unfold JobRecord.read
  constructor
  · intro h
    split at h
    · rename_i kind dmode render range hk hd hr hg
      obtain rfl := Option.some.inj h
      exact ⟨(JobKind.ofCode_iff ..).1 hk, (DepthMode.ofCode_iff ..).1 hd, (RenderMode.ofCode_iff ..).1 hr, (RangeMode.ofCode_iff ..).1 hg,
        rfl, rfl, rfl, rfl, rfl, rfl, rfl, rfl, rfl, rfl, rfl, rfl, rfl, rfl, rfl, rfl, rfl, rfl, vget_ofFn _, vget_ofFn _⟩
    · cases h
  · rintro ⟨hk, hd, hr, hg, htag, hprio, harea, hbank, hrows, hw, hh, hdepth, hspread, hretake, htee, htile, hexp, hgap, hdlo, hdhi, hplo,
      hphi, he, hwt⟩
    rw [(JobKind.ofCode_iff ..).2 hk, (DepthMode.ofCode_iff ..).2 hd, (RenderMode.ofCode_iff ..).2 hr, (RangeMode.ofCode_iff ..).2 hg,
      ← htag, ← hprio, ← harea, ← hbank, ← hrows, ← hw, ← hh, ← hdepth, ← hspread, ← hretake, ← htee, ← htile, ← hexp, ← hgap, ← hdlo,
      ← hdhi, ← hplo, ← hphi, ← eq_ofFn he, ← eq_ofFn hwt]

theorem vector_all_iff {n : Nat} (v : Vector Nat n) (p : Nat → Bool) : v.toList.all p = true ↔ ∀ i, p (vget v i) = true := by
  rw [List.all_eq_true]
  refine ⟨fun h i => h _ (by simp [vget]), fun h x hx => ?_⟩
  obtain ⟨i, hi, rfl⟩ := List.mem_iff_getElem.1 hx
  exact h ⟨i, by simpa using hi⟩

/-- The ranges of R54. -/
theorem JobRecord.inRange_iff (j : JobRecord) : j.inRange = true ↔
    (j.kind = .plate → j.area ≤ 3) ∧ j.bank ≤ 1 ∧ (64 ≤ j.w ∧ j.w ≤ 12288 ∧ j.w % 8 = 0) ∧ (64 ≤ j.h ∧ j.h ≤ 9216) ∧
    (2 ≤ j.r ∧ j.r ≤ 16) ∧ (j.kind = .flat → j.dmode = .fixed) ∧ (j.dmode = .fixed → 1 ≤ j.depth ∧ j.depth ≤ 8) ∧
    (∀ i : Fin 8, 1 ≤ vget j.e i ∧ vget j.e i ≤ 1024) ∧ (∀ i : Fin 8, 1 ≤ vget j.wt i ∧ vget j.wt i ≤ 15) ∧
    j.spread ≤ 15 ∧ j.tileRejLim ≤ 4095 ∧ j.retakeLim ≤ 7 ∧ j.tee ≤ 1 ∧
    (j.dlo ≤ 16383 ∧ j.dhi ≤ 16383 ∧ j.dlo < j.dhi) ∧ j.plo ≤ 500 ∧ (9500 ≤ j.phi ∧ j.phi ≤ 10000) := by
  have harea : (j.kind = .flat ∨ j.area ≤ 3) ↔ (j.kind = .plate → j.area ≤ 3) := by cases j.kind <;> simp
  have hmode : (j.kind = .plate ∨ j.dmode = .fixed) ↔ (j.kind = .flat → j.dmode = .fixed) := by cases j.kind <;> simp
  have hdepth : (j.dmode = .ladder ∨ (1 ≤ j.depth ∧ j.depth ≤ 8)) ↔ (j.dmode = .fixed → 1 ≤ j.depth ∧ j.depth ≤ 8) := by
    cases j.dmode <;> simp
  simp only [JobRecord.inRange, Bool.and_eq_true, Bool.or_eq_true, beq_iff_eq, decide_eq_true_eq, vector_all_iff, harea, hmode, hdepth,
    and_assoc]

theorem JobRecord.ofBytes_iff (bs : List Byte) (j : JobRecord) :
    JobRecord.ofBytes bs = some j ↔ JobRecord.read bs = some j ∧ j.inRange = true := by
  unfold JobRecord.ofBytes
  cases JobRecord.read bs with
  | none => simp
  | some k =>
    dsimp only
    split
    · simp_all
      rintro rfl
      assumption
    · simp_all
      rintro rfl
      assumption

/-! ### LOAD_JOB (R56, R57) -/

/-- The checks of LOAD_JOB in the order of R56. -/
theorem checkLoad_eq (t : Taken) (s : State) : checkLoad t s =
    if t.arg 12 1 ≤ 3 then
      if t.arg 16 8 % 128 = 0 then
        if t.arg 16 8 + 128 ≤ 2 ^ 40 then
          if (match toFin? 4 (t.arg 12 1) with | some i => (vget s.slots i).state == .empty | none => false) = true then .ok else .busy
        else .range
      else .align
    else .range := by
  have hslot : (toFin? 4 (t.arg 12 1)).isSome = true ↔ t.arg 12 1 ≤ 3 := by
    unfold toFin?
    split <;> simp <;> omega
  simp only [checkLoad, checks_cons, checks_nil, hslot, decide_eq_true_eq]
  rfl

/-- LOAD_JOB accepted: the slot FETCHING, its record's read requested, and the next take judged (R56, R168). -/
def loadAccepted (n : Fin 8) (i : Fin 4) (addr : Nat) (s : State) : State :=
  takeEvent (requestM .jobFetch .bulk false addr 128 []
    (setLong (some (.loadJob n i)) (putSlot i { JobSlot.empty with state := .fetching } s)))

theorem frame_loadAccepted {n : Fin 8} {i : Fin 4} {addr : Nat} {s : State} :
    Frame [.slots, .cin, .serial, .mpa] s (loadAccepted n i addr s) :=
  (((frame_putSlot.trans frame_setLong).trans frame_requestM).trans frame_takeEvent).wide

theorem loadAccepted_taken {n : Fin 8} {s : State} (i : Fin 4) (addr : Nat) : TakenNow n s (loadAccepted n i addr (openSlot n s)) ∧
    OnlyRequests s (loadAccepted n i addr (openSlot n s)) := by
  obtain ⟨htaken, hopen, -⟩ := openSlot_taken n s
  have hreq := onlyRequests_requestM .jobFetch .bulk false addr 128 []
    (setLong (some (.loadJob n i)) (putSlot i { JobSlot.empty with state := .fetching } (openSlot n s)))
  have hmpa : (loadAccepted n i addr (openSlot n s)).mpa = (requestM .jobFetch .bulk false addr 128 []
      (setLong (some (.loadJob n i)) (putSlot i { JobSlot.empty with state := .fetching } (openSlot n s)))).mpa := rfl
  have hmore : OnlyRequests (openSlot n s) (loadAccepted n i addr (openSlot n s)) := by
    rw [OnlyRequests, hmpa]
    exact hreq
  exact ⟨htaken.keep_slots rfl rfl rfl fun _ hx => hmore.note hx, hopen.trans hmore⟩

theorem runLoadJob_eq (t : Taken) (s : State) : runLoadJob t s =
    if checkLoad t s = .ok then loadAccepted t.slot ((toFin? 4 (t.arg 12 1)).getD 0) (t.arg 16 8) s
    else complete t.slot (checkLoad t s) s := rfl

/-- The record's answer has been taken: the LOAD_JOB leaves execution (R57, R163). -/
def recordAnswered (e : Bool) (txn : Nat) (s : State) : State := setLong none (memErr e (answered txn s))

theorem frame_recordAnswered {e : Bool} {txn : Nat} {s : State} : Frame [.mpa, .rpu, .cin] s (recordAnswered e txn s) :=
  (frame_answered.trans frame_memErr).trans frame_setLong

/-- The command completes with what has become of its slot (R57). -/
theorem recordAnswered_done {e : Bool} {txn : Nat} {s : State} (n : Fin 8) (r : Result) (i : Fin 4) (x : JobSlot) :
    let t := complete n r (putSlot i x (recordAnswered e txn s))
    t.slots = vput s.slots i x ∧ DoneFollows n r s t ∧ t.rpu = { s.rpu with memerrSeen := s.rpu.memerrSeen || e } ∧
    t.mpa = { s.mpa with granted := s.mpa.granted.filter (fun q => q.id != txn), note := t.mpa.note } ∧
    Frame [.slots, .cin, .mpa, .rpu, .serial] s t := by
  have hframe : Frame [.mpa, .rpu, .cin] s (recordAnswered e txn s) := frame_recordAnswered
  have hcin : (memErr e (answered txn s)).cin = s.cin := frame_memErr.cin
  have hmpa : (putSlot i x (recordAnswered e txn s)).mpa = { s.mpa with granted := s.mpa.granted.filter (fun q => q.id != txn) } :=
    frame_memErr.mpa
  have hnotes := (complete_notesAdded n r (putSlot i x (recordAnswered e txn s))).note_only
  rw [hmpa] at hnotes
  refine ⟨?_, doneFollows_complete ?_ ?_ rfl, ?_, hnotes, ((hframe.trans frame_putSlot).trans frame_complete).wide⟩
  · rw [frame_complete.slots]
    change vput (recordAnswered e txn s).slots i x = _
    rw [hframe.slots]
  · change (memErr e (answered txn s)).cin.slots = _
    rw [hcin]
  · change (recordAnswered e txn s).wmu.windows = _
    rw [hframe.wmu]
  · rw [frame_complete.rpu]
    exact headerAnswered_rpu e txn s

/-- Settles O26: the take requests the record, and its answer empties the slot or loads it. -/
theorem loadJobFetchesRecord : Obligations.LoadJobFetchesRecord := by
  refine ⟨fun bs j => ?record, fun s n => ⟨fun ht hc => ?taken, fun txn beats i hg hl hlen => ?answered⟩⟩
  case record => rw [JobRecord.ofBytes_iff, JobRecord.read_iff, JobRecord.inRange_iff]
  case taken =>
    intro a addr
    have hrun : exec .loadJob s = .next (runLoadJob (takenOf s n) (openSlot n s)) := congrArg Host.Outcome.next (takeCmd_of ht hc)
    rw [runLoadJob_eq, show checkLoad (takenOf s n) (openSlot n s) = checkLoad (takenOf s n) s from rfl] at hrun
    generalize hr : checkLoad (takenOf s n) s = r at hrun
    have hcheck := checkLoad_eq (takenOf s n) s
    rw [hr] at hcheck
    obtain ⟨hcompletes, hrequests, hframe⟩ := complete_refuses n r s
    obtain ⟨htaken, hasked⟩ := loadAccepted_taken (n := n) (s := s) ((toFin? 4 ((takenOf s n).arg 12 1)).getD 0) addr
    have hfin : ∀ i : Fin 4, i.1 = a 12 1 → toFin? 4 ((takenOf s n).arg 12 1) = some i := fun i hi => by
      rw [show (takenOf s n).arg 12 1 = i.1 from hi.symm, toFin?_val]
    refine ⟨_, r, hrun, ?_, ?_, fun hne => ?_, fun h => ?_, fun h1 h2 => ?_, fun h1 h2 h3 => ?_, fun i hi h2 h3 => ⟨fun h => ?_, fun h => ?_⟩, ?_⟩
    · split
      · exact htaken
      · exact hcompletes.1
    · split
      · exact hasked
      · exact hrequests
    · rw [if_neg hne]
      exact ⟨hcompletes, hframe.slots⟩
    · rw [hcheck, if_neg (Nat.not_le.2 h)]
    · rw [hcheck, if_pos h1, if_neg h2]
    · rw [hcheck, if_pos h1, if_pos h2, if_neg (Nat.not_le.2 h3)]
    · have hle : a 12 1 ≤ 3 := hi ▸ Nat.le_of_lt_succ i.2
      rw [hcheck, if_pos hle, if_pos h2, if_pos h3, hfin i hi]
      exact if_neg (by simpa using h)
    · have hle : a 12 1 ≤ 3 := hi ▸ Nat.le_of_lt_succ i.2
      have hok : r = .ok := by
        rw [hcheck, if_pos hle, if_pos h2, if_pos h3, hfin i hi]
        exact if_pos (by simpa using h)
      rw [if_pos hok, hfin i hi]
      obtain ⟨x, hx, hkind, hwrite, haddr, hlen, -⟩ := requestM_bulk_mem .jobFetch false addr 128 []
        (setLong (some (.loadJob n i)) (putSlot i { JobSlot.empty with state := .fetching } (openSlot n s)))
      exact ⟨hok, rfl, rfl, rfl, takeJudged_takeEvent _, x, hx, hkind, hwrite, haddr, hlen⟩
    · split
      · exact (frame_openSlot.trans frame_loadAccepted).wide
      · exact hframe.wide
  case answered =>
    intro rpu m
    have hrun : exec (.jobRecordResponse txn beats) s =
        if anyErr beats then .next (complete n .fetchError (putSlot i JobSlot.empty (recordAnswered (anyErr beats) txn s)))
        else match JobRecord.ofBytes (respBytes beats) with
          | some j => .next (startDecision (complete n .ok (putSlot i (JobSlot.loaded j) (recordAnswered (anyErr beats) txn s))))
          | none => .next (complete n .range (putSlot i JobSlot.empty (recordAnswered (anyErr beats) txn s))) := by
      change execJobRecordResponse txn beats s = _
      rw [execJobRecordResponse, hg, hl]
      exact if_pos hlen
    have hquiet : ∀ t : State, anyErr beats = false → t.rpu = { s.rpu with memerrSeen := s.rpu.memerrSeen || anyErr beats } →
        Frame [.slots, .cin, .mpa, .rpu, .serial] s t → Frame [.slots, .cin, .mpa, .serial] s t := by
      intro t herr hrpu hframe f hf
      by_cases hfr : f = .rpu
      · rw [hfr]
        change t.rpu = s.rpu
        rw [hrpu, herr, Bool.or_false]
      · exact hframe f (by simpa [hfr] using hf)
    refine ⟨fun herr => ?_, fun herr hnone => ?_, fun j herr hj => ?_⟩
    · rw [if_pos herr] at hrun
      obtain ⟨hslots, hdone, hrpu, hmpa, hframe⟩ := recordAnswered_done (e := anyErr beats) (txn := txn) (s := s) n .fetchError i JobSlot.empty
      exact ⟨_, hrun, hslots, hdone, hrpu, hmpa, hframe⟩
    · rw [if_neg (by rw [herr]; nofun), hnone] at hrun
      obtain ⟨hslots, hdone, hrpu, hmpa, hframe⟩ := recordAnswered_done (e := anyErr beats) (txn := txn) (s := s) n .range i JobSlot.empty
      exact ⟨_, hrun, hslots, hdone, hmpa, hquiet _ herr hrpu hframe⟩
    · rw [if_neg (by rw [herr]; nofun), hj] at hrun
      obtain ⟨hslots, hdone, hrpu, hmpa, hframe⟩ := recordAnswered_done (e := anyErr beats) (txn := txn) (s := s) n .ok i (JobSlot.loaded j)
      exact ⟨_, hrun, hslots, hdone, hmpa, hquiet _ herr hrpu hframe⟩

end Sys2Proof.Machine
end

section
/-! SUPPORT. A job ended from outside: what its state leaves (R13, R30, R68, R99), ABORT_JOB and HOLD (R68, R72, R172). -/
namespace Sys2Proof.Machine
set_option Elab.async false

/-! ### Stopped issuers and added NOTE requests -/

theorem NotesAdded.trans {a b c : Mpa} (h : NotesAdded a b) (k : NotesAdded b c) : NotesAdded a c := by
  obtain ⟨l, rfl⟩ := h
  obtain ⟨l', rfl⟩ := k
  exact ⟨l ++ l', by simp⟩

theorem NotesAdded.mem {a b : Mpa} (h : NotesAdded a b) {x : MTxn} (hx : x ∈ a.note) : x ∈ b.note := by
  obtain ⟨l, rfl⟩ := h
  exact List.mem_append_left _ hx

theorem NotesAdded.issuerStopped {a b : Mpa} (p : MTxn → Bool) (h : NotesAdded a b) :
    NotesAdded (a.issuerStopped p) (b.issuerStopped p) := by
  obtain ⟨l, rfl⟩ := h
  exact ⟨l, rfl⟩

theorem NotesAdded.cell {a b : Mpa} (l : List MTxn) (h : NotesAdded a b) :
    NotesAdded { a with cell := a.cell ++ l } { b with cell := b.cell ++ l } := by
  obtain ⟨k, rfl⟩ := h
  exact ⟨k, rfl⟩

theorem NotesAdded.onlyRequests {s t : State} (h : NotesAdded s.mpa t.mpa) : OnlyRequests s t := by
  obtain ⟨l, h⟩ := h
  exact ⟨l, [], [], [], by simp [h]⟩

theorem openSlot_notesAdded (n : Fin 8) (s : State) : NotesAdded s.mpa (openSlot n s).mpa := ⟨[_], rfl⟩

/-- A sweep's stop is one whatever NOTE requests come before or after it. -/
theorem SweepStopped.around {s s' t' t : State} (h : SweepStopped s' t') (ha : s'.atb = s.atb) (hb : NotesAdded s.mpa s'.mpa)
    (ha' : t.atb = t'.atb) (hb' : NotesAdded t'.mpa t.mpa) : SweepStopped s t := by
  obtain ⟨hsome, hnone⟩ := h
  rw [ha] at hsome hnone
  refine ⟨fun w hw => ?_, fun hw => ?_⟩
  · obtain ⟨hatb, hmpa⟩ := hsome w hw
    exact ⟨ha'.trans hatb, ((hb.issuerStopped _).trans hmpa).trans hb'⟩
  · obtain ⟨hatb, hmpa⟩ := hnone hw
    exact ⟨ha'.trans hatb, (hb.trans hmpa).trans hb'⟩

/-- A scan's stop is one whatever NOTE requests come before or after it. -/
theorem ScanStopped.around {s s' t' t : State} (h : ScanStopped s' t') (ha : s'.mge.port = s.mge.port) (hb : NotesAdded s.mpa s'.mpa)
    (hscan : t.scan = t'.scan) (hport : t.mge.port = t'.mge.port) (hb' : NotesAdded t'.mpa t.mpa) : ScanStopped s t := by
  obtain ⟨hidle, hp, n, hm⟩ := h
  rw [ha] at hp hm
  exact ⟨hscan.trans hidle, hport.trans hp, n, (((hb.issuerStopped _).cell _).trans hm).trans hb'⟩

/-! ### A state that a job leaves -/

theorem leaveState_pending (k : JobKind) (s : State) : leaveState .pending k s = s := rfl
theorem leaveState_starting (k : JobKind) (s : State) : leaveState .starting k s = stopSweep s := rfl
theorem leaveState_active (k : JobKind) (s : State) : leaveState .active k s = dropAttempt s := rfl
theorem leaveState_plate (s : State) : leaveState .finishing .plate s = stopScan s := rfl
theorem leaveState_flat (s : State) : leaveState .finishing .flat s = s.setFst { s.fst with comp := none } := rfl

/-- Leaving a state withdraws no NOTE request. -/
theorem leaveState_note {x : SlotState} {k : JobKind} {s : State} {m : MTxn} (h : m ∈ s.mpa.note) : m ∈ (leaveState x k s).mpa.note := by
  unfold leaveState
  split
  · obtain ⟨hsome, hnone⟩ := stopSweep_spec s
    cases hw : s.atb.sweep with
    | none => exact (hnone hw).2.mem h
    | some w => exact (hsome w hw).2.mem h
  · exact h
  · split
    · obtain ⟨⟨-, -, n, hm⟩, -⟩ := stopScan_spec s
      exact hm.mem h
    · exact h
  · exact h

/-- A job ended from outside, before the start decision that its end makes (R68, R72). -/
def abortedState (i : Fin 4) (j : JobRecord) (e : JobEnd) (s : State) : State :=
  endedState i j e (leaveState (vget s.slots i).state j.kind s)

theorem abortSlot_eq {s : State} {i : Fin 4} {j : JobRecord} (r : EndReason) (hj : (vget s.slots i).job = some j) :
    abortSlot i r s = startDecision (abortedState i j (JobEnd.without .aborted r j) s) := by
  have hslots : (leaveState (vget s.slots i).state j.kind s).slots = s.slots := frame_leaveState.slots
  simp only [abortSlot, hj]
  exact endJob_eq _ (by rw [hslots]; exact hj)

section
variable {s : State} {i : Fin 4} {j : JobRecord} {e : JobEnd}

theorem frame_abortedState : Frame [.slots, .rpu, .mge, .atb, .fst, .scan, .mpa, .serial] s (abortedState i j e s) :=
  (frame_leaveState.trans frame_endedState).wide

theorem leave_slots : (leaveState (vget s.slots i).state j.kind s).slots = s.slots := frame_leaveState.slots

theorem abortedState_slots : (abortedState i j e s).slots = vput s.slots i ((vget s.slots i).endedAs e) := by
  rw [abortedState, endedState_slots, leave_slots]

theorem abortedState_rpu (h : 1 ≤ s.free) :
    (abortedState i j e s).rpu = { s.rpu with queue := s.rpu.queue ++ [endedReport i j e s.time] } := by
  have hleave : Frame leaveFields s (leaveState (vget s.slots i).state j.kind s) := frame_leaveState
  have hfree : 1 ≤ (leaveState (vget s.slots i).state j.kind s).free := by rwa [State.free, hleave.rpu]
  rw [abortedState, endedState_rpu hfree, hleave.rpu, hleave.time]

theorem abortedState_mge (h : (vget s.slots i).state.busy = true) :
    (abortedState i j e s).mge = { (leaveState (vget s.slots i).state j.kind s).mge with seq := Seq.idle } :=
  endedState_mge_busy (by rw [leave_slots]; exact h)

theorem abortedState_mpa : (abortedState i j e s).mpa = (leaveState (vget s.slots i).state j.kind s).mpa := frame_endedState.mpa

theorem abortedState_atb : (abortedState i j e s).atb = (leaveState (vget s.slots i).state j.kind s).atb := frame_endedState.atb

theorem abortedState_scan : (abortedState i j e s).scan = (leaveState (vget s.slots i).state j.kind s).scan := frame_endedState.scan

theorem abortedState_notes {m : MTxn} (h : m ∈ s.mpa.note) : m ∈ (abortedState i j e s).mpa.note := by
  rw [abortedState_mpa]
  exact leaveState_note h

theorem abortedState_pending (h : (vget s.slots i).state = .pending) :
    (abortedState i j e s).mpa = s.mpa ∧ Frame [.slots, .rpu] s (abortedState i j e s) := by
  rw [abortedState, h, leaveState_pending, endedState_of_idle (by rw [h]; rfl)]
  exact ⟨frame_pushEnded.mpa, (frame_pushEnded.trans frame_putSlot).wide⟩

theorem abortedState_starting (h : (vget s.slots i).state = .starting) :
    (abortedState i j e s).mge = { s.mge with seq := Seq.idle } ∧ SweepStopped s (abortedState i j e s) := by
  refine ⟨?_, (stopSweep_spec s).around rfl (.of_eq rfl) ?_ (.of_eq ?_)⟩
  · rw [abortedState_mge (by rw [h]; rfl), h, leaveState_starting, frame_stopSweep.mge]
  · rw [abortedState_atb, h, leaveState_starting]
  · rw [abortedState_mpa, h, leaveState_starting]

theorem abortedState_atb_of (h : (vget s.slots i).state ≠ .starting) : (abortedState i j e s).atb = s.atb := by
  rw [abortedState_atb]
  unfold leaveState
  split
  · exact absurd ‹_› h
  · exact frame_dropAttempt.atb
  · split
    · exact frame_stopScan.atb
    · rfl
  · rfl

theorem abortedState_active (h : (vget s.slots i).state = .active) :
    (abortedState i j e s).mge = { s.mge with pixels := [], seq := Seq.idle, port := s.mge.port.map CellAcc.unhanded } ∧
    liveMerges (abortedState i j e s) = false ∧ (abortedState i j e s).mpa = s.mpa := by
  have hmge : (abortedState i j e s).mge = { s.mge with pixels := [], seq := Seq.idle, port := s.mge.port.map CellAcc.unhanded } := by
    rw [abortedState_mge (by rw [h]; rfl), h, leaveState_active, dropAttempt_mge]
  refine ⟨hmge, by rw [liveMerges, hmge]; exact live_unhanded _, ?_⟩
  rw [abortedState_mpa, h, leaveState_active, frame_dropAttempt.mpa]

theorem abortedState_plate (h : (vget s.slots i).state = .finishing) (hk : j.kind = .plate) :
    (abortedState i j e s).mge = { s.mge with seq := Seq.idle, port := (abortedState i j e s).mge.port } ∧
    ScanStopped s (abortedState i j e s) := by
  obtain ⟨hstop, hmge⟩ := stopScan_spec s
  have hwhole : (abortedState i j e s).mge = { s.mge with port := portOn (notScan s.mge.port), seq := Seq.idle } := by
    rw [abortedState_mge (by rw [h]; rfl), h, hk, leaveState_plate, hmge]
  refine ⟨by rw [hwhole], hstop.around rfl (.of_eq rfl) ?_ ?_ (.of_eq ?_)⟩
  · rw [abortedState_scan, h, hk, leaveState_plate]
  · rw [hwhole, hmge]
  · rw [abortedState_mpa, h, hk, leaveState_plate]

theorem abortedState_comp : (abortedState i j e s).fst.comp = (leaveState (vget s.slots i).state j.kind s).fst.comp := by
  have hkept : ∀ (o : JobOutcome) (t : State), (bankAtEnd j o t).fst.comp = t.fst.comp := fun o t => by
    unfold bankAtEnd
    split
    · rfl
    · split <;> rfl
  have hpush : (pushEnded i j e (leaveState (vget s.slots i).state j.kind s)).fst = (leaveState (vget s.slots i).state j.kind s).fst :=
    frame_pushEnded.fst
  unfold abortedState endedState
  split
  · rw [hkept, ← hpush]; rfl
  · rw [← hpush]; rfl

theorem abortedState_flat (h : (vget s.slots i).state = .finishing) (hk : j.kind = .flat) :
    (abortedState i j e s).mge = { s.mge with seq := Seq.idle } ∧ (abortedState i j e s).fst.comp = none ∧
    (abortedState i j e s).scan = s.scan ∧ (abortedState i j e s).mpa = s.mpa := by
  refine ⟨?_, ?_, ?_, ?_⟩
  · rw [abortedState_mge (by rw [h]; rfl), h, hk, leaveState_flat]; rfl
  · rw [abortedState_comp, h, hk, leaveState_flat]; rfl
  · rw [abortedState_scan, h, hk, leaveState_flat]; rfl
  · rw [abortedState_mpa, h, hk, leaveState_flat]; rfl

theorem abortedState_unfinished (h : (vget s.slots i).state ≠ .finishing) :
    (abortedState i j e s).scan = s.scan ∧ (abortedState i j e s).fst.comp = s.fst.comp := by
  rw [abortedState_scan, abortedState_comp]
  unfold leaveState
  split
  · exact ⟨frame_stopSweep.scan, by rw [frame_stopSweep.fst]⟩
  · exact ⟨rfl, rfl⟩
  · exact absurd ‹_› h
  · exact ⟨rfl, rfl⟩

/-- The banks as a left state leaves them (R94, R99). -/
theorem leaveState_banks (x : SlotState) (k : JobKind) (s : State) : (leaveState x k s).fst.banks = s.fst.banks := by
  unfold leaveState
  split
  · rw [frame_stopSweep.fst]
  · rfl
  · split
    · rw [frame_stopScan.fst]
    · rfl
  · rfl

theorem leaveState_fst_plate (x : SlotState) (s : State) : (leaveState x .plate s).fst = s.fst := by
  unfold leaveState
  split
  · exact frame_stopSweep.fst
  · rfl
  · exact frame_stopScan.fst
  · rfl

theorem abortedState_fst_plate (hk : j.kind = .plate) : (abortedState i j e s).fst = s.fst := by
  rw [abortedState, endedState_plate hk, hk, leaveState_fst_plate]

theorem abortedState_fst_flat (hb : (vget s.slots i).state.busy = true) (hk : j.kind = .flat) (he : e.outcome ≠ .done) :
    (abortedState i j e s).fst = { (leaveState (vget s.slots i).state j.kind s).fst with
      banks := vput s.fst.banks j.bankNo Bank.invalid } := by
  rw [abortedState, endedState_flat hk (by rw [leave_slots]; exact hb), if_neg he, leaveState_banks]

theorem abortedState_banks_ne {b : Fin 2} (h : b ≠ j.bankNo) : vget (abortedState i j e s).fst.banks b = vget s.fst.banks b := by
  have hbanks := leaveState_banks (vget s.slots i).state j.kind s
  cases hk : j.kind with
  | plate => rw [abortedState_fst_plate hk]
  | flat =>
    cases hb : (vget (leaveState (vget s.slots i).state j.kind s).slots i).state.busy with
    | true =>
      rw [abortedState, endedState_flat hk hb]
      change vget (vput _ j.bankNo _) b = _
      rw [vget_vput_ne _ _ _ _ h, hbanks]
    | false =>
      rw [abortedState, endedState_of_idle hb]
      change vget (pushEnded i j e (leaveState (vget s.slots i).state j.kind s)).fst.banks b = _
      rw [frame_pushEnded.fst, hbanks]

end

/-! ### ABORT_JOB (R68) -/

theorem abortable_iff (x : SlotState) : x.abortable = true ↔ x = .pending ∨ x = .starting ∨ x = .active ∨ x = .finishing := by
  cases x <;> simp [SlotState.abortable]

/-- An answer whose effect leaves the intake and every NOTE request standing completes the command (R168, R169). -/
theorem completes_effect {n : Fin 8} {r : Result} {s u : State} (hcin : u.cin = (openSlot n s).cin)
    (hnote : ∀ x ∈ (openSlot n s).mpa.note, x ∈ u.mpa.note) : Completes n r s (complete n r u) := by
  obtain ⟨htaken, -, hlong, -, -⟩ := openSlot_taken n s
  exact completes_of_taken (htaken.keep hcin hnote) (by rw [hcin, hlong])

/-- Settles O27: the command's one effect is the job's end from outside, and what it leaves is that of the slot's state. -/
theorem abortEndsJob : Obligations.AbortEndsJob := by
  intro s n ht hc
  have hrun : exec .abortJob s = .next (runAbortJob (takenOf s n) (openSlot n s)) := congrArg Host.Outcome.next (takeCmd_of ht hc)
  have hroom : 1 ≤ s.free := by
    have h := (takes_room ht).1
    rwa [hc] at h
  refine ⟨fun hi => ?none, fun i hi => ?slot⟩
  case none =>
    rw [runAbortJob, toFin?_of_ge (Nat.succ_le_of_lt hi)] at hrun
    obtain ⟨hcompletes, hrequests, hframe⟩ := complete_refuses n .range s
    exact ⟨_, hrun, hcompletes, hrequests, hframe⟩
  case slot =>
    intro x on
    rw [runAbortJob, ← hi, toFin?_val] at hrun
    have hon : x.state.abortable = true ↔ on := abortable_iff _
    refine ⟨fun hoff => ?refused, fun j hyes hj => ?ended⟩
    case refused =>
      have hbad : checks [((vget (openSlot n s).slots i).state.abortable, .state)] = .state := if_neg (mt hon.1 hoff)
      simp only [hbad] at hrun
      obtain ⟨hcompletes, hrequests, hframe⟩ := complete_refuses n .state s
      exact ⟨_, hrun, hcompletes, hrequests, hframe⟩
    case ended =>
      intro e
      have hgood : checks [((vget (openSlot n s).slots i).state.abortable, .state)] = .ok := if_pos (hon.2 hyes)
      have heq : answer (takenOf s n) .ok (abortSlot i .abort) (openSlot n s) =
          complete n .ok (startDecision (abortedState i j e (openSlot n s))) :=
        congrArg (complete n .ok) (abortSlot_eq (s := openSlot n s) .abort hj)
      simp only [hgood] at hrun
      rw [heq] at hrun
      have hcompletes : Completes n .ok s (complete n .ok (startDecision (abortedState i j e (openSlot n s)))) :=
        completes_effect (by rw [frame_startDecision.cin, frame_abortedState.cin])
          fun m hm => (onlyRequests_startDecision _).note (abortedState_notes hm)
      have hopen : Frame [.cin, .serial, .mpa] s (openSlot n s) := frame_openSlot
      have hnotes := openSlot_notesAdded n s
      generalize openSlot n s = o at hrun hcompletes hopen hnotes
      have hx : vget o.slots i = x := by rw [hopen.slots]
      have hmge : o.mge = s.mge := hopen.mge
      have hbusy : x.state ≠ .pending → x.state.busy = true := fun hne => by
        rcases hyes with h | h | h | h
        · exact absurd h hne
        · rw [h]; rfl
        · rw [h]; rfl
        · rw [h]; rfl
      rw [← hx]
      refine ⟨abortedState i j e o, hrun, hcompletes, hopen.slots ▸ abortedState_slots, ?_, fun h => ?_,
        fun h => ?_, fun h => ?_, fun h => ?_, fun h hk => ?_, fun h hk => ?_, fun h => ?_, fun h hk => ?_, fun hk => ?_, fun b hb => ?_, ?_⟩
      · rw [abortedState_rpu (by rwa [State.free, hopen.rpu]), hopen.rpu, hopen.time]
        rfl
      · obtain ⟨hmpa, hframe⟩ := abortedState_pending (e := e) (j := j) h
        exact ⟨(hnotes.onlyRequests).trans (.of_eq hmpa), (hopen.trans hframe).wide⟩
      · obtain ⟨hm, hstop⟩ := abortedState_starting (e := e) (j := j) h
        exact ⟨hmge ▸ hm, hstop.around hopen.atb hnotes rfl (.of_eq rfl)⟩
      · rw [abortedState_atb_of h, hopen.atb]
      · obtain ⟨hm, hlive, hmpa⟩ := abortedState_active (e := e) (j := j) h
        exact ⟨hmge ▸ hm, hlive, by rw [hmpa]; exact hnotes⟩
      · obtain ⟨hm, hstop⟩ := abortedState_plate (e := e) h hk
        exact ⟨hmge ▸ hm, hstop.around (by rw [hmge]) hnotes rfl rfl (.of_eq rfl)⟩
      · obtain ⟨hm, hcomp, hscan, hmpa⟩ := abortedState_flat (e := e) h hk
        exact ⟨hmge ▸ hm, hcomp, hscan.trans hopen.scan, by rw [hmpa]; exact hnotes⟩
      · obtain ⟨hscan, hcomp⟩ := abortedState_unfinished (e := e) (j := j) h
        exact ⟨hscan.trans hopen.scan, hcomp.trans (by rw [hopen.fst])⟩
      · rw [abortedState_fst_flat (by rw [hx]; exact hbusy (hx ▸ h)) hk (show JobOutcome.aborted ≠ .done by decide)]
        exact vget_vput_self ..
      · rw [abortedState_fst_plate hk, hopen.fst]
      · rw [abortedState_banks_ne hb, hopen.fst]
      · exact (hopen.trans frame_abortedState).wide

end Sys2Proof.Machine
end

section
/-! SUPPORT. HOLD (R72, R134, R145, R172). -/
namespace Sys2Proof.Machine
set_option Elab.async false

/-- The end of a HOLD: the monitors off, the device in HOLD, and the command's completion (R72, R134, R145, R172). -/
def holdFinished (n : Fin 8) (v : State) : State := complete n .ok (setLong none ((monitorsHold v).setDevice .hold))

section
variable {n : Fin 8} {v : State}

theorem frame_holdFinished : Frame [.device, .lamp, .pdt, .cec, .rpu, .cin, .mpa, .serial] v (holdFinished n v) :=
  (((frame_monitorsHold.trans frame_setDevice).trans frame_setLong).trans frame_complete).wide

theorem holdFinished_device : (holdFinished n v).device = .hold := frame_complete.device
theorem holdFinished_lamp : (holdFinished n v).lamp = Lamp.off v.lamp.cfg := frame_complete.lamp.trans (monitorsHold_lamp v)
theorem holdFinished_pdt : (holdFinished n v).pdt = Pdt.off := frame_complete.pdt
theorem holdFinished_cec : (holdFinished n v).cec = { v.cec with armed := false } := frame_complete.cec.trans (monitorsHold_cec v)

theorem holdFinished_rpu : (holdFinished n v).rpu = { v.rpu with
    fLamp := v.rpu.fLamp || decide (v.lamp.state ≠ .offline),
    fPresence := v.rpu.fPresence || decide (v.pdt.presence ≠ .unknown) } := frame_complete.rpu.trans (monitorsHold_rpu v)

theorem holdFinished_notes : NotesAdded v.mpa (holdFinished n v).mpa := by
  have hnotes := complete_notesAdded n .ok (setLong none ((monitorsHold v).setDevice .hold))
  rwa [show (setLong none ((monitorsHold v).setDevice .hold)).mpa = v.mpa from frame_monitorsHold.mpa] at hnotes

end

/-- The commands that may be in execution when a HOLD is taken: none (R168). -/
theorem hold_alone {s : State} {n : Fin 8} (ht : takes s = some n) (hc : cmdOf s n = some .hold) : s.cin.long = none := by
  obtain ⟨-, hidle, -⟩ := takes_room ht
  cases hl : s.cin.long with
  | none => rfl
  | some l => cases l <;> simp [idleFor, hl, hc, besideLoad] at hidle

/-- A HOLD in execution whose entry has ended the part's job, if any, as `v`, completes. -/
theorem holdFinished_completes {s v : State} {n : Fin 8} (hlong : s.cin.long = none)
    (hcin : v.cin = { (openSlot n s).cin with long := some (.hold n) }) (hnote : ∀ x ∈ (openSlot n s).mpa.note, x ∈ v.mpa.note) :
    Completes n .ok s (holdFinished n v) := by
  obtain ⟨htaken, -, -, -, -⟩ := openSlot_taken n s
  have hcin' : ((monitorsHold v).setDevice .hold).cin = v.cin := frame_monitorsHold.cin
  have hmpa : ((monitorsHold v).setDevice .hold).mpa = v.mpa := frame_monitorsHold.mpa
  have hkept : (setLong none ((monitorsHold v).setDevice .hold)).cin = { (openSlot n s).cin with long := none } := by
    rw [setLong, State.setCin_cin, hcin', hcin]
  refine completes_of_taken (htaken.keep_slots ?_ ?_ ?_ ?_) ?_
  · rw [hkept]
  · rw [hkept]
  · rw [hkept]
  · intro x hx
    change x ∈ ((monitorsHold v).setDevice .hold).mpa.note
    rw [hmpa]
    exact hnote x hx
  · rw [hkept, hlong]

theorem holdRunning_of {s : State} {n : Fin 8} (h : s.cin.long = some (.hold n)) : holdRunning s = true := by rw [holdRunning, h]

theorem someFinishing_iff (s : State) : someFinishing s = true ↔ ∃ i, (vget s.slots i).state = .finishing := by
  simp [someFinishing, List.any_eq_true, mem_four]

/-- The end of the active job at HOLD entry, beside which no start decision finds a job (R59, R72). -/
theorem jobsHold_due {s : State} {n : Fin 8} {i : Fin 4} {j : JobRecord} {e : JobEnd} (hl : s.cin.long = some (.hold n))
    (hb : busySlot s = some i) (hj : (vget s.slots i).job = some j) (he : (vget s.slots i).endDue = some e) :
    jobsHold s = endedState i j e s := by
  have hcin : (endedState i j e s).cin = s.cin := frame_endedState.cin
  simp only [jobsHold, hb, he]
  rw [endJob_eq e hj, startDecision_of_holdRunning _ (holdRunning_of (by rw [hcin]; exact hl))]

theorem jobsHold_abort {s : State} {n : Fin 8} {i : Fin 4} {j : JobRecord} (hl : s.cin.long = some (.hold n))
    (hb : busySlot s = some i) (hj : (vget s.slots i).job = some j) (he : (vget s.slots i).endDue = none) :
    jobsHold s = abortedState i j (JobEnd.without .aborted .hold j) s := by
  have hcin : (abortedState i j (JobEnd.without .aborted .hold j) s).cin = s.cin := frame_abortedState.cin
  simp only [jobsHold, hb, he]
  rw [abortSlot_eq .hold hj, startDecision_of_holdRunning _ (holdRunning_of (by rw [hcin]; exact hl))]

/-- What HOLD entry leaves of a job that was busy and not FINISHING: its end, taken or made (R72). -/
theorem jobsHold_facts {s : State} {n : Fin 8} {i : Fin 4} {j : JobRecord} (hl : s.cin.long = some (.hold n))
    (hb : busySlot s = some i) (hj : (vget s.slots i).job = some j) (hf : (vget s.slots i).state ≠ .finishing) (hroom : 1 ≤ s.free) :
    let e := (vget s.slots i).endDue.getD (JobEnd.without .aborted .hold j)
    let v := jobsHold s
    v.slots = vput s.slots i ((vget s.slots i).endedAs e) ∧
    v.rpu = { s.rpu with queue := s.rpu.queue ++ [endedReport i j e s.time] } ∧
    ((vget s.slots i).endDue ≠ none → v.mge = { s.mge with seq := Seq.idle } ∧ v.atb = s.atb ∧ v.mpa = s.mpa) ∧
    ((vget s.slots i).endDue = none → (vget s.slots i).state = .active →
      v.mge = { s.mge with pixels := [], seq := Seq.idle, port := s.mge.port.map CellAcc.unhanded } ∧ v.atb = s.atb ∧ v.mpa = s.mpa) ∧
    ((vget s.slots i).endDue = none → (vget s.slots i).state = .starting →
      v.mge = { s.mge with seq := Seq.idle } ∧ SweepStopped s v) ∧
    (j.kind = .plate → v.fst = s.fst) ∧
    (j.kind = .flat → e.outcome ≠ .done → v.fst = { s.fst with banks := vput s.fst.banks j.bankNo Bank.invalid }) ∧
    (∀ m ∈ s.mpa.note, m ∈ v.mpa.note) ∧ Frame [.rpu, .mge, .slots, .atb, .fst, .mpa, .serial] s v := by
  have hbusy := busySlot_busy hb
  cases he : (vget s.slots i).endDue with
  | some e =>
    intro e' v
    have hv : v = endedState i j e s := jobsHold_due hl hb hj he
    have hframe : Frame [.slots, .rpu, .mge, .fst] s v := by rw [hv]; exact frame_endedState
    refine ⟨by rw [hv]; exact endedState_slots .., by rw [hv]; exact endedState_rpu hroom,
      fun _ => ⟨by rw [hv]; exact endedState_mge_busy hbusy, hframe.atb, hframe.mpa⟩, nofun, nofun,
      fun hk => by rw [hv]; exact endedState_plate hk, fun hk hne => ?_, fun m hm => by rw [hframe.mpa]; exact hm, hframe.wide⟩
    rw [hv, endedState_flat hk hbusy, if_neg (show ¬ e.outcome = .done from hne)]
  | none =>
    intro e v
    have hv : v = abortedState i j e s := jobsHold_abort hl hb hj he
    rw [hv]
    refine ⟨abortedState_slots, abortedState_rpu hroom, fun h => absurd rfl h, fun _ hact => ?_, fun _ hst => abortedState_starting hst,
      abortedState_fst_plate, fun hk hne => ?_, fun m => abortedState_notes, ?_⟩
    · obtain ⟨hm, -, hmpa⟩ := abortedState_active (e := e) (j := j) hact
      exact ⟨hm, abortedState_atb_of (by rw [hact]; nofun), hmpa⟩
    · obtain ⟨-, hcomp⟩ := abortedState_unfinished (e := e) (j := j) hf
      have hflat := abortedState_fst_flat (e := e) hbusy hk hne
      rw [abortedState_comp] at hcomp
      rw [hflat]
      exact congrArg (fun c => ({ banks := vput s.fst.banks j.bankNo Bank.invalid, comp := c } : Fst)) hcomp
    · intro f hfield
      obtain ⟨hscan, -⟩ := abortedState_unfinished (e := e) (j := j) hf
      by_cases hs : f = .scan
      · rw [hs]; exact hscan
      · exact frame_abortedState f (by simp_all)

/-- With no job in the busy slot, or no busy slot, HOLD entry ends none. -/
theorem jobsHold_none {s : State} (h : ∀ i, busySlot s = some i → (vget s.slots i).job = none) : jobsHold s = s := by
  unfold jobsHold
  split
  · rename_i i hb
    have hj := h i hb
    split
    · simp only [endJob, hj]
    · simp only [abortSlot, hj]
  · rfl

/-- HOLD entry keeps every NOTE request, and of the report unit changes the queue and the flags alone. -/
theorem jobsHold_rpu_note {s : State} {n : Fin 8} (hl : s.cin.long = some (.hold n))
    (hf : ∀ i, (vget s.slots i).state ≠ .finishing) (hroom : 1 ≤ s.free) :
    (jobsHold s).rpu = { s.rpu with queue := (jobsHold s).rpu.queue } ∧ ∀ m ∈ s.mpa.note, m ∈ (jobsHold s).mpa.note := by
  have hidle : (∀ i, busySlot s = some i → (vget s.slots i).job = none) →
      (jobsHold s).rpu = { s.rpu with queue := (jobsHold s).rpu.queue } ∧ ∀ m ∈ s.mpa.note, m ∈ (jobsHold s).mpa.note := fun h => by
    rw [jobsHold_none h]
    exact ⟨rfl, fun _ hm => hm⟩
  cases hb : busySlot s with
  | none => exact hidle fun i h => by rw [hb] at h; cases h
  | some i =>
    cases hj : (vget s.slots i).job with
    | none => exact hidle fun k h => by rw [hb] at h; cases h; exact hj
    | some j =>
      obtain ⟨-, hrpu, -, -, -, -, -, hnote, -⟩ := jobsHold_facts hl hb hj (hf i) hroom
      exact ⟨by rw [hrpu], hnote⟩

/-- The take of HOLD up to its entry. -/
def holdTaken (n : Fin 8) (s : State) : State := setLong (some (.hold n)) (openSlot n s)

theorem frame_holdTaken {n : Fin 8} {s : State} : Frame [.cin, .serial, .mpa] s (holdTaken n s) := frame_openSlot.seq frame_setLong

theorem runHold_eq (t : Taken) (s : State) : runHold t s =
    if inHold s = true then complete t.slot .state s
    else if someFinishing (setLong (some (.hold t.slot)) s) = true then setLong (some (.hold t.slot)) s
    else holdFinished t.slot (jobsHold (setLong (some (.hold t.slot)) s)) := rfl

/-- Settles O23: HOLD is refused, waits for a FINISHING slot, or ends the active job and puts the monitors off. -/
theorem holdEntryEndsJob : Obligations.HoldEntryEndsJob := by
  intro s n ht hc
  have hrun : exec .hold s = .next (runHold (takenOf s n) (openSlot n s)) := congrArg Host.Outcome.next (takeCmd_of ht hc)
  rw [runHold_eq] at hrun
  have hroom : 1 ≤ s.free := by
    have h := (takes_room ht).1
    rwa [hc] at h
  have hhold : inHold (openSlot n s) = true ↔ s.device = .hold := by rw [inHold_iff, frame_openSlot.device]
  have hslot : (takenOf s n).slot = n := rfl
  have hkept : Frame [.cin, .serial, .mpa] s (holdTaken n s) := frame_holdTaken
  have hfinish : someFinishing (holdTaken n s) = true ↔ ∃ i, (vget s.slots i).state = .finishing := by
    rw [someFinishing_iff, hkept.slots]
  rw [hslot, ← holdTaken] at hrun
  refine ⟨fun hd => ?refused, fun hd hf => ?waits, fun hd hf => ?entry⟩
  case refused =>
    rw [if_pos (hhold.2 hd)] at hrun
    obtain ⟨hcompletes, hrequests, hframe⟩ := complete_refuses n .state s
    exact ⟨_, hrun, hcompletes, hrequests, hframe⟩
  case waits =>
    rw [if_neg (mt hhold.1 (by rw [hd]; nofun)), if_pos (hfinish.2 hf)] at hrun
    obtain ⟨htaken, hopen, -, hwaits, -⟩ := openSlot_taken n s
    exact ⟨_, hrun, htaken.keep_slots rfl rfl rfl fun _ hx => hx, hopen, rfl, hwaits, rfl, frame_openSlot.seq frame_setLong⟩
  case entry =>
    rw [if_neg (mt hhold.1 (by rw [hd]; nofun)), if_neg (mt hfinish.1 (by rintro ⟨i, hi⟩; exact hf i hi))] at hrun
    have hnotes : NotesAdded s.mpa (holdTaken n s).mpa := openSlot_notesAdded n s
    have hlong : (holdTaken n s).cin.long = some (.hold n) := rfl
    have hcin : (jobsHold (holdTaken n s)).cin = { (openSlot n s).cin with long := some (.hold n) } := frame_jobsHold.cin
    have hopenNote : ∀ x ∈ (openSlot n s).mpa.note, x ∈ (holdTaken n s).mpa.note := fun _ hx => hx
    have hcompletes : (∀ m ∈ (holdTaken n s).mpa.note, m ∈ (jobsHold (holdTaken n s)).mpa.note) →
        Completes n .ok s (holdFinished n (jobsHold (holdTaken n s))) := fun h =>
      holdFinished_completes (hold_alone ht hc) hcin fun x hx => h x (hopenNote x hx)
    generalize holdTaken n s = o at hrun hkept hnotes hlong hcin hopenNote hcompletes
    have hslots : o.slots = s.slots := hkept.slots
    have hfo : ∀ i, (vget o.slots i).state ≠ .finishing := fun i => by rw [hslots]; exact hf i
    have hfree : 1 ≤ o.free := by rwa [State.free, hkept.rpu]
    obtain ⟨hrpu, hnote⟩ := jobsHold_rpu_note hlong hfo hfree
    have hjobs : Frame abortFields o (jobsHold o) := frame_jobsHold
    have hbusy : busySlot o = busySlot s := by rw [busySlot, hslots]; rfl
    refine ⟨_, hrun, hcompletes hnote, holdFinished_device, ?_, holdFinished_pdt, ?_, ?_, fun hb => ?idle, fun i j hb hj => ?job⟩
    · rw [holdFinished_lamp, hjobs.lamp, hkept.lamp]
    · rw [holdFinished_cec, hjobs.cec, hkept.cec]
    · rw [holdFinished_rpu, hjobs.lamp, hjobs.pdt, hkept.lamp, hkept.pdt, hrpu, hkept.rpu]
    case idle =>
      have hsame : jobsHold o = o := jobsHold_none fun i hi => by rw [hbusy, hb] at hi; cases hi
      rw [hsame]
      exact ⟨(hnotes.trans holdFinished_notes).onlyRequests, by rw [holdFinished_rpu, hkept.rpu], (hkept.trans frame_holdFinished).wide⟩
    case job =>
      intro e
      rw [← hslots] at hj hf
      rw [← hbusy] at hb
      obtain ⟨hs, hr, hdue, hact, hst, hplate, hflat, -, hframe⟩ := jobsHold_facts hlong hb hj (hf i) hfree
      have hfin : Frame [.device, .lamp, .pdt, .cec, .rpu, .cin, .mpa, .serial] (jobsHold o) (holdFinished n (jobsHold o)) :=
        frame_holdFinished
      have hafter : NotesAdded (jobsHold o).mpa (holdFinished n (jobsHold o)).mpa := holdFinished_notes
      rw [hslots, hkept.mge, hkept.atb] at hdue
      rw [hslots, hkept.mge, hkept.atb] at hact
      rw [hslots, hkept.mge] at hst
      rw [hslots] at hs
      rw [hslots, hkept.rpu, hkept.time] at hr
      rw [hkept.fst] at hplate hflat
      rw [hslots] at hflat
      refine ⟨hfin.slots.trans hs, ?_, fun h => ?_, fun h h' => ?_, fun h h' => ?_, fun hk => hfin.fst.trans (hplate hk),
        fun hk hne => hfin.fst.trans (hflat hk hne), ((hkept.trans hframe).trans hfin).wide⟩
      · rw [holdFinished_rpu, hr]
        rfl
      · obtain ⟨hm, ha, hp⟩ := hdue h
        exact ⟨hfin.mge.trans hm, hfin.atb.trans ha, by rw [hp] at hafter; exact hnotes.trans hafter⟩
      · obtain ⟨hm, ha, hp⟩ := hact h h'
        refine ⟨hfin.mge.trans hm, ?_, hfin.atb.trans ha, by rw [hp] at hafter; exact hnotes.trans hafter⟩
        rw [liveMerges, hfin.mge, hm]
        exact live_unhanded _
      · obtain ⟨hm, hstop⟩ := hst h h'
        exact ⟨hfin.mge.trans hm, hstop.around hkept.atb hnotes hfin.atb hafter⟩

end Sys2Proof.Machine
end

section
/-! SUPPORT. RESET_PART (R174 and the rules it names): what stops, what the blocks become, and the intake's completions. -/
namespace Sys2Proof.Machine
set_option Elab.async false

/-! ### Stopping several issuers -/

theorem issuerStopped_none (m : Mpa) : m.issuerStopped (fun _ => false) = m := by
  have hall : ∀ l : List MTxn, l.filter (fun _ => true) = l := fun l => List.filter_eq_self.2 fun _ _ => rfl
  simp only [Mpa.issuerStopped, Bool.not_false, Bool.false_eq_true, if_false, hall, List.map_id']

/-- Two issuers stopped one after the other are both stopped: what the first leaves is no transaction of the second. -/
theorem issuerStopped_comp (m : Mpa) (p q : MTxn → Bool) (hq : ∀ x : MTxn, q { x with kind := .stopped true } = false) :
    (m.issuerStopped p).issuerStopped q = m.issuerStopped fun x => p x || q x := by
  have hkeep : ∀ l : List MTxn, (l.filter fun x => !p x).filter (fun x => !q x) = l.filter fun x => !(p x || q x) := fun l => by
    rw [List.filter_filter]
    refine List.filter_congr fun x _ => ?_
    cases p x <;> cases q x <;> rfl
  have hmap : ∀ l : List MTxn, (l.map fun x => if p x then { x with kind := .stopped true } else x).map
      (fun x => if q x then { x with kind := .stopped true } else x) =
      l.map fun x => if p x || q x then { x with kind := .stopped true } else x := fun l => by
    rw [List.map_map]
    refine List.map_congr_left fun x _ => ?_
    dsimp only [Function.comp]
    by_cases hp : p x = true
    · simp [hp, hq]
    · simp [hp]
  simp only [Mpa.issuerStopped, hkeep, hmap]

/-- The reads that a stopped issuer does not own stay requested. -/
theorem issuerStopped_append (m : Mpa) (q : MTxn → Bool) (r : List MTxn) (h : ∀ x ∈ r, q x = false) :
    ({ m with cell := m.cell ++ r } : Mpa).issuerStopped q = { m.issuerStopped q with cell := (m.issuerStopped q).cell ++ r } := by
  have hr : r.filter (fun x => !q x) = r := List.filter_eq_self.2 fun x hx => by rw [h x hx]; rfl
  simp only [Mpa.issuerStopped, List.filter_append, hr]

theorem scanRead_stopped (p : List CellAcc) (x : MTxn) : scanRead p { x with kind := .stopped true } = false := by
  simp [scanRead]

theorem isJobFetch_eq (x : MTxn) : isJobFetch x = decide (x.kind = .jobFetch) := by
  rw [Bool.eq_iff_iff]; simp [isJobFetch]

theorem readsOf_kind {n : Nat} {p : List CellAcc} {x : MTxn} (h : x ∈ readsOf n p) : ∃ k, x.kind = .cellRead k := by
  obtain ⟨k, hk, rfl⟩ := List.mem_mapIdx.1 h
  exact ⟨_, rfl⟩

/-! ### The blocks (R14, R30, R52, R58, R74, R93, R99, R136, R146) -/

/-- What stops at a soft reset: the sweep, the finishing and a record's fetch. -/
def softStopped (s : State) : State := stopIssuer isJobFetch (stopFinishing (stopSweep s))

/-- The transactions of the issuers that a soft reset stops (R163, R174). -/
def softStops (s : State) (x : MTxn) : Bool :=
  decide (x.kind = .sweep ∧ s.atb.sweep ≠ none) || scanRead s.mge.port x || decide (x.kind = .jobFetch)

theorem frame_softStopped {s : State} : Frame [.atb, .mpa, .fst, .mge, .scan, .serial] s (softStopped s) :=
  ((frame_stopSweep.trans frame_stopFinishing).trans (frame_stopIssuer (p := isJobFetch))).wide

theorem stopSweep_notesAdded (s : State) :
    NotesAdded (s.mpa.issuerStopped fun x => decide (x.kind = .sweep ∧ s.atb.sweep ≠ none)) (stopSweep s).mpa := by
  obtain ⟨hsome, hnone⟩ := stopSweep_spec s
  cases hw : s.atb.sweep with
  | none => simpa [issuerStopped_none] using (hnone hw).2
  | some w => simpa using (hsome w hw).2

theorem softStopped_mge (s : State) : (softStopped s).mge = { s.mge with port := portOn (notScan s.mge.port) } := by
  obtain ⟨-, hmge⟩ := stopScan_spec (stopSweep s)
  rwa [frame_stopSweep.mge] at hmge

theorem softStopped_mpa (s : State) : ∃ n,
    NotesAdded { s.mpa.issuerStopped (softStops s) with
      cell := (s.mpa.issuerStopped (softStops s)).cell ++ readsOf n (notScan s.mge.port) } (softStopped s).mpa := by
  obtain ⟨⟨-, -, n, hscan⟩, -⟩ := stopScan_spec (stopSweep s)
  rw [frame_stopSweep.mge] at hscan
  have hsweep := (stopSweep_notesAdded s).issuerStopped (scanRead s.mge.port)
  rw [issuerStopped_comp _ _ _ (scanRead_stopped _)] at hsweep
  have hboth := ((hsweep.cell (readsOf n (notScan s.mge.port))).trans hscan).issuerStopped isJobFetch
  rw [issuerStopped_append _ _ _ fun x hx => by obtain ⟨k, hk⟩ := readsOf_kind hx; simp [isJobFetch, hk],
    issuerStopped_comp _ _ _ fun x => by simp [isJobFetch]] at hboth
  have heq : (fun x => (decide (x.kind = .sweep ∧ s.atb.sweep ≠ none) || scanRead s.mge.port x) || isJobFetch x) = softStops s :=
    funext fun x => by rw [isJobFetch_eq]; rfl
  rw [heq] at hboth
  exact ⟨n, hboth⟩

theorem softStopped_fst (s : State) : (softStopped s).fst = { s.fst with comp := none } := by
  change { (stopScan (stopSweep s)).fst with comp := none } = _
  rw [frame_stopScan.fst, frame_stopSweep.fst]

theorem softStopped_scan (s : State) : (softStopped s).scan = Scan.idle := (stopScan_spec (stopSweep s)).1.1

theorem softStopped_sweep (s : State) : (softStopped s).atb.sweep = none := by
  change (stopScan (stopSweep s)).atb.sweep = none
  rw [frame_stopScan.atb]
  obtain ⟨hsome, hnone⟩ := stopSweep_spec s
  cases hw : s.atb.sweep with
  | none => rw [(hnone hw).1, hw]
  | some w => rw [(hsome w hw).1]

theorem softReset_eq (a : Area) : a.softReset =
    { a with state := if a.state = .undefined then .undefined else .needsClear, gen := 0, owner := none } := by
  unfold Area.softReset
  cases ha : a.state <;> simp

section
variable (s : State)

theorem softBlocks_areas (i : Fin 4) : vget (softBlocks s).atb.areas i = { vget s.atb.areas i with
    state := if (vget s.atb.areas i).state = .undefined then .undefined else .needsClear, gen := 0, owner := none } := by
  change vget (s.atb.areas.map Area.softReset) i = _
  rw [vget_map, softReset_eq]

theorem softBlocks_sweep : (softBlocks s).atb.sweep = none := softStopped_sweep s

theorem softBlocks_fst : (softBlocks s).fst = { banks := s.fst.banks.map Bank.softReset, comp := none } := by
  change { (softStopped s).fst with banks := (softStopped s).fst.banks.map Bank.softReset } = _
  rw [softStopped_fst]

theorem softBlocks_mge : (softBlocks s).mge =
    { s.mge with pixels := [], seq := Seq.idle, port := (portOn (notScan s.mge.port)).map CellAcc.unhanded } := by
  change { (softStopped s).mge with pixels := [], seq := Seq.idle, port := (softStopped s).mge.port.map CellAcc.unhanded } = _
  rw [softStopped_mge]

theorem softBlocks_lamp : (softBlocks s).lamp = Lamp.off s.lamp.cfg := by
  change Lamp.off (softStopped s).lamp.cfg = _
  rw [frame_softStopped.lamp]

theorem softBlocks_rpu : (softBlocks s).rpu = s.rpu.softReset := by
  simp only [softBlocks, State.setDevice_rpu, State.setRpu_rpu, State.setCec_rpu, State.setPdt_rpu, State.setLamp_rpu]
  rw [frame_putSeq.rpu, frame_dropAttempt.rpu, State.setFst_rpu, State.setSlots_rpu, State.setAtb_rpu, ← softStopped,
    frame_softStopped.rpu]

end

/-! ### The intake (R174) -/

theorem openAll_slot_of_mem {ns : List (Fin 8)} {m : Fin 8} {s : State} (h : m ∈ ns) :
    cmdSlot (openAll ns s) m = { opened := true, late := false, takenWait := false } := by
  have hkept : ∀ (ns : List (Fin 8)) (u : State), cmdSlot u m = { opened := true, late := false, takenWait := false } →
      cmdSlot (openAll ns u) m = { opened := true, late := false, takenWait := false } := by
    intro ns
    induction ns with
    | nil => exact fun u hu => hu
    | cons n ns ih =>
      intro u hu
      refine ih _ ?_
      by_cases hmn : m = n
      · rw [hmn]; exact vget_vput_self ..
      · exact (vget_vput_ne _ _ _ _ hmn).trans hu
  induction ns generalizing s with
  | nil => cases h
  | cons n ns ih =>
    rcases List.mem_cons.1 h with rfl | h
    · exact hkept ns _ (vget_vput_self ..)
    · exact ih h

theorem openAll_slot_of_not_mem {ns : List (Fin 8)} {m : Fin 8} {s : State} (h : m ∉ ns) :
    cmdSlot (openAll ns s) m = cmdSlot s m := by
  induction ns generalizing s with
  | nil => rfl
  | cons n ns ih =>
    rw [List.mem_cons, not_or] at h
    obtain ⟨hne, hrest⟩ := h
    exact (ih hrest).trans (vget_vput_ne _ _ _ _ hne)

theorem pumpWaits_cons (ks : List DoneWait) (d : DoneWait) (ds : List DoneWait) (s : State) : pumpWaits ks (d :: ds) s =
    if ((cmdSlot s d.slot).takenWait || ks.any fun e => d.after.contains e.slot) = true then pumpWaits (ks ++ [d]) ds s
    else pumpWaits ks ds (requestDone d.slot d.res s) := by rw [pumpWaits]

theorem pumpWaits_append (ks as bs : List DoneWait) (s : State) :
    pumpWaits ks (as ++ bs) s = pumpWaits (pumpWaits ks as s).1 bs (pumpWaits ks as s).2 := by
  induction as generalizing ks s with
  | nil => rfl
  | cons a as ih =>
    rw [List.cons_append, pumpWaits_cons, pumpWaits_cons]
    split
    · exact ih ..
    · exact ih ..

/-- DONE writes that wait for nothing are all requested, in order (R174). -/
theorem pumpWaits_go (ks : List DoneWait) (r : Result) (ms : List (Fin 8)) (s : State)
    (h : ∀ m ∈ ms, (cmdSlot s m).takenWait = false ∧ (cmdSlot s m).late = false) :
    (pumpWaits ks (ms.map fun m => { slot := m, res := r, after := [] }) s).1 = ks ∧
    (pumpWaits ks (ms.map fun m => { slot := m, res := r, after := [] }) s).2.mpa.note = s.mpa.note ++ ms.mapIdx fun i m =>
      ⟨s.serial + i, .done m r false, .note, true, pageBase s + 64 * m.1, 8, doneBytes r false⟩ := by
  induction ms generalizing s with
  | nil => exact ⟨rfl, (List.append_nil _).symm⟩
  | cons m ms ih =>
    obtain ⟨hwait, hlate⟩ := h m List.mem_cons_self
    have hgo : ((cmdSlot s m).takenWait || ks.any fun e => ([] : List (Fin 8)).contains e.slot) = false := by
      rw [hwait]; simp
    have hstep : pumpWaits ks ((m :: ms).map fun m => { slot := m, res := r, after := [] }) s =
        pumpWaits ks (ms.map fun m => { slot := m, res := r, after := [] }) (requestDone m r s) := by
      rw [List.map_cons, pumpWaits_cons]
      exact if_neg (by rw [hgo]; nofun)
    have hcin : (requestDone m r s).cin = s.cin := rfl
    have hslot : ∀ k, cmdSlot (requestDone m r s) k = cmdSlot s k := fun k => by rw [cmdSlot, hcin]; rfl
    obtain ⟨hkept, hnote⟩ := ih (requestDone m r s) fun k hk => by rw [hslot]; exact h k (List.mem_cons_of_mem _ hk)
    rw [hstep]
    refine ⟨hkept, hnote.trans ?_⟩
    have hfirst : (requestDone m r s).mpa.note = s.mpa.note ++
        [⟨s.serial, .done m r false, .note, true, pageBase s + 64 * m.1, 8, doneBytes r false⟩] := by
      rw [← hlate]; rfl
    rw [hfirst, List.mapIdx_cons, List.append_assoc]
    refine congrArg (s.mpa.note ++ ·) (congrArg (_ :: ·) (congrArg (List.mapIdx · ms) (funext fun i => funext fun k => ?_)))
    rw [show (requestDone m r s).serial + i = s.serial + (i + 1) by rw [requestDone, requestM_serial]; omega]
    rfl

/-- The DONE writes of a soft reset before the RESET_PART's own: those that waited, then the LOAD_JOB's and the queue's (R174). -/
def softWaits (s : State) : List DoneWait := (resetSlots s).map fun m => { slot := m, res := .reset, after := [] }

/-- The intake before the DONE writes of a soft reset are requested: its queued slots open, its queue empty (R174). -/
def softOpened (s : State) : State :=
  (openAll s.cin.queue s).setCin { (openAll s.cin.queue s).cin with
    queue := [], long := if (loadingSlot (openAll s.cin.queue s)).isSome then none else (openAll s.cin.queue s).cin.long }

theorem softIntake_eq (n : Fin 8) (s : State) : softIntake n s = pumpDone (setWaits ((softOpened s).cin.waits ++ softWaits s ++
    [{ slot := n, res := .ok, after := resetSlots s }]) (softOpened s)) := rfl

theorem openAll_cin (ns : List (Fin 8)) (s : State) :
    (openAll ns s).cin = { s.cin with slots := (openAll ns s).cin.slots } := by
  induction ns generalizing s with
  | nil => rfl
  | cons n ns ih => exact (ih _).trans rfl

/-- The intake after a soft reset, where the RESET_PART's TAKEN write has not been answered (R174). -/
theorem softIntake_spec {n : Fin 8} {s : State} (hn : n ∉ s.cin.queue) (hopen : (cmdSlot s n).takenWait = true)
    (hlong : s.cin.long = none ∨ ∃ c i, s.cin.long = some (.loadJob c i)) :
    let t := softIntake n s
    t.cin = { s.cin with queue := [], long := none, slots := t.cin.slots, waits := t.cin.waits } ∧
    (∀ m ∈ s.cin.queue, cmdSlot t m = { opened := true, late := false, takenWait := false }) ∧
    (∃ ws, t.cin.waits = ws ++ [⟨n, .ok, resetSlots s⟩]) ∧
    (∃ pre k, t.mpa = { s.mpa with note := s.mpa.note ++ pre ++ s.cin.queue.mapIdx fun i m =>
      ⟨k + i, .done m .reset false, .note, true, pageBase s + 64 * m.1, 8, doneBytes .reset false⟩ }) ∧
    (∀ c, c ∈ resetSlots s → c ∉ s.cin.queue →
      ((cmdSlot s c).takenWait = true → { slot := c, res := .reset, after := [] } ∈ t.cin.waits) ∧
      ((cmdSlot s c).takenWait = false → ∃ x ∈ t.mpa.note, x.kind = .done c .reset (cmdSlot s c).late ∧ x.write = true ∧
        x.addr = pageBase s + 64 * c.1 ∧ x.len = 8 ∧ x.bytes = doneBytes .reset (cmdSlot s c).late)) := by
  intro t
  have hall := openAll_cin s.cin.queue s
  have hopened : (softOpened s).cin = { s.cin with queue := [], long := none, slots := (openAll s.cin.queue s).cin.slots } := by
    have hl : (if (loadingSlot (openAll s.cin.queue s)).isSome then none else (openAll s.cin.queue s).cin.long) = none := by
      rw [loadingSlot, hall]
      rcases hlong with h | ⟨c, i, h⟩
      · simp [h]
      · simp [h]
    rw [softOpened, State.setCin_cin, hl, hall]
  have hframe : Frame [.cin] s (softOpened s) := frame_openAll.seq frame_setCin
  have hpage : pageBase (softOpened s) = pageBase s := by rw [pageBase, hframe.wmu]; rfl
  let first := s.cin.waits ++ (loadingSlot s).toList.map fun m => ({ slot := m, res := .reset, after := [] } : DoneWait)
  let queued := s.cin.queue.map fun m => ({ slot := m, res := .reset, after := [] } : DoneWait)
  let own : DoneWait := { slot := n, res := .ok, after := resetSlots s }
  let u := setWaits (first ++ (queued ++ [own])) (softOpened s)
  have hparts : (softOpened s).cin.waits ++ softWaits s ++ [own] = first ++ (queued ++ [own]) := by
    rw [hopened, softWaits, resetSlots, List.map_append, ← List.append_assoc, List.append_assoc (s.cin.waits ++ _)]
  have ht : t = setWaits (pumpWaits [] (first ++ (queued ++ [own])) u).1 (pumpWaits [] (first ++ (queued ++ [own])) u).2 := by
    change softIntake n s = _
    rw [softIntake_eq, hparts]
    rfl
  have hslot : ∀ v : State, v.cin = u.cin → ∀ m, cmdSlot v m = cmdSlot (openAll s.cin.queue s) m := fun v hv m => by
    rw [cmdSlot, hv, show u.cin.slots = (softOpened s).cin.slots from rfl, hopened]
    rfl
  obtain ⟨hcin, ⟨a, b, c, d, hmpa⟩, hbulk, hcell, hsys, -, hwaiting, hgoing⟩ := pumpWaits_spec [] (first ++ (queued ++ [own])) u
  rw [hmpa] at hbulk hcell hsys
  dsimp only at hbulk hcell hsys
  obtain ⟨hcin₁, ⟨a₁, b₁, c₁, d₁, hmpa₁⟩, -⟩ := pumpWaits_spec [] first u
  have hframe₁ : Frame [.serial, .mpa] u (pumpWaits [] first u).2 := frame_pumpWaits
  obtain ⟨hkept₂, hnote₂⟩ := pumpWaits_go (pumpWaits [] first u).1 .reset s.cin.queue (pumpWaits [] first u).2 fun m hm => by
    rw [hslot _ hcin₁, openAll_slot_of_mem hm]
    exact ⟨rfl, rfl⟩
  have hcin₂ : (pumpWaits (pumpWaits [] first u).1 queued (pumpWaits [] first u).2).2.cin = u.cin :=
    (pumpWaits_spec ..).1.trans hcin₁
  have hwhole : pumpWaits [] (first ++ (queued ++ [own])) u = ((pumpWaits [] first u).1 ++ [own],
      (pumpWaits (pumpWaits [] first u).1 queued (pumpWaits [] first u).2).2) := by
    rw [pumpWaits_append, pumpWaits_append, hkept₂, pumpWaits_cons, if_pos]
    · rfl
    · rw [hslot _ hcin₂, openAll_slot_of_not_mem hn, hopen]
      rfl
  have hpageA : pageBase (pumpWaits [] first u).2 = pageBase s := by
    rw [pageBase, hframe₁.wmu, show u.wmu = s.wmu from hframe.wmu]
    rfl
  refine ⟨?_, fun m hm => ?_, ⟨(pumpWaits [] first u).1, ?_⟩, ⟨a₁, (pumpWaits [] first u).2.serial, ?_⟩, fun c hc hcq => ?_⟩
  · have hafter : t.cin = { s.cin with
        queue := [], long := none, slots := (openAll s.cin.queue s).cin.slots, waits := (pumpWaits [] (first ++ (queued ++ [own])) u).1 } := by
      rw [ht]
      change { (pumpWaits [] (first ++ (queued ++ [own])) u).2.cin with waits := (pumpWaits [] (first ++ (queued ++ [own])) u).1 } = _
      rw [hcin, show u.cin = { (softOpened s).cin with waits := first ++ (queued ++ [own]) } from rfl, hopened]
    rw [hafter]
  · rw [ht]
    exact (hslot _ hcin m).trans (openAll_slot_of_mem hm)
  · rw [ht, hwhole]
    rfl
  · have hnote : t.mpa.note = s.mpa.note ++ a₁ ++ s.cin.queue.mapIdx fun i m => ⟨(pumpWaits [] first u).2.serial + i, .done m .reset false,
        .note, true, pageBase s + 64 * m.1, 8, doneBytes .reset false⟩ := by
      rw [ht, hwhole, ← hpageA]
      refine hnote₂.trans (congrArg (· ++ _) ?_)
      rw [hmpa₁, show u.mpa = s.mpa from hframe.mpa]
    rw [← hnote, ht]
    change (pumpWaits [] (first ++ (queued ++ [own])) u).2.mpa = { s.mpa with note := (pumpWaits [] (first ++ (queued ++ [own])) u).2.mpa.note }
    rw [hmpa, hbulk, hcell, hsys, show u.mpa = s.mpa from hframe.mpa]
  · have hmem : ({ slot := c, res := .reset, after := [] } : DoneWait) ∈ first ++ (queued ++ [own]) := by
      rw [← hparts, softWaits]
      exact List.mem_append_left _ (List.mem_append_right _ (List.mem_map.2 ⟨c, hc, rfl⟩))
    have hsame : cmdSlot u c = cmdSlot s c := (hslot u rfl c).trans (openAll_slot_of_not_mem hcq)
    have hw := hwaiting _ hmem
    have hg := hgoing _ hmem
    dsimp only at hw hg
    rw [hsame] at hw hg
    rw [show pageBase u = pageBase s from hpage] at hg
    rw [ht]
    exact ⟨hw, fun h => hg h rfl⟩

theorem softBlocks_scan (s : State) : (softBlocks s).scan = Scan.idle := by
  simp only [softBlocks, State.setDevice_scan, State.setRpu_scan, State.setCec_scan, State.setPdt_scan, State.setLamp_scan]
  rw [frame_putSeq.scan, frame_dropAttempt.scan, State.setFst_scan, State.setSlots_scan, State.setAtb_scan, ← softStopped,
    softStopped_scan]

theorem softBlocks_slots (s : State) : (softBlocks s).slots = Vector.replicate 4 JobSlot.empty := rfl
theorem softBlocks_device (s : State) : (softBlocks s).device = .hold := rfl
theorem softBlocks_pdt (s : State) : (softBlocks s).pdt = Pdt.off := rfl
theorem softBlocks_cec (s : State) : (softBlocks s).cec = { value := 0, armed := false } := rfl

theorem softBlocks_mpa (s : State) : (softBlocks s).mpa = (softStopped s).mpa := by
  simp only [softBlocks, State.setDevice_mpa, State.setRpu_mpa, State.setCec_mpa, State.setPdt_mpa, State.setLamp_mpa]
  rw [frame_putSeq.mpa, frame_dropAttempt.mpa, State.setFst_mpa, State.setSlots_mpa, State.setAtb_mpa, ← softStopped]

theorem loadingSlot_toList (s : State) :
    (loadingSlot s).toList = match s.cin.long with | some (.loadJob c _) => [c] | _ => [] := by
  unfold loadingSlot
  cases s.cin.long with
  | none => rfl
  | some l => cases l <;> rfl

theorem issuerStopped_openSlot (p : MTxn → Bool) (n : Fin 8) (s : State) : (openSlot n s).mpa.issuerStopped p =
    { s.mpa.issuerStopped p with note := s.mpa.note ++ [⟨s.serial, .taken n, .note, true, pageBase s + 64 * n.1, 4, takenBytes⟩] } := rfl

/-- What a RESET_PART is taken beside: nothing, or a LOAD_JOB (R168). -/
theorem idleFor_cases {s : State} {n : Fin 8} (h : idleFor s n = true) : s.cin.long = none ∨ ∃ c i, s.cin.long = some (.loadJob c i) := by
  cases hl : s.cin.long with
  | none => exact .inl rfl
  | some l =>
    cases l with
    | loadJob c i => exact .inr ⟨c, i, rfl⟩
    | _ => simp [idleFor, hl] at h

/-- The arbiter that the blocks of a soft reset leave, the take's request among its NOTE requests (R163, R174). -/
theorem softBlocks_taken_mpa (n : Fin 8) (s : State) : ∃ k l,
    (softBlocks (openSlot n s)).mpa = { s.mpa.issuerStopped (softStops s) with
      note := s.mpa.note ++ [⟨s.serial, .taken n, .note, true, pageBase s + 64 * n.1, 4, takenBytes⟩] ++ l,
      cell := (s.mpa.issuerStopped (softStops s)).cell ++ readsOf k (notScan s.mge.port) } := by
  have hopen : Frame [.cin, .serial, .mpa] s (openSlot n s) := frame_openSlot
  have hstops : softStops (openSlot n s) = softStops s := by
    funext x
    rw [softStops, hopen.atb, hopen.mge]
    rfl
  obtain ⟨k, l, hmpa⟩ := softStopped_mpa (openSlot n s)
  rw [hstops, hopen.mge, issuerStopped_openSlot] at hmpa
  exact ⟨k, l, by rw [softBlocks_mpa, hmpa]⟩

/-- Settles O25: the blocks stop and reset, and then the intake completes the queue and the RESET_PART behind it. -/
theorem resetPartClearsAndCompletes : Obligations.ResetPartClearsAndCompletes := by
  intro s n ht hc
  have hrun : exec .resetPart s = .next (softIntake n (softBlocks (openSlot n s))) := congrArg Host.Outcome.next (takeCmd_of ht hc)
  have hlong := idleFor_cases (takes_room ht).2.1
  obtain ⟨htaken, -, -, -, -⟩ := openSlot_taken n s
  obtain ⟨hqueue, hshadow, hself, hothers, -⟩ := htaken
  have hopen : Frame [.cin, .serial, .mpa] s (openSlot n s) := frame_openSlot
  have hcin : (softBlocks (openSlot n s)).cin = (openSlot n s).cin := frame_softBlocks.cin
  have hslot : ∀ m, cmdSlot (softBlocks (openSlot n s)) m = cmdSlot (openSlot n s) m := fun m => by rw [cmdSlot, hcin]; rfl
  obtain ⟨k₀, l, hmpa⟩ := softBlocks_taken_mpa n s
  have hareas := softBlocks_areas (openSlot n s)
  have hsweep := softBlocks_sweep (openSlot n s)
  have hfst := softBlocks_fst (openSlot n s)
  have hmge := softBlocks_mge (openSlot n s)
  have hlamp := softBlocks_lamp (openSlot n s)
  have hrpu := softBlocks_rpu (openSlot n s)
  have hscan := softBlocks_scan (openSlot n s)
  have hslots := softBlocks_slots (openSlot n s)
  have hdevice := softBlocks_device (openSlot n s)
  have hpdt := softBlocks_pdt (openSlot n s)
  have hcec := softBlocks_cec (openSlot n s)
  have hframe : Frame [.device, .slots, .atb, .fst, .scan, .mge, .lamp, .pdt, .cec, .rpu, .cin, .mpa, .serial] s (softBlocks (openSlot n s)) :=
    (hopen.trans frame_softBlocks).wide
  have hlongOpen : (openSlot n s).cin.long = s.cin.long := rfl
  have hdueOpen : (openSlot n s).cin.takeDue = false := rfl
  rw [hopen.atb] at hareas
  rw [hopen.fst] at hfst
  rw [hopen.mge] at hmge
  rw [hopen.lamp] at hlamp
  rw [hopen.rpu] at hrpu
  generalize softBlocks (openSlot n s) = v at hrun hcin hslot hmpa hareas hsweep hfst hmge hlamp hrpu hscan hslots hdevice hpdt hcec hframe
  have hqueueV : v.cin.queue = s.cin.queue.filter (fun m => m != n) := by rw [hcin, hqueue]
  have hnot : n ∉ v.cin.queue := by rw [hqueueV]; simp
  have hlongV : v.cin.long = s.cin.long := by rw [hcin, hlongOpen]
  have hreset : resetSlots v = (match s.cin.long with | some (.loadJob c _) => [c] | _ => []) ++ v.cin.queue := by
    rw [resetSlots, loadingSlot_toList, hlongV]
  have hpage : pageBase v = pageBase s := by rw [pageBase, hframe.wmu]; rfl
  obtain ⟨hcinT, hopened, ⟨ws, hws⟩, ⟨pre, k, hmpaT⟩, hloading⟩ := softIntake_spec hnot (by rw [hslot, hself]) (by rw [hlongV]; exact hlong)
  have hint : Frame [.cin, .serial, .mpa] v (softIntake n v) := frame_softIntake
  have htaken : (⟨s.serial, .taken n, .note, true, pageBase s + 64 * n.1, 4, takenBytes⟩ : MTxn) ∈
      [⟨s.serial, .taken n, .note, true, pageBase s + 64 * n.1, 4, takenBytes⟩] ++ l ++ pre := by simp
  have hmpaNew : (softIntake n v).mpa = { s.mpa.issuerStopped (softStops s) with
      note := s.mpa.note ++ ([⟨s.serial, .taken n, .note, true, pageBase s + 64 * n.1, 4, takenBytes⟩] ++ l ++ pre) ++
        (s.cin.queue.filter fun m => m != n).mapIdx fun i m => ⟨k + i, .done m .reset false, .note, true, pageBase s + 64 * m.1, 8, doneBytes .reset false⟩,
      cell := (s.mpa.issuerStopped (softStops s)).cell ++ readsOf k₀ (notScan s.mge.port) } := by
    rw [hmpaT, hmpa, hqueueV, hpage]
    simp only [List.append_assoc]
  have hmgeT : (softIntake n v).mge = { s.mge with pixels := [], seq := Seq.idle, port := (portOn (notScan s.mge.port)).map CellAcc.unhanded } :=
    hint.mge.trans hmge
  refine ⟨softIntake n v, hrun, hint.device.trans hdevice, fun i => ?slots, fun i => ?areas, ?sweep, fun b => ?bank, ?comp,
    hint.scan.trans hscan, ?live, hmgeT, ⟨k₀, ?mpa⟩, hint.lamp.trans hlamp, hint.pdt.trans hpdt, hint.cec.trans hcec,
    hint.rpu.trans hrpu, ?shadow, ?queue, ?long, ?due, ⟨_, k, ws, htaken, ?note, ?waits⟩, fun m hm hne => ?opened,
    fun c i hl hne hcq => ?loading, (hframe.trans hint).wide⟩
  case slots =>
    rw [hint.slots, hslots, vget_replicate]
    exact ⟨rfl, rfl, rfl⟩
  case areas => rw [hint.atb, hareas]
  case sweep => rw [hint.atb, hsweep]
  case bank =>
    rw [hint.fst, hfst, vget_map]
    rfl
  case comp => rw [hint.fst, hfst]
  case live =>
    rw [liveMerges, hmgeT]
    exact live_unhanded _
  case mpa => rw [hmpaNew]; rfl
  case shadow => rw [hcinT, hcin, hshadow]
  case queue => rw [hcinT]
  case long => rw [hcinT]
  case due => rw [hcinT, hcin, hdueOpen]
  case note => rw [hmpaNew]
  case waits => exact hws.trans (congrArg (fun q => ws ++ [(⟨n, .ok, q⟩ : DoneWait)]) (hreset.trans (congrArg (_ ++ ·) hqueueV)))
  case opened => exact hopened m (by rw [hqueueV]; simp [hm, hne])
  case loading =>
    have hcinT' : (softIntake n v).cin.queue = [] := by rw [hcinT]
    have hsame : cmdSlot v c = cmdSlot s c := by rw [hslot, hothers c hne]
    obtain ⟨hw, hg⟩ := hloading c (by rw [hreset, hl]; exact List.mem_cons_self) (by rw [hqueueV]; simp [hcq])
    rw [hsame] at hw hg
    rw [hpage] at hg
    refine ⟨by rw [hcinT], ?_, hw, hg⟩
    rw [TakeJudged, takable_nil hcinT', hcinT, hcin, hdueOpen]
    rfl

end Sys2Proof.Machine
end

section
/-! SUPPORT. Reports: the records' bytes (R184 to R187), the served flags (R176), and the drain into the ring (R178 to R181). -/
namespace Sys2Proof.Machine
set_option Elab.async false

/-! ### The bytes of a record -/

/-- Fields stand in ascending order, from an offset on. -/
def FieldsAscend (o : Nat) : List (Nat × Nat × Nat) → Prop
  | [] => True
  | f :: fs => o ≤ f.1 ∧ FieldsAscend (f.1 + f.2.1) fs

/-- Fields in ascending order share no byte. -/
theorem apart_of_ascending {fs : List (Nat × Nat × Nat)} (h : FieldsAscend 0 fs) :
    fs.Pairwise fun f g => f.1 + f.2.1 ≤ g.1 ∨ g.1 + g.2.1 ≤ f.1 := by
  have hfrom : ∀ (l : List (Nat × Nat × Nat)) (o : Nat), FieldsAscend o l → ∀ f ∈ l, o ≤ f.1 := by
    intro l
    induction l with
    | nil => nofun
    | cons g l ih =>
      rintro o ⟨hg, hl⟩ f hf
      rcases List.mem_cons.1 hf with rfl | hf
      · exact hg
      · exact Nat.le_trans hg (Nat.le_trans (Nat.le_add_right ..) (ih _ hl f hf))
  generalize 0 = o at h
  induction fs generalizing o with
  | nil => exact .nil
  | cons f fs ih => exact List.pairwise_cons.2 ⟨fun g hg => .inl (hfrom fs _ h.2 g hg), ih _ h.2⟩

/-- The fields of a report record stand in its bytes, and 0 elsewhere (R184, R186, R187). -/
theorem report_holds (slot tag : Nat) (time : BitVec 32) (b : RepBody) : RecordHolds (Report.bytes ⟨slot, time, tag, b⟩) 64
    ([(0, 1, b.code), (1, 1, slot), (4, 4, time.toNat), (8, 4, tag)] ++ b.fields) := by
  refine recordHolds_layout ?_ ?_
  · cases b <;> simp [RepBody.fields]
  · refine apart_of_ascending ?_
    cases b <;> simp [RepBody.fields, FieldsAscend]

theorem recordHolds_congr {bs : List Byte} {n : Nat} {fs gs : List (Nat × Nat × Nat)} (h : RecordHolds bs n fs)
    (hm : ∀ f, f ∈ gs ↔ f ∈ fs) : RecordHolds bs n gs := by
  obtain ⟨hlen, hfields, hzero⟩ := h
  exact ⟨hlen, fun o w v hg => hfields o w v ((hm _).1 hg), fun i hi hno => hzero i hi fun o w v hf => hno o w v ((hm _).2 hf)⟩

/-- What stands behind a part of a list is in the list wherever it stands. -/
theorem mem_moved {α : Type} (n : Nat) (pre l moved rest : List α) (x : α) :
    x ∈ pre ++ (l ++ (moved ++ rest)) ↔ x ∈ pre ++ (l.take n ++ (moved ++ (l.drop n ++ rest))) := by
  have hl : x ∈ l ↔ x ∈ l.take n ∨ x ∈ l.drop n := by rw [← List.mem_append, List.take_append_drop]
  simp only [List.mem_append, hl, or_assoc]
  exact or_congr_right (or_congr_right or_left_comm)

theorem toNat_eq_ite (b : Bool) : b.toNat = if b then 1 else 0 := by cases b <;> rfl

/-! ### The busy slot and the running job -/

theorem busySlot_iff {s : State} (h : OneBusy s) (i : Fin 4) : busySlot s = some i ↔ (vget s.slots i).state.busy = true := by
  refine ⟨busySlot_busy, fun hi => ?_⟩
  obtain ⟨k, hk⟩ := Option.isSome_iff_exists.1 (busySlot_isSome hi)
  rw [hk, h k i (busySlot_busy hk) hi]

theorem running_iff {s : State} (h : OneBusy s) (i : Fin 4) (j : JobRecord) : running s = some (i, j) ↔
    (vget s.slots i).state = .active ∧ (vget s.slots i).job = some j ∧ (vget s.slots i).endDue = none := by
  refine ⟨running_active, fun ⟨hstate, hjob, hdue⟩ => ?_⟩
  obtain ⟨k, hk⟩ := Option.isSome_iff_exists.1 ((activeSlot_isSome_iff s).2 ⟨i, hstate⟩)
  have hbusy : ∀ l, (vget s.slots l).state = .active → (vget s.slots l).state.busy = true := fun l hl => by rw [hl]; rfl
  have hki : k = i := h k i (hbusy k (activeSlot_active hk)) (hbusy i hstate)
  subst hki
  simp [running, hk, hjob, hdue]

theorem liveMerges_iff (s : State) : liveMerges s = true ↔ ∃ a ∈ s.mge.port, ∃ m, a.use = .merge m ∧ m.live = true := by
  rw [liveMerges, List.any_eq_true]
  refine exists_congr fun a => and_congr_right fun _ => ?_
  cases hu : a.use <;> simp [CellAcc.isLive, hu]

/-! ### What waits for room (R176) -/

theorem free_le_iff (s : State) (n : Nat) (h : n ≤ 7) : s.free ≤ n ↔ 8 - n ≤ s.rpu.queue.length := by
  change 8 - _ ≤ _ ↔ _
  omega

theorem roomFor_le_one (c : Option Cmd) : roomFor c ≤ 1 := by
  cases c with
  | none => exact Nat.zero_le _
  | some c => cases c <;> simp [roomFor]

theorem roomFor_pos_iff {c : Option Cmd} : 1 ≤ roomFor c ↔ c = some .abortJob ∨ c = some .hold ∨ c = some .snapshot := by
  cases c with
  | none => simp [roomFor]
  | some c => cases c <;> simp [roomFor]

/-- The command that waits for room is the oldest: a RESET_PART needs none. -/
theorem chosen_room {s : State} {n : Fin 8} (hc : chosen s = some n) (hr : 1 ≤ roomFor (cmdOf s n)) :
    ∃ rest, s.cin.queue = n :: rest ∧ ∀ m ∈ s.cin.queue, cmdOf s m ≠ some .resetPart := by
  unfold chosen at hc
  split at hc
  next k hk =>
    have hreset := List.find?_some hk
    rw [Option.some.inj hc] at hreset
    rw [beq_iff_eq.1 hreset] at hr
    cases hr
  next hnone =>
    obtain ⟨rest, hq⟩ := List.head?_eq_some_iff.1 hc
    exact ⟨rest, hq, fun m hm h => List.find?_eq_none.1 hnone m hm (beq_iff_eq.2 h)⟩

theorem commandWaits_iff (s : State) : commandWaits s = true ↔
    ∃ n rest, s.cin.queue = n :: rest ∧ (∀ m ∈ s.cin.queue, cmdOf s m ≠ some .resetPart) ∧ 8 ≤ s.rpu.queue.length ∧
      ((s.cin.long = none ∧ (cmdOf s n = some .abortJob ∨ cmdOf s n = some .hold ∨ cmdOf s n = some .snapshot)) ∨
       ((∃ c i, s.cin.long = some (.loadJob c i)) ∧ (cmdOf s n = some .abortJob ∨ cmdOf s n = some .snapshot))) := by
  have hfull := free_le_iff s 0 (by omega)
  constructor
  · intro h
    cases hc : chosen s with
    | none => simp [commandWaits, hc] at h
    | some n =>
      simp only [commandWaits, hc, Bool.and_eq_true, decide_eq_true_eq] at h
      obtain ⟨hidle, hroom⟩ := h
      have hmost := roomFor_le_one (cmdOf s n)
      have hneeds : 1 ≤ roomFor (cmdOf s n) := by omega
      obtain ⟨rest, hq, hno⟩ := chosen_room hc hneeds
      refine ⟨n, rest, hq, hno, hfull.1 (by omega), ?_⟩
      have hnames := roomFor_pos_iff.1 hneeds
      rcases idleFor_cases hidle with hl | hl
      · exact .inl ⟨hl, hnames⟩
      · refine .inr ⟨hl, ?_⟩
        obtain ⟨c, i, hl⟩ := hl
        rcases hnames with hn | hn | hn
        · exact .inl hn
        · simp [idleFor, hl, hn, besideLoad] at hidle
        · exact .inr hn
  · rintro ⟨n, rest, hq, hno, hlen, hcases⟩
    have hc : chosen s = some n := chosen_oldest hq (fun m hm => hno m (by rw [hq]; exact List.mem_cons_of_mem _ hm))
      (hno n (by rw [hq]; exact List.mem_cons_self))
    have hneeds : 1 ≤ roomFor (cmdOf s n) := by
      rcases hcases with ⟨-, h⟩ | ⟨-, h | h⟩
      · exact roomFor_pos_iff.2 h
      · rw [h]; exact Nat.le_refl _
      · rw [h]; exact Nat.le_refl _
    have hidle : idleFor s n = true := by
      rcases hcases with ⟨hl, -⟩ | ⟨⟨c, i, hl⟩, h | h⟩
      · rw [idleFor, hl]
      · simp [idleFor, hl, hq, h, besideLoad]
      · simp [idleFor, hl, hq, h, besideLoad]
    have hfree : s.free < roomFor (cmdOf s n) := Nat.lt_of_le_of_lt (hfull.2 hlen) hneeds
    simp [commandWaits, hc, hidle, hfree]

theorem transitionWaits_iff (s : State) : transitionWaits s = true ↔
    (∃ i, busySlot s = some i ∧ ((vget s.slots i).startDue = true ∨ (vget s.slots i).endDue ≠ none) ∧ 8 ≤ s.rpu.queue.length) ∨
    (∃ i j, running s = some (i, j) ∧ s.mge.seq.endDue ≠ none ∧ liveMerges s = false ∧ 7 ≤ s.rpu.queue.length) ∨
    commandWaits s = true := by
  rw [transitionWaits, Bool.or_eq_true, Bool.or_eq_true, or_assoc]
  refine or_congr ?_ (or_congr_left ?_)
  · have hfull : s.free < 1 ↔ 8 ≤ s.rpu.queue.length := Nat.lt_one_iff.trans (Nat.le_zero.symm.trans (free_le_iff s 0 (by omega)))
    cases busySlot s with
    | none => simp
    | some i => simp [hfull, Option.isSome_iff_ne_none]
  · have hfew : s.free < 2 ↔ 7 ≤ s.rpu.queue.length := Nat.lt_succ_iff.trans (free_le_iff s 1 (by omega))
    cases running s with
    | none => simp
    | some p =>
      obtain ⟨i, j⟩ := p
      simp [hfew, Option.isSome_iff_ne_none, and_assoc]

/-! ### The drain (R178) -/

theorem drainStopped_iff (s : State) : drainStopped s = false ↔
    (∀ n b q, s.cin.long ≠ some (.reportsWait n b q)) ∧ ∀ n, s.cin.long ≠ some (.reportsHead n) := by
  unfold drainStopped
  cases s.cin.long with
  | none => simp
  | some l => cases l <;> simp

theorem drainable_none {s : State} (h : s.rpu.ring = none ∨ s.rpu.queue = []) : drainable s = none := by
  unfold drainable
  rcases h with h | h
  · rw [h]
  · rw [h]; cases s.rpu.ring <;> rfl

theorem drainable_of {s : State} {base : Nat} {r : Report} {rest : List Report} (hring : s.rpu.ring = some base)
    (hq : s.rpu.queue = r :: rest) : drainable s =
      if (s.rpu.head + 64 - s.rpu.tail % 64) % 64 < 63 ∧ s.rpu.busy = none ∧ s.rpu.headWait = false ∧ drainStopped s = false then
        some (base, r) else none := by
  simp only [drainable, hring, hq]
  rfl

theorem flagBody_spec (f : CoalFlag) (s : State) :
    (f = .lamp → flagBody f s = .lamp s.lamp.state (if s.lamp.state = .steady then s.lamp.base.getD 0 else 0)) ∧
    (f = .presence → flagBody f s = .presence s.pdt.presence) ∧
    (f = .cecLevel → flagBody f s = .cecLevel (levelOf s.cec.value) s.cec.value) :=
  ⟨fun h => by rw [h]; rfl, fun h => by rw [h]; rfl, fun h => by rw [h]; rfl⟩

theorem canServe_iff (f : CoalFlag) (s : State) :
    canServe f s = true ↔ s.rpu.flag f = true ∧ s.rpu.queue.length ≤ 5 ∧ transitionWaits s = false := by
  have hroom : 3 ≤ s.free ↔ s.rpu.queue.length ≤ 5 := by
    change 3 ≤ 8 - _ ↔ _
    omega
  simp [canServe, hroom, and_assoc]

/-- Settles O51: the bytes by the layout of each body, then the conditions of R176 and R178 clause by clause. -/
theorem flagsServedAndRecordsWritten : Obligations.FlagsServedAndRecordsWritten := by
  refine ⟨fun slot time tag => ?bytes, ?codes, fun s => ⟨fun h i => ⟨busySlot_iff h i, running_iff h i⟩, liveMerges_iff s, fun h => ?idle,
    ?waits, fun f => ⟨?unserved, fun h => ⟨flagBody f s, ?served, flagBody_spec f s⟩⟩, fun base r rest hring hq =>
    ⟨?undrained, fun h => ?drained⟩⟩⟩
  case bytes =>
    have holds := report_holds slot tag time
    refine ⟨fun gen depth => holds _, fun k depth held done dup stray rejects u memerr lam => ?_, fun k reason retakes => holds _,
      fun outcome reason kept kind dlo dhi c => ?_, fun v => ?_, fun st base => holds _, fun p => holds _, fun level value => holds _⟩
    · dsimp only
      rw [← toNat_eq_ite]
      exact holds _
    · dsimp only
      rw [← toNat_eq_ite]
      exact holds _
    · simp only [← toNat_eq_ite, List.append_assoc]
      refine recordHolds_congr (holds (.snapshot v)) fun f => ?_
      exact mem_moved 8 _ _ _ _ f
  case codes => decide
  case idle =>
    change execReportRecordWrite s = _
    rw [execReportRecordWrite, drainable_none h]
  case waits => rw [transitionWaits_iff, commandWaits_iff]
  case unserved => exact fun h => if_neg fun hc => h ((canServe_iff f s).1 hc)
  case served =>
    have ⟨_, hroom, _⟩ := h
    have hfree : 1 ≤ s.free := (free_pos_iff s).2 (by omega)
    refine (if_pos ((canServe_iff f s).2 h)).trans ?_
    rw [pushReport_of_free hfree]
    rfl
  case undrained =>
    intro h
    change execReportRecordWrite s = _
    rw [execReportRecordWrite, drainable_of hring hq, if_neg (by rw [drainStopped_iff]; exact h)]
  case drained =>
    refine ⟨(requestM .record .note true (base + 64 * s.rpu.head) 64 r.bytes s).setRpu { s.rpu with busy := some true }, ?_, rfl, rfl,
      frame_requestM.seq frame_setRpu⟩
    change execReportRecordWrite s = _
    rw [execReportRecordWrite, drainable_of hring hq, if_pos (by rw [drainStopped_iff]; exact h)]
    rfl

/-! ### The answers to record and HEAD writes (R178, R179, R181) -/

theorem has_isReportWrite_of_note {m : Mpa} {x : MTxn} (hm : x ∈ m.note) (hx : isReportWrite x = true) : m.has isReportWrite = true := by
  rw [Mpa.has, List.any_eq_true.2 ⟨x, hm, hx⟩]
  rfl

/-- With a HEAD write requested, nothing that waits for the report writes goes on (R177). -/
theorem reportsKick_of_has {s : State} (h : s.mpa.has isReportWrite = true) : reportsKick s = s := by
  unfold reportsKick
  split
  · exact if_pos h
  · rfl

theorem reportsKick_of_other {s : State} (h : ∀ n b q, s.cin.long ≠ some (.reportsWait n b q)) : reportsKick s = s := by
  unfold reportsKick
  split
  next n b q hl => exact absurd hl (h n b q)
  · rfl

theorem advance_rpu (linked : Bool) (s : State) : (advance linked s).rpu = { s.rpu with
    queue := if linked then s.rpu.queue.drop 1 else s.rpu.queue, head := (s.rpu.head + 1) % 64, busy := none,
    headWait := true, headSeq := s.rpu.headSeq + 1 } := rfl

theorem advance_mpa (linked : Bool) (s : State) : (advance linked s).mpa = { s.mpa with note := s.mpa.note ++
    [⟨s.serial, .head ((s.rpu.head + 1) % 64) (s.rpu.headSeq + 1) false, .note, true, pageBase s + 0x200, 4,
      leBytes 4 ((s.rpu.head + 1) % 64)⟩] } := rfl

theorem post_rpu (v seq : Nat) (s : State) : (post v seq s).rpu = { s.rpu with
    posted := if s.rpu.postedSeq < seq then v else s.rpu.posted,
    postedSeq := if s.rpu.postedSeq < seq then seq else s.rpu.postedSeq } := by
  unfold post
  split
  · rfl
  · rfl

theorem post_eq (v seq : Nat) (s : State) : post v seq s = s.setRpu (post v seq s).rpu := by
  unfold post
  split
  · rfl
  · rfl

/-- The note error of an answer changes the latches alone (R170). -/
theorem noteErr_eq (r : Resp) (s : State) : noteErr r s = s.setRpu (noteErr r s).rpu := by
  unfold noteErr
  cases respErr r <;> rfl

/-- The record's answer as the report unit has noted it, before the next take and start (R178). -/
def recordNoted (linked : Bool) (txn : Nat) (r : Resp) (s : State) : State := advance linked (noteErr r (answered txn s))

section
variable (linked : Bool) (txn : Nat) (r : Resp) (s : State)

theorem recordNoted_rpu : (recordNoted linked txn r s).rpu = { s.rpu with
    noteLost := s.rpu.noteLost || respErr r, memerrSeen := s.rpu.memerrSeen || respErr r,
    queue := if linked then s.rpu.queue.drop 1 else s.rpu.queue, head := (s.rpu.head + 1) % 64, busy := none,
    headWait := true, headSeq := s.rpu.headSeq + 1 } := by
  rw [recordNoted, advance_rpu, noteErr_rpu]
  rfl

theorem recordNoted_mpa : (recordNoted linked txn r s).mpa = { s.mpa with
    granted := s.mpa.granted.filter (fun x => x.id != txn)
    note := s.mpa.note ++ [⟨s.serial, .head ((s.rpu.head + 1) % 64) (s.rpu.headSeq + 1) false, .note, true, pageBase s + 0x200, 4,
      leBytes 4 ((s.rpu.head + 1) % 64)⟩] } := by
  rw [recordNoted, advance_mpa, noteErr_eq, State.setRpu_mpa, State.setRpu_rpu, noteErr_rpu]
  rfl

theorem recordNoted_note : ∃ x ∈ (recordNoted linked txn r s).mpa.note, isReportWrite x = true :=
  ⟨_, by rw [recordNoted_mpa]; exact List.mem_append_right _ List.mem_cons_self, rfl⟩

end

theorem frame_recordNoted {linked : Bool} {txn : Nat} {r : Resp} {s : State} :
    Frame [.rpu, .mpa, .serial] s (recordNoted linked txn r s) :=
  ((frame_answered.trans frame_noteErr).trans frame_advance).wide

/-- The part once the answer to a HEAD write of the drain has posted (R179, R181). -/
def headNoted (v seq txn : Nat) (r : Resp) (s : State) : State := post v seq (noteErr r (answered txn s))

section
variable (v seq txn : Nat) (r : Resp) (s : State)

theorem headNoted_rpu : (headNoted v seq txn r s).rpu = { s.rpu with
    noteLost := s.rpu.noteLost || respErr r, memerrSeen := s.rpu.memerrSeen || respErr r
    posted := if s.rpu.postedSeq < seq then v else s.rpu.posted
    postedSeq := if s.rpu.postedSeq < seq then seq else s.rpu.postedSeq } := by
  rw [headNoted, post_rpu, noteErr_rpu]
  rfl

theorem headNoted_eq : headNoted v seq txn r s = { s with
    rpu := (headNoted v seq txn r s).rpu
    mpa := { s.mpa with granted := s.mpa.granted.filter (fun x => x.id != txn) } } := by
  rw [headNoted, post_eq, noteErr_eq]
  rfl

end

/-- Settles O52: the record's answer requests a HEAD write, so that nothing waiting for the last of them goes on then. -/
theorem recordAndHeadAnswersAdvance : Obligations.RecordAndHeadAnswersAdvance := by
  refine fun s txn r => ⟨fun hg => ?record, fun v seq hg => ⟨fun h => ?posted, fun n b q hl hno => ?resumed⟩⟩
  case record =>
    have hrun : exec (.reportRecordResponse txn r) s = .next (reportsKick (if s.rpu.busy.getD false then
        startDecision (takeEvent (recordNoted true txn r s)) else recordNoted (s.rpu.busy.getD false) txn r s)) := by
      change execReportRecordResponse txn r s = _
      rw [execReportRecordResponse, hg]
      cases s.rpu.busy.getD false <;> rfl
    by_cases hlinked : s.rpu.busy = some true
    · simp only [hlinked, if_true]
      have hrpu := recordNoted_rpu true txn r s
      have hmpa := recordNoted_mpa true txn r s
      have hframe : Frame [.rpu, .mpa, .serial] s (recordNoted true txn r s) := frame_recordNoted
      obtain ⟨x, hx, hkind⟩ := recordNoted_note true txn r s
      rw [hlinked, Option.getD_some, if_pos rfl] at hrun
      generalize recordNoted true txn r s = v at hrun hrpu hmpa hframe hx
      refine ⟨takeEvent v, hrun.trans (congrArg _ (reportsKick_of_has ?_)), hrpu, hmpa, ?_, hframe.seq frame_takeEvent⟩
      · exact has_isReportWrite_of_note ((onlyRequests_startDecision (takeEvent v)).note hx) hkind
      · change { v.cin with takeDue := (takable v).isSome } = _
        rw [hframe.cin]
        rfl
    · have hl : s.rpu.busy.getD false = false := by
        cases hb : s.rpu.busy with
        | none => rfl
        | some b => cases b with
          | true => exact absurd hb hlinked
          | false => rfl
      simp only [hlinked, if_false]
      have hframe : Frame [.rpu, .mpa, .serial] s (recordNoted false txn r s) := frame_recordNoted
      obtain ⟨x, hx, hkind⟩ := recordNoted_note false txn r s
      rw [hl, if_neg Bool.false_ne_true, reportsKick_of_has (has_isReportWrite_of_note hx hkind)] at hrun
      exact ⟨_, hrun, recordNoted_rpu .., recordNoted_mpa .., hframe.cin, hframe.wide⟩
  case posted =>
    have hrun : exec (.headWriteResponse txn r) s = .next (reportsKick (headNoted v seq txn r s)) := by
      change execHeadWriteResponse txn r s = _
      rw [execHeadWriteResponse, hg]
      rfl
    have heq := headNoted_eq v seq txn r s
    rw [headNoted_rpu] at heq
    rw [hrun, heq]
    refine congrArg _ ?_
    rcases h with h | h
    · exact reportsKick_of_other h
    · exact reportsKick_of_has h
  case resumed =>
    have hrun : exec (.headWriteResponse txn r) s = .next (reportsKick (headNoted v seq txn r s)) := by
      change execHeadWriteResponse txn r s = _
      rw [execHeadWriteResponse, hg]
      rfl
    have heq := headNoted_eq v seq txn r s
    rw [headNoted_rpu] at heq
    rw [reportsKick_of_go (by rw [heq]; exact hl) (by rw [heq]; exact hno), heq] at hrun
    exact ⟨_, hrun, rfl, rfl, rfl, ((((frame_setRpu.trans frame_setMpa).trans frame_setRpu).trans frame_setLong).seq frame_requestHead)⟩

end Sys2Proof.Machine
end

section
/-! SUPPORT. The arbiter's grant (R162), and what a grant lets its issuer do next (R11, R89, R91, R95, R178). -/
namespace Sys2Proof.Machine
set_option Elab.async false

/-! ### The class granted (R162) -/

theorem candidate_iff (m : Mpa) (rd wr : Bool) (c : MClass) (x : MTxn) : m.candidate rd wr c = some x ↔
    (∃ xs, m.queueOf c = x :: xs) ∧ (if x.write then wr else rd) = true := by
  unfold Mpa.candidate MTxn.channelReady
  cases m.queueOf c with
  | nil => simp
  | cons t ts =>
    constructor
    · intro h
      dsimp only at h
      by_cases hready : (if t.write then wr else rd) = true
      · rw [if_pos hready] at h
        cases h
        exact ⟨⟨ts, rfl⟩, hready⟩
      · rw [if_neg hready] at h
        cases h
    · rintro ⟨⟨xs, h⟩, hready⟩
      cases h
      exact if_pos hready

theorem candidate_none_iff (m : Mpa) (rd wr : Bool) (c : MClass) : m.candidate rd wr c = none ↔
    ∀ x, ¬ ((∃ xs, m.queueOf c = x :: xs) ∧ (if x.write then wr else rd) = true) :=
  Option.eq_none_iff_forall_ne_some.trans (forall_congr' fun x => not_congr (candidate_iff m rd wr c x))

/-- No class has a candidate: nothing is granted (R162). -/
theorem choose_none {m : Mpa} {rd wr : Bool} (h : ∀ c, m.candidate rd wr c = none) : m.choose rd wr = none :=
  List.find?_eq_none.2 fun c _ => by rw [h c]; nofun

/-- The first class with a candidate is granted (R162). -/
theorem choose_first {m : Mpa} {rd wr : Bool} {pre post : List MClass} {c : MClass} {x : MTxn}
    (horder : .note :: rotation m.last = pre ++ c :: post) (hc : m.candidate rd wr c = some x)
    (hpre : ∀ d ∈ pre, m.candidate rd wr d = none) : m.choose rd wr = some c := by
  have hnone : pre.find? (fun d => (m.candidate rd wr d).isSome) = none :=
    List.find?_eq_none.2 fun d hd => by rw [hpre d hd]; nofun
  rw [Mpa.choose, horder, List.find?_append, hnone, Option.none_or]
  exact List.find?_cons_of_pos (by rw [hc]; rfl)

theorem execMpaGrant_none {s : State} {rd wr : Bool} (h : s.mpa.choose rd wr = none) : exec (.mpaGrant rd wr) s = .next s := by
  change execMpaGrant rd wr s = _
  rw [execMpaGrant, h]

theorem execMpaGrant_some {s : State} {rd wr : Bool} {c : MClass} {x : MTxn} (h : s.mpa.choose rd wr = some c)
    (hx : s.mpa.candidate rd wr c = some x) : exec (.mpaGrant rd wr) s = .next (grantTo c x s) := by
  change execMpaGrant rd wr s = _
  rw [execMpaGrant, h]
  dsimp only
  rw [hx]

theorem grant_queueOf (m : Mpa) (c : MClass) (x : MTxn) : (m.grant c x).queueOf c = (m.queueOf c).drop 1 := by
  cases c <;> rfl

theorem grant_queueOf_ne (m : Mpa) {c d : MClass} (x : MTxn) (h : d ≠ c) : (m.grant c x).queueOf d = m.queueOf d := by
  cases c <;> cases d <;> first | rfl | exact absurd rfl h

/-! ### What a grant lets its issuer request -/

theorem issuedAs_done {s : State} {x : MTxn} {n : Fin 8} {res : Result} {l : Bool} (h : x.kind = .done n res l) :
    issuedAs s x = { x with kind := .done n res (cmdSlot s n).late, bytes := doneBytes res (cmdSlot s n).late } := by
  rw [issuedAs, h]
  rfl

theorem issuedAs_other {s : State} {x : MTxn} (h : ∀ n res l, x.kind ≠ .done n res l) : issuedAs s x = x := by
  unfold issuedAs
  split
  next n res l hk => exact absurd hk (h n res l)
  · rfl

theorem afterGrant_sweep {x : MTxn} {u : State} {w : Sweep} (hx : x.kind = .sweep) (hw : u.atb.sweep = some w) :
    afterGrant x u = if 256 * w.requested < (vget u.atb.areas w.area).size then
      setSweep (some { w with requested := w.requested + 1 }) (requestSweep (vget u.atb.areas w.area) w.requested u) else u := by
  rw [afterGrant, hx]
  dsimp only
  rw [sweepNext, hw]
  rfl

/-- A store at its end, in error, or not in execution requests nothing further (R89). -/
theorem storeNext_stays {u : State} (h : ∀ n b addr done err, u.cin.long = some (.flatStore n b addr done err) →
    err = true ∨ imageLen (vget u.fst.banks b).tw (vget u.fst.banks b).th ≤ done) : storeNext u = u := by
  unfold storeNext
  split
  next n b addr done hlong =>
    rcases h _ _ _ _ _ hlong with h | h
    · cases h
    · exact if_neg (Nat.not_lt.2 h)
  · rfl

/-- A fetch at its last burst, in error, or not in execution requests nothing further (R91). -/
theorem fetchNext_stays {u : State} (h : ∀ n b addr tw th t opn done err g,
    u.cin.long = some (.flatGains n b addr tw th t opn done err g) → err = true ∨ 2 * (tw * th) ≤ done) : fetchNext u = u := by
  unfold fetchNext
  split
  next n b addr tw th t opn done g hlong =>
    rcases h _ _ _ _ _ _ _ _ _ _ hlong with h | h
    · cases h
    · exact if_neg (Nat.not_lt.2 h)
  · rfl

theorem isScan_iff (a : CellAcc) : a.isScan = true ↔ a.use = .scan := by
  unfold CellAcc.isScan
  cases a.use <;> simp

/-- What an access of a port is stays as its read goes: its number, its bytes and its use. -/
theorem mem_portFrom (es as : List CellAcc) {a : CellAcc} (h : a ∈ as) :
    ∃ y ∈ portFrom es as, y.no = a.no ∧ y.use = a.use ∧ y.addr = a.addr ∧ y.len = a.len := by
  induction as generalizing es with
  | nil => cases h
  | cons b as ih =>
    unfold portFrom
    rcases List.mem_cons.1 h with rfl | h
    · refine ⟨_, List.mem_cons_self, ?_⟩
      split
      · exact ⟨rfl, rfl, rfl, rfl⟩
      · exact ⟨rfl, rfl, rfl, rfl⟩
    · obtain ⟨y, hy, hsame⟩ := ih (es ++ [b]) h
      exact ⟨y, List.mem_cons_of_mem _ hy, hsame⟩

theorem beginAccess_mem (use : CellUse) (a n : Nat) (s : State) :
    ∃ y ∈ (beginAccess use a n s).mge.port, y.no = s.serial ∧ y.use = use ∧ y.addr = a ∧ y.len = n := by
  rw [(beginAccess_spec use a n s).2]
  exact mem_portFrom [] _ (List.mem_append_right _ List.mem_cons_self)

theorem scanRequest_of {u : State} {j : JobRecord} (hs : u.scan.scanning = true) (hj : (vget u.slots u.scan.slot).job = some j) :
    scanRequest u = if u.scan.next < j.w * j.h then
      let a := (vget u.atb.areas j.areaNo).base + 8 * u.scan.next
      let len := burstLen a (8 * (j.w * j.h - u.scan.next))
      beginAccess .scan a len (u.setScan { u.scan with next := u.scan.next + len / 8 }) else u := by
  unfold scanRequest
  rw [hs, hj]
  rfl

theorem scanRequest_off {u : State} (h : u.scan.scanning = false ∨
    ∀ j, (vget u.slots u.scan.slot).job = some j → j.w * j.h ≤ u.scan.next) : scanRequest u = u := by
  unfold scanRequest
  split
  next j hs hj =>
    rcases h with h | h
    · rw [h] at hs; cases hs
    · exact if_neg (Nat.not_lt.2 (h j hj))
  · rfl

theorem scanGranted_of {n : Nat} {u : State} {a : CellAcc} (ha : access? n u = some a) (hu : a.use = .scan) :
    scanGranted n u = scanRequest u := by
  rw [scanGranted, ha]
  exact if_pos ((isScan_iff a).2 hu)

theorem scanGranted_other {n : Nat} {u : State} (h : ∀ a, access? n u = some a → a.use ≠ .scan) : scanGranted n u = u := by
  unfold scanGranted
  split
  next a ha => exact if_neg fun hs => h a ha ((isScan_iff a).1 hs)
  · rfl

/-- Settles O54: the class granted is the first of R162's order with a candidate; then each issuer's next request. -/
theorem grantFollowsRotation : Obligations.GrantFollowsRotation := by
  refine ⟨fun s rd wr => ⟨fun h => ?none, fun pre c post x horder hready hpre => ?granted⟩, fun s x =>
    ⟨fun n res l h => issuedAs_done h, fun h => issuedAs_other h⟩, fun x u => ⟨fun v q h => ?head, fun h => ⟨fun w hw => ?sweep, fun hw => ?noSweep⟩,
    fun h => ⟨fun n b addr done err hl => ?store, fun hl => ?noStore⟩,
    fun f m h => ⟨fun n b addr tw th t opn done err g hl => ?fetch, fun hl => ?noFetch⟩,
    fun n h => ⟨fun a j ha hu hs hj hnext => ?scan, fun hno => ?noScan⟩, fun h₁ h₂ h₃ h₄ h₅ => ?other⟩⟩
  case none => exact execMpaGrant_none (choose_none fun c => (candidate_none_iff ..).2 (h c))
  case granted =>
    have hx := (candidate_iff s.mpa rd wr c x).2 hready
    have hnone : ∀ d ∈ pre, s.mpa.candidate rd wr d = none := fun d hd => (candidate_none_iff ..).2 (hpre d hd)
    have hchosen := choose_first (m := s.mpa) (rd := rd) (wr := wr) (pre := pre) (post := post) (by rw [← horder]; cases s.mpa.last <;> rfl) hx hnone
    exact ⟨s.setMpa (s.mpa.grant c (issuedAs s x)), execMpaGrant_some hchosen hx, frame_setMpa, by cases c <;> rfl, by cases c <;> rfl, grant_queueOf ..,
      fun d hd => grant_queueOf_ne _ _ hd⟩
  case head =>
    rw [afterGrant, h]
    rfl
  case sweep =>
    rw [afterGrant_sweep h hw]
    exact ⟨fun hmore => if_pos hmore, fun hno => if_neg (Nat.not_lt.2 hno)⟩
  case noSweep =>
    rw [afterGrant, h]
    change sweepNext u = u
    rw [sweepNext, hw]
  case store =>
    have hafter : afterGrant x u = storeNext u := by rw [afterGrant, h]
    rw [hafter]
    refine ⟨fun herr hmore => ?_, fun hno => storeNext_stays fun n' b' addr' done' err' hl' => ?_⟩
    · subst herr
      exact storeNext_of hl hmore
    · rw [hl] at hl'
      cases hl'
      exact hno
  case noStore =>
    have hafter : afterGrant x u = storeNext u := by rw [afterGrant, h]
    rw [hafter]
    exact storeNext_stays fun n b addr done err hlong => absurd hlong (hl n b addr done err)
  case fetch =>
    have hafter : afterGrant x u = fetchNext u := by rw [afterGrant, h]
    rw [hafter]
    refine ⟨fun herr hmore => ?_, fun hno => fetchNext_stays fun _ _ _ _ _ _ _ _ _ _ hl' => ?_⟩
    · subst herr
      exact fetchNext_of hl hmore
    · rw [hl] at hl'
      cases hl'
      exact hno
  case noFetch =>
    have hafter : afterGrant x u = fetchNext u := by rw [afterGrant, h]
    rw [hafter]
    exact fetchNext_stays fun _ _ _ _ _ _ _ _ _ _ hlong => absurd hlong (hl _ _ _ _ _ _ _ _ _ _)
  case scan =>
    have hafter : afterGrant x u = scanGranted n u := by rw [afterGrant, h]
    rw [hafter, scanGranted_of ha hu, scanRequest_of hs hj, if_pos hnext]
    let addr := (vget u.atb.areas j.areaNo).base + 8 * u.scan.next
    let len := burstLen addr (8 * (j.w * j.h - u.scan.next))
    obtain ⟨hgo, hmge⟩ := beginAccess_spec .scan addr len (u.setScan { u.scan with next := u.scan.next + len / 8 })
    exact ⟨frame_beginAccess.scan, beginAccess_mem .., hgo, by rw [hmge]; rfl, frame_setScan.seq frame_beginAccess⟩
  case noScan =>
    have hafter : afterGrant x u = scanGranted n u := by rw [afterGrant, h]
    rw [hafter]
    rcases hno with hno | hno
    · exact scanGranted_other hno
    · unfold scanGranted
      split
      next a ha =>
        split
        · exact scanRequest_off hno
        · rfl
      · rfl
  case other =>
    unfold afterGrant
    split
    next v q hk => exact absurd hk (h₁ v q)
    next hk => exact absurd hk h₂
    next hk => exact absurd hk h₃
    next f n hk => exact absurd hk (h₄ f n)
    next n hk => exact absurd hk (h₅ n)
    · rfl

end Sys2Proof.Machine
end

section
/-! SUPPORT. The lamp monitor under measurements (R116 to R125, R144), and the monitors' own events (R61, R67, R122, R132). -/
namespace Sys2Proof.Machine
set_option Elab.async false

/-! ### The lamp's state after a measurement (R119 to R123) -/

theorem inBand_iff (lam base band : Nat) : inBand lam base band = true ↔
    lam ≤ base + base * 2 * (band + 1) / 1024 ∧ base ≤ lam + base * 2 * (band + 1) / 1024 := by
  rw [inBand, decide_eq_true_eq, absDiff]
  generalize base * 2 * (band + 1) / 1024 = half
  split
  · omega
  · omega

theorem settleTest_recovery (l : Lamp) (now : Time) : (l.settleTest now).recovery = l.recovery := by
  unfold Lamp.settleTest
  split
  · rfl
  · rfl

theorem candidate_recovery (l : Lamp) (lam : Nat) (now : Time) : (l.candidate lam now).recovery = l.recovery := by
  unfold Lamp.candidate
  split
  · split
    · rfl
    · rfl
  · rfl

theorem steadyLevel_recovery (l : Lamp) (lam : Nat) (now : Time) : (l.steadyLevel lam now).recovery = l.recovery := by
  unfold Lamp.steadyLevel
  split
  · rfl
  · exact settleTest_recovery ..

/-- A dark measurement makes a SETTLING or STEADY lamp DARK (R119). -/
def Lamp.darkened (l : Lamp) : Lamp :=
  match l.state with
  | .settling => l.dark
  | .steady => l.dark
  | .dark => l
  | .offline => l

theorem darkened_recovery (l : Lamp) : l.darkened.recovery = l.recovery := by
  unfold Lamp.darkened
  split
  · rfl
  · rfl
  · rfl
  · rfl

theorem measured_dim (l : Lamp) (now : Time) : l.measured .dim now = l.darkened := rfl

theorem measured_below {l : Lamp} {lam : Nat} (h : lam < l.cfg.darkLevel) (now : Time) : l.measured (.level lam) now = l.darkened :=
  if_pos h

theorem measured_above {l : Lamp} {lam : Nat} (h : l.cfg.darkLevel ≤ lam) (now : Time) : l.measured (.level lam) now =
    match l.state with
    | .dark => (l.settleWith lam now).settleTest now
    | .settling => (l.candidate lam now).settleTest now
    | .steady => l.steadyLevel lam now
    | .offline => l :=
  (if_neg (Nat.not_lt.2 h)).trans (by rfl)

/-- No measurement changes the recovery count itself (R124, R125 do). -/
theorem measured_recovery (l : Lamp) (m : Meas) (now : Time) : (l.measured m now).recovery = l.recovery := by
  cases m with
  | sat => rfl
  | dim => exact darkened_recovery l
  | level lam =>
    by_cases h : lam < l.cfg.darkLevel
    · rw [measured_below h]
      exact darkened_recovery l
    · rw [measured_above (Nat.not_lt.1 h)]
      split
      · exact settleTest_recovery ..
      · exact (settleTest_recovery ..).trans (candidate_recovery ..)
      · exact steadyLevel_recovery ..
      · rfl

theorem darkened_on {l : Lamp} (h : l.state = .settling ∨ l.state = .steady) : l.darkened = l.dark := by
  unfold Lamp.darkened
  rcases h with h | h
  · rw [h]
  · rw [h]

theorem darkened_off {l : Lamp} (h : ¬ (l.state = .settling ∨ l.state = .steady)) : l.darkened = l := by
  unfold Lamp.darkened
  split
  next hs => exact absurd (.inl hs) h
  next hs => exact absurd (.inr hs) h
  · rfl
  · rfl

theorem candidate_in {l : Lamp} {lam c : Nat} {now : Time} (hc : l.cand = some c) (hin : inBand lam c l.cfg.band = true) :
    l.candidate lam now = { l with settleCount := min 64 (l.settleCount + 1) } := by
  rw [Lamp.candidate, hc]
  exact if_pos hin

theorem candidate_anew {l : Lamp} {lam : Nat} {now : Time} (h : ∀ c, l.cand = some c → inBand lam c l.cfg.band = false) :
    l.candidate lam now = l.settleWith lam now := by
  unfold Lamp.candidate
  split
  next c hc => exact if_neg (by rw [h c hc]; nofun)
  · rfl

theorem steadyLevel_in {l : Lamp} {lam b : Nat} {now : Time} (hb : l.base = some b) (hin : inBand lam b l.cfg.band = true) :
    l.steadyLevel lam now = { l with last := Timer.startAt now l.cfg.staleMs } :=
  if_pos (by rw [hb]; exact hin)

theorem steadyLevel_out {l : Lamp} {lam b : Nat} {now : Time} (hb : l.base = some b) (hout : inBand lam b l.cfg.band = false) :
    l.steadyLevel lam now = (l.settleWith lam now).settleTest now :=
  if_neg (by rw [hb, Option.getD_some, hout]; nofun)

/-! ### A measurement applied to the part (R117, R124, R125) -/

/-- The lamp, its latch and its flag after a measurement, before its start decision and its recovery count (R124). -/
def lampTaken (m : Meas) (s : State) : State :=
  { s with
    lamp := { s.lamp.measured m s.time with recovery := if s.lamp.departs m then 0 else s.lamp.recovery }
    rpu := { s.rpu with
      lampLeftSteady := s.rpu.lampLeftSteady || s.lamp.departs m
      fLamp := s.rpu.fLamp || decide (s.lamp.departs m = true ∨ (s.lamp.measured m s.time).state ≠ s.lamp.state) } }

/-- The part after a measurement, before it is counted for recovery (R124, R60). -/
def lampTold (m : Meas) (s : State) : State :=
  if s.lamp.departs m = true ∨ (s.lamp.measured m s.time).state ≠ s.lamp.state then startDecision (lampTaken m s)
  else lampTaken m s

theorem lampTold_lamp (m : Meas) (s : State) : (lampTold m s).lamp = (lampTaken m s).lamp := by
  unfold lampTold
  split
  · exact frame_startDecision.lamp
  · rfl

theorem lampTold_cec (m : Meas) (s : State) : (lampTold m s).cec = s.cec := by
  unfold lampTold
  split
  · exact frame_startDecision.cec
  · rfl

theorem applyMeas_eq (m : Meas) (s : State) :
    applyMeas m s = match m with
      | .level _ => countRecovery (lampTold m s)
      | _ => lampTold m s := by
  have hrec := measured_recovery s.lamp m s.time
  have hstate : (if (s.lamp.measured m s.time).state = s.lamp.state ∧ s.lamp.departs m = false then
      (if s.lamp.departs m then departure (s.setLamp (s.lamp.measured m s.time)) else s.setLamp (s.lamp.measured m s.time)) else
      lampChanged (if s.lamp.departs m then departure (s.setLamp (s.lamp.measured m s.time)) else s.setLamp (s.lamp.measured m s.time))) =
      lampTold m s := by
    unfold lampTold lampTaken
    generalize s.lamp.measured m s.time = l at hrec
    rw [← hrec]
    cases hgone : s.lamp.departs m with
    | true => simp; rfl
    | false =>
      by_cases hst : l.state = s.lamp.state
      · have hsame : ¬ (false = true ∨ l.state ≠ s.lamp.state) := by simp [hst]
        rw [if_pos ⟨hst, rfl⟩, if_neg hsame, decide_eq_false hsame, Bool.or_false, Bool.or_false]
        rfl
      · have hchanged : false = true ∨ l.state ≠ s.lamp.state := .inr hst
        rw [if_neg (fun h => hst h.1), if_pos hchanged, decide_eq_true hchanged, Bool.or_true, Bool.or_false]
        rfl
  cases m with
  | level lam => exact congrArg countRecovery hstate
  | _ => exact hstate

/-- Whether a measurement is a level, the usable kind that recovery counts (R125). -/
def Meas.isLevel : Meas → Bool
  | .level _ => true
  | _ => false

/-- A measurement counts for recovery (R125). -/
def CountsForRecovery (m : Meas) (s : State) : Prop :=
  m.isLevel = true ∧ s.cec.armed = true ∧ (s.lamp.measured m s.time).state = .steady

theorem countRecovery_stays {s : State} (h : ¬ (s.cec.armed = true ∧ s.lamp.state = .steady)) : countRecovery s = s := if_neg h

theorem countRecovery_counts {s : State} (ha : s.cec.armed = true) (hs : s.lamp.state = .steady) (hn : ¬ 64 ≤ s.lamp.recovery + 1) :
    countRecovery s = s.setLamp { s.lamp with recovery := s.lamp.recovery + 1 } :=
  (if_pos ⟨ha, hs⟩).trans (if_neg hn)

theorem countRecovery_full {s : State} (ha : s.cec.armed = true) (hs : s.lamp.state = .steady) (hn : 64 ≤ s.lamp.recovery + 1) :
    countRecovery s = completeRecovery s :=
  (if_pos ⟨ha, hs⟩).trans (if_pos hn)

/-- Recovery completes (R144, R141): at the level NORMAL the counter's level does not change, at any other it does. -/
theorem completeRecovery_normal {s : State} (h : levelOf s.cec.value = .normal) : completeRecovery s =
    { s with lamp := { s.lamp with recovery := 0 }, cec := { value := 0, armed := false } } :=
  if_pos (h.symm ▸ rfl)

theorem completeRecovery_changed {s : State} (h : levelOf s.cec.value ≠ .normal) : completeRecovery s =
    startDecision { s with
      lamp := { s.lamp with recovery := 0 }, cec := { value := 0, armed := false }, rpu := { s.rpu with fCecLevel := true } } :=
  if_neg fun hl => h (hl.symm.trans rfl)

theorem lampTold_recovery (m : Meas) (s : State) : (lampTold m s).lamp = { s.lamp.measured m s.time with
    recovery := if s.lamp.departs m then 0 else s.lamp.recovery } := lampTold_lamp m s

/-- A measurement that does not count for recovery leaves what it tells the monitors (R125). -/
theorem applyMeas_uncounted {m : Meas} {s : State} (h : ¬ CountsForRecovery m s) : applyMeas m s = lampTold m s := by
  rw [applyMeas_eq]
  cases m with
  | level lam =>
    refine countRecovery_stays fun ⟨ha, hs⟩ => h ⟨rfl, ?_, ?_⟩
    · rwa [lampTold_cec] at ha
    · rwa [lampTold_recovery] at hs
  | _ => rfl

theorem applyMeas_counted {m : Meas} {s : State} (h : CountsForRecovery m s) : (lampTold m s).cec.armed = true ∧
    (lampTold m s).lamp.state = .steady ∧ applyMeas m s = countRecovery (lampTold m s) := by
  obtain ⟨hm, ha, hs⟩ := h
  refine ⟨by rwa [lampTold_cec], by rwa [lampTold_recovery], ?_⟩
  rw [applyMeas_eq]
  cases m with
  | level lam => rfl
  | _ => cases hm

theorem departs_eq (l : Lamp) (m : Meas) : l.departs m = match m with
    | .sat => false
    | .dim => decide (l.state = .steady)
    | .level lam => decide (l.state = .steady ∧ (lam < l.cfg.darkLevel ∨ inBand lam (l.base.getD 0) l.cfg.band = false)) := by
  have hbeq : (l.state == .steady) = decide (l.state = .steady) := rfl
  cases m with
  | sat => exact Bool.and_false _
  | dim => exact Bool.and_true _
  | level lam =>
    dsimp only [Lamp.departs]
    rw [Bool.eq_iff_iff]
    simp

/-- Settles O49: the measurement, then the lamp's state case by case, and what the application adds for R124 and R125. -/
theorem lampFollowsMeasurements : Obligations.LampFollowsMeasurements := by
  refine ⟨fun p sum count e sat => ⟨fun h => if_pos h, fun h hd => ?dim, fun h hd => ?level⟩, fun m s => ?applied, inBand_iff, fun l now lam => ?lamp⟩
  case dim => exact (if_neg (by rw [h]; nofun)).trans (if_pos hd)
  case level => exact (if_neg (by rw [h]; nofun)).trans (if_neg (Nat.not_lt.2 hd))
  case applied =>
    intro l l' gone level changed n counts full x y
    have hgone : gone = s.lamp.departs m := by
      refine Eq.trans ?_ (departs_eq s.lamp m).symm
      cases m <;> rfl
    have hlevel : level = m.isLevel := by cases m <;> rfl
    clear_value gone level
    subst hgone hlevel
    have hy : y = lampTold m s := rfl
    have hn : (lampTold m s).lamp.recovery = n := by rw [lampTold_recovery]
    have hlamp := lampTold_recovery m s
    have hcec := lampTold_cec m s
    refine ⟨fun h => applyMeas_uncounted h, fun h hfew => ?_, fun hfull hlv => ?_, fun hfull hlv => ?_⟩
    · obtain ⟨ha, hs, heq⟩ := applyMeas_counted h
      rw [heq, countRecovery_counts ha hs (by rw [hn]; exact fun hm => hfew ⟨h, hm⟩), hn, hlamp] <;> rfl
    · obtain ⟨h, hmany⟩ := hfull
      obtain ⟨ha, hs, heq⟩ := applyMeas_counted h
      rw [heq, countRecovery_full ha hs (by rw [hn]; exact hmany), completeRecovery_normal (by rw [hcec]; exact hlv), hlamp] <;> rfl
    · obtain ⟨h, hmany⟩ := hfull
      obtain ⟨ha, hs, heq⟩ := applyMeas_counted h
      rw [heq, countRecovery_full ha hs (by rw [hn]; exact hmany), completeRecovery_changed (by rw [hcec]; exact hlv), hlamp] <;> rfl
  case lamp =>
    intro begun dark steady settled on
    have hsettled : ∀ x : Lamp, x.settleTest now = settled x := fun x => rfl
    refine ⟨rfl, fun h => ⟨darkened_on h, fun hd => (measured_below hd now).trans (darkened_on h)⟩,
      fun h => ⟨darkened_off h, fun hd => (measured_below hd now).trans (darkened_off h)⟩, fun hd => ?_⟩
    have hm := measured_above hd now
    have hdark : l.state = .dark → l.measured (.level lam) now = (l.settleWith lam now).settleTest now := fun h => by rw [hm, h]
    have hsettling : l.state = .settling → l.measured (.level lam) now = (l.candidate lam now).settleTest now := fun h => by rw [hm, h]
    have hsteady : l.state = .steady → l.measured (.level lam) now = l.steadyLevel lam now := fun h => by rw [hm, h]
    exact ⟨fun h => by rw [hm, h], hdark,
      fun h c hc hin => (hsettling h).trans (congrArg (Lamp.settleTest · now) (candidate_in hc hin)),
      fun h hno => (hsettling h).trans (congrArg (Lamp.settleTest · now) (candidate_anew hno)),
      fun b h hb hin => (hsteady h).trans (steadyLevel_in hb hin),
      fun b h hb hout => (hsteady h).trans (steadyLevel_out hb hout)⟩

end Sys2Proof.Machine
end

section
/-! SUPPORT. The monitors' own events: presence changes (R67, R132), staleness (R122), the guard time (R61) and a completed
recovery (R144). -/
namespace Sys2Proof.Machine
set_option Elab.async false

/-! ### What a presence change does to the job it acts on (R67) -/

/-- The kind of job that a presence ends (R67). -/
def PresenceEnds (j : JobRecord) (v : Presence) : Prop := (j.kind = .plate ∧ v = .absent) ∨ (j.kind = .flat ∧ v = .present)

theorem presenceActs_none {v : Presence} {s : State} (h : busySlot s = none) : presenceActs v s = s := by
  rw [presenceActs, h]

/-- What ends a job when presence changes (R67). -/
def presenceReason (j : JobRecord) : EndReason := if j.kind = .plate then .plateGone else .platePlaced

section
variable {v : Presence} {s : State} {i : Fin 4} {j : JobRecord}

theorem presenceActs_ends (hb : busySlot s = some i) (hj : (vget s.slots i).job = some j) (hnone : (vget s.slots i).endDue = none)
    (hf : (vget s.slots i).state ≠ .finishing) (hk : PresenceEnds j v) :
    presenceActs v s = failDue i (presenceReason j) (leaveState (vget s.slots i).state j.kind s) := by
  rcases hk with ⟨hk, rfl⟩ | ⟨hk, rfl⟩
  · simp [presenceActs, presenceReason, hb, hj, hnone, hf, hk]
  · simp [presenceActs, presenceReason, hb, hj, hnone, hf, hk]

theorem presenceActs_of (hb : busySlot s = some i) (hj : (vget s.slots i).job = some j) (hnone : (vget s.slots i).endDue = none)
    (hf : (vget s.slots i).state ≠ .finishing) (hk : PresenceEnds j v) : presenceActs v s = putSlot i { vget s.slots i with
      endDue := some (JobEnd.without .failed (presenceReason j) j), startDue := false }
      (leaveState (vget s.slots i).state j.kind s) := by
  have hsl : (leaveState (vget s.slots i).state j.kind s).slots = s.slots := frame_leaveState.slots
  rw [presenceActs_ends hb hj hnone hf hk, failDue_of (j := j) _ (by rw [hsl]; exact hj) (by rw [hsl]; exact hnone), hsl]

theorem presenceActs_not (hb : busySlot s = some i) (hj : (vget s.slots i).job = some j)
    (h : ¬ ((vget s.slots i).endDue = none ∧ (vget s.slots i).state ≠ .finishing ∧ PresenceEnds j v)) : presenceActs v s = s := by
  rw [presenceActs, hb]
  dsimp only
  rw [hj]
  dsimp only
  split
  · rfl
  next hgate =>
    have hopen : (vget s.slots i).endDue = none ∧ (vget s.slots i).state ≠ .finishing := by simpa using hgate
    split
    next hk => exact absurd ⟨hopen.1, hopen.2, .inl ⟨hk, rfl⟩⟩ h
    next hk => exact absurd ⟨hopen.1, hopen.2, .inr ⟨hk, rfl⟩⟩ h
    · rfl

end

/-- Presence has changed: the detector, its flag and its latch, before the job it acts on (R132). -/
def presenceTold (v : Presence) (s : State) : State :=
  (s.setPdt { s.pdt with presence := v, debounce := 0 }).setRpu { s.rpu with fPresence := true, presenceChanged := true }

theorem frame_presenceTold {v : Presence} {s : State} : Frame [.pdt, .rpu] s (presenceTold v s) :=
  (frame_setPdt (s := s)).trans frame_setRpu

theorem changePresence_eq (v : Presence) (s : State) : changePresence v s = startDecision (presenceActs v (presenceTold v s)) := rfl

/-- The busy slot that is not finishing is STARTING or ACTIVE. -/
theorem busy_unfinished {x : SlotState} (h : x.busy = true) (hf : x ≠ .finishing) : x = .starting ∨ x = .active := by
  cases x with
  | starting => exact .inl rfl
  | active => exact .inr rfl
  | finishing => exact absurd rfl hf
  | _ => cases h

theorem completeRecovery_lastMeas (s : State) : exec .recoveryComplete s =
    if s.cec.armed = true ∧ s.lamp.state = .steady ∧ s.lamp.recovery + 1 = 64 then
      .next (completeRecovery { s with lamp := { s.lamp with last := ⟨s.time, decide (s.lamp.cfg.staleMs = 0)⟩ } }) else .next s := rfl

theorem stopSweep_note (s : State) : (stopSweep s).mpa.note = s.mpa.note := by
  unfold stopSweep
  split
  · rfl
  · rfl

/-- A presence change leaves the finish scan and the banks: no finishing job's state is left (R67). -/
theorem frame_presenceActs_narrow {v : Presence} {s : State} : Frame [.slots, .atb, .mge, .mpa] s (presenceActs v s) := by
  cases hb : busySlot s with
  | none =>
    rw [presenceActs_none hb]
    exact Frame.refl
  | some i =>
    cases hj : (vget s.slots i).job with
    | none =>
      have hsame : presenceActs v s = s := by
        rw [presenceActs, hb]
        dsimp only
        rw [hj]
      rw [hsame]
      exact Frame.refl
    | some j =>
      by_cases h : (vget s.slots i).endDue = none ∧ (vget s.slots i).state ≠ .finishing ∧ PresenceEnds j v
      · obtain ⟨hnone, hf, hk⟩ := h
        rw [presenceActs_of hb hj hnone hf hk]
        rcases busy_unfinished (busySlot_busy hb) hf with hst | hst
        · rw [hst, leaveState_starting]
          exact frame_stopSweep.seq frame_putSlot
        · rw [hst, leaveState_active]
          exact frame_dropAttempt.seq frame_putSlot
      · rw [presenceActs_not hb hj h]
        exact Frame.refl

/-- Settles O50: the four events row by row, the presence change by what it does to the busy job. -/
theorem monitorEventsTakeEffect : Obligations.MonitorEventsTakeEffect := by
  refine fun s => ⟨fun v hd hdir hne hv hrun => ?presence, fun hs hstale hheld => ?stale, fun hs hg => ?guard, fun ha hs hn => ?recovery⟩
  case presence =>
    have hframe : Frame [.pdt, .rpu] s (presenceTold v s) := frame_presenceTold
    have hacts : Frame (.slots :: leaveFields) (presenceTold v s) (presenceActs v (presenceTold v s)) := frame_presenceActs
    refine ⟨presenceActs v (presenceTold v s), if_pos ⟨hd, hdir, hne, hv, hrun⟩, hacts.pdt, hacts.rpu, fun hb => ?_, fun i j hb hj => ?_, ?_⟩
    · rw [presenceActs_none (s := presenceTold v s) hb]
      exact hframe
    · intro x why acts
      have hbusy := busySlot_busy hb
      have heq : acts → presenceActs v (presenceTold v s) = putSlot i { x with endDue := some (JobEnd.without .failed why j), startDue := false }
          (leaveState x.state j.kind (presenceTold v s)) := fun ⟨hnone, hf, hk⟩ => presenceActs_of (s := presenceTold v s) hb hj hnone hf hk
      have hunfinished : acts → x.state = .starting ∨ x.state = .active := fun ⟨_, hf, _⟩ => busy_unfinished hbusy hf
      refine ⟨fun h => ?_, fun h hst => ?_, fun h hst => ?_, fun h hst => ?_, fun h => ?_⟩
      · rw [heq h]
        exact congrArg (vput · i _) frame_leaveState.slots
      · rw [heq h, hst, leaveState_active]
        exact ⟨live_unhanded _, rfl⟩
      · rw [heq h, hst, leaveState_starting]
        exact ⟨(frame_stopSweep (s := presenceTold v s)).mge, (stopSweep_spec (presenceTold v s)).around rfl (NotesAdded.of_eq rfl) rfl (NotesAdded.of_eq rfl),
          stopSweep_note _⟩
      · have hst := (hunfinished h).resolve_left hst
        rw [heq h, hst, leaveState_active]
        exact ⟨rfl, rfl⟩
      · rw [presenceActs_not (s := presenceTold v s) hb hj h]
        exact hframe
    · exact hframe.seq frame_presenceActs_narrow
  case stale =>
    refine (if_pos ⟨hs, hstale, hheld⟩).trans (congrArg _ ?_)
    exact startDecision_of_lamp _ nofun
  case guard => exact if_pos ⟨hs, hg⟩
  case recovery =>
    intro u
    have hrun : exec .recoveryComplete s = .next (completeRecovery { s with lamp := { s.lamp with last := ⟨s.time, decide (s.lamp.cfg.staleMs = 0)⟩ } }) :=
      if_pos ⟨ha, hs, by rw [hn]; rfl⟩
    exact ⟨fun hl => hrun.trans (congrArg _ (completeRecovery_normal hl)), fun hl => hrun.trans (congrArg _ (completeRecovery_changed hl))⟩

end Sys2Proof.Machine
end

section
/-! SUPPORT. The sequencer taking samples (R34 to R41): strays and restarts, reference samples and the verdict, image samples. -/
namespace Sys2Proof.Machine
set_option Elab.async false

/-! ### The head of the pixel queue (R34) -/

section
variable {s : State} {i : Fin 4} {j : JobRecord} {p : Sample} {rest : List Sample}

theorem sampleTake_due (hr : running s = some (i, j)) (hp : s.mge.pixels = p :: rest) (h : s.mge.seq.endDue ≠ none) :
    exec .sampleTake s = .next s := by
  change execSampleTake s = _
  rw [execSampleTake, hr, hp]
  exact if_neg h

theorem sampleTake_of (hr : running s = some (i, j)) (hp : s.mge.pixels = p :: rest) (h : s.mge.seq.endDue = none) :
    exec .sampleTake s = .next (takeHead i j p s) := by
  change execSampleTake s = _
  rw [execSampleTake, hr, hp]
  exact if_pos h

theorem stray_iff (p : Sample) (j : JobRecord) : p.stray j = true ↔ p.part = true ∨ j.w * (j.h + j.r) ≤ p.idx := by
  rw [Sample.stray, Bool.or_eq_true, decide_eq_true_eq, JobRecord.frame]

theorem isRestart_iff (p : Sample) (q : Seq) : isRestart p q = true ↔ p.idx = 0 ∧ q.att ≠ .waiting ∧ 0 < q.count := by
  simp [isRestart, and_assoc]

theorem popPixel_of (hp : s.mge.pixels = p :: rest) : popPixel s = { s with mge := { s.mge with pixels := rest } } := by
  rw [popPixel, hp]
  rfl

theorem takeHead_stray (h : p.part = true ∨ j.w * (j.h + j.r) ≤ p.idx) : takeHead i j p s = takeStray s :=
  if_pos ((stray_iff p j).2 h)

theorem takeHead_restart (h : ¬ (p.part = true ∨ j.w * (j.h + j.r) ≤ p.idx)) (hr : p.idx = 0 ∧ s.mge.seq.att ≠ .waiting ∧ 0 < s.mge.seq.count) :
    takeHead i j p s = { s with mge := { s.mge with seq := { s.mge.seq with endDue := some .restart } } } :=
  (if_neg (mt (stray_iff p j).1 h)).trans (if_pos ((isRestart_iff p _).2 hr))

/-- A counted sample, before the attempt's state handles it (R34, R35). -/
def sampleCounted (j : JobRecord) (s : State) : State := countSample j (beginAttempt (popPixel s))

theorem takeHead_counted (hpart : p.part = false) (hidx : p.idx < j.w * (j.h + j.r))
    (hr : ¬ (p.idx = 0 ∧ s.mge.seq.att ≠ .waiting ∧ 0 < s.mge.seq.count)) :
    takeHead i j p s = countTest j (handleSample i j p.idx (rawValue p.raw) (sampleCounted j s)) := by
  have hstray : ¬ (p.part = true ∨ j.w * (j.h + j.r) ≤ p.idx) := by
    rw [hpart]
    rintro (h | h)
    · cases h
    · omega
  exact (if_neg (mt (stray_iff p j).1 hstray)).trans (if_neg (mt (isRestart_iff p _).1 hr))

theorem sampleCounted_waiting (hp : s.mge.pixels = p :: rest) (h : s.mge.seq.att = .waiting) : sampleCounted j s = { s with
    tsa := { s.tsa with rejects := [] }
    mge := { s.mge with pixels := rest, seq := { s.mge.seq.begun with count := 1, gap := ⟨s.time, decide (j.frameGapMs = 0)⟩ } } } := by
  rw [sampleCounted, popPixel_of hp]
  exact congrArg (countSample j) (if_pos h)

theorem sampleCounted_attempt (hp : s.mge.pixels = p :: rest) (h : s.mge.seq.att ≠ .waiting) : sampleCounted j s = { s with
    mge := { s.mge with pixels := rest, seq := { s.mge.seq with
      count := s.mge.seq.count + 1, gap := ⟨s.time, decide (j.frameGapMs = 0)⟩ } } } := by
  rw [sampleCounted, popPixel_of hp]
  exact congrArg (countSample j) (if_neg h)

/-- The count test, whole: the end that it makes due (R41). -/
theorem countTest_eq (h : s.mge.seq.endDue = none) : countTest j s = { s with mge := { s.mge with seq := { s.mge.seq with
    endDue := if s.mge.seq.count = j.w * (j.h + j.r) then some .byCount else none } } } := by
  unfold countTest
  by_cases hc : s.mge.seq.count = j.w * (j.h + j.r)
  · rw [if_pos hc, if_pos (by exact hc)]
    rfl
  · rw [if_neg hc, if_neg (by exact hc), ← h]

theorem takeStray_waiting (hp : s.mge.pixels = p :: rest) (h : s.mge.seq.att = .waiting) :
    takeStray s = { s with mge := { s.mge with pixels := rest } } :=
  (if_pos h).trans (popPixel_of hp)

theorem takeStray_counts (hp : s.mge.pixels = p :: rest) (h : s.mge.seq.att ≠ .waiting) (hn : s.mge.seq.stray < 4294967295) :
    takeStray s = { s with mge := { s.mge with pixels := rest, seq := { s.mge.seq with stray := s.mge.seq.stray + 1 } } } := by
  refine (if_neg h).trans ((if_pos hn).trans ?_)
  rw [popPixel_of hp]
  rfl

theorem takeStray_past (hp : s.mge.pixels = p :: rest) (h : s.mge.seq.att ≠ .waiting) (hn : 4294967295 ≤ s.mge.seq.stray) :
    takeStray s = { s with
      mge := { s.mge with pixels := rest, seq := { s.mge.seq with stray := (Config.strayPastMax s.freeIdx).toNat } }
      freeIdx := s.freeIdx + 1 } := by
  refine (if_neg h).trans ((if_neg (Nat.not_lt.2 hn)).trans ?_)
  rw [popPixel_of hp]
  rfl

end

/-- Settles O36: the head is a stray, or a restart, as R34 and R40 test it. -/
theorem straysAndRestarts : Obligations.StraysAndRestarts := by
  intro s i j p rest hr hp q stray
  refine ⟨sampleTake_due hr hp, fun hd hs hw => ?_, fun hd hs hw hn => ?_, fun hd hs hw hn => ⟨Config.strayPastMax s.freeIdx, ?_⟩,
    fun hd hs hz hw hc => ?_⟩
  · rw [sampleTake_of hr hp hd, takeHead_stray hs, takeStray_waiting hp hw]
  · rw [sampleTake_of hr hp hd, takeHead_stray hs, takeStray_counts hp hw hn]
  · rw [sampleTake_of hr hp hd, takeHead_stray hs, takeStray_past hp hw hn]
  · rw [sampleTake_of hr hp hd, takeHead_restart hs ⟨hz, hw, hc⟩]

/-! ### Reference samples (R35 to R37) -/

/-- Recovery counted beside a busy slot, where no start decision starts a job (R59, R125, R144). -/
theorem countRecovery_busy {s : State} (h : (busySlot s).isSome = true) : countRecovery s =
    if s.cec.armed = true ∧ s.lamp.state = .steady then
      if 64 ≤ s.lamp.recovery + 1 then
        ((s.setLamp { s.lamp with recovery := 0 }).setCec { value := 0, armed := false }).setRpu
          { s.rpu with fCecLevel := s.rpu.fCecLevel || decide (levelOf s.cec.value ≠ .normal) }
      else s.setLamp { s.lamp with recovery := s.lamp.recovery + 1 }
    else s := by
  by_cases hc : s.cec.armed = true ∧ s.lamp.state = .steady
  · obtain ⟨ha, hs⟩ := hc
    rw [if_pos ⟨ha, hs⟩]
    by_cases hn : 64 ≤ s.lamp.recovery + 1
    · rw [countRecovery_full ha hs hn, if_pos hn]
      by_cases hl : levelOf s.cec.value = .normal
      · rw [completeRecovery_normal hl]
        rw [decide_eq_false (Classical.not_not.2 hl), Bool.or_false]
        rfl
      · rw [completeRecovery_changed hl]
        refine Eq.trans (startDecision_of_busy _ (by exact h)) ?_
        rw [decide_eq_true hl, Bool.or_true]
        rfl
    · rw [countRecovery_counts ha hs hn, if_neg hn]
  · rw [countRecovery_stays hc, if_neg hc]

theorem frame_countRecovery_busy {s : State} (h : (busySlot s).isSome = true) : Frame [.lamp, .cec, .rpu] s (countRecovery s) := by
  rw [countRecovery_busy h]
  exact Frame.ite (fun _ => Frame.ite (fun _ => (frame_setLamp.trans frame_setCec).seq frame_setRpu) fun _ => frame_setLamp.wide) fun _ => Frame.refl

theorem lampTold_busy {m : Meas} {s : State} (h : (busySlot s).isSome = true) : lampTold m s = lampTaken m s := by
  unfold lampTold
  split
  · exact startDecision_of_busy _ h
  · rfl

/-- A measurement applied beside a busy slot looks at the lamp monitor alone, and leaves the sequencer and the tiles (R117). -/
theorem applyMeas_beside {m : Meas} {s : State} (h : (busySlot s).isSome = true) (g : Mge) (a : Tsa) :
    applyMeas m { s with mge := g, tsa := a } = { applyMeas m s with mge := g, tsa := a } := by
  have h' : (busySlot { s with mge := g, tsa := a }).isSome = true := h
  rw [applyMeas_eq, applyMeas_eq, lampTold_busy h, lampTold_busy h']
  cases m with
  | level lam =>
    dsimp only
    rw [countRecovery_busy (s := lampTaken _ s) h, countRecovery_busy (s := lampTaken _ { s with mge := g, tsa := a }) h']
    by_cases hc : s.cec.armed = true ∧ (lampTaken (.level lam) s).lamp.state = .steady
    · rw [if_pos (show (lampTaken (.level lam) s).cec.armed = true ∧ _ from hc)]
      refine (if_pos hc).trans ?_
      by_cases hn : 64 ≤ (lampTaken (.level lam) s).lamp.recovery + 1
      · rw [if_pos hn]
        exact if_pos hn
      · rw [if_neg hn]
        exact if_neg hn
    · rw [if_neg (show ¬ ((lampTaken (.level lam) s).cec.armed = true ∧ _) from hc)]
      exact if_neg hc
  | _ => rfl

theorem frame_applyMeas_busy {m : Meas} {s : State} (h : (busySlot s).isSome = true) : Frame [.lamp, .cec, .rpu] s (applyMeas m s) := by
  have htaken : Frame [.lamp, .rpu] s (lampTaken m s) :=
    show Frame _ s ((s.setLamp (lampTaken m s).lamp).setRpu (lampTaken m s).rpu) from frame_setLamp.trans frame_setRpu
  rw [applyMeas_eq, lampTold_busy h]
  cases m with
  | level lam =>
    exact htaken.seq (frame_countRecovery_busy h)
  | _ => exact htaken.wide

theorem applyMeas_lampState {m : Meas} {s : State} (h : (busySlot s).isSome = true) :
    (applyMeas m s).lamp.state = (s.lamp.measured m s.time).state := by
  rw [applyMeas_eq, lampTold_busy h]
  cases m with
  | level lam =>
    dsimp only
    rw [countRecovery_busy (s := lampTaken _ s) h]
    split
    · split
      · rfl
      · rfl
    · rfl
  | _ => rfl

/-- The attempt that a reference sample is counted in: a fresh one in WAITING, else the one in REFERENCE (R35). -/
def referenceSeq (q : Seq) : Seq := if q.att = .waiting then q.begun else q

section
variable {s : State} {i : Fin 4} {j : JobRecord} {p : Sample} {rest : List Sample}

theorem referenceSeq_att (h : s.mge.seq.att = .waiting ∨ s.mge.seq.att = .reference) : (referenceSeq s.mge.seq).att = .reference := by
  unfold referenceSeq
  split
  · rfl
  next hw => exact h.resolve_left hw

theorem referenceSeq_endDue (q : Seq) : (referenceSeq q).endDue = q.endDue := by
  unfold referenceSeq
  split
  · rfl
  · rfl

theorem referenceSeq_k (q : Seq) : (referenceSeq q).k = q.k := by
  unfold referenceSeq
  split
  · rfl
  · rfl

theorem sampleCounted_eq (hp : s.mge.pixels = p :: rest) : sampleCounted j s = { s with
    tsa := if s.mge.seq.att = .waiting then { s.tsa with rejects := [] } else s.tsa
    mge := { s.mge with pixels := rest, seq := { referenceSeq s.mge.seq with
      count := (referenceSeq s.mge.seq).count + 1, gap := ⟨s.time, decide (j.frameGapMs = 0)⟩ } } } := by
  by_cases hw : s.mge.seq.att = .waiting
  · rw [sampleCounted_waiting hp hw, if_pos hw, referenceSeq, if_pos hw]
    rfl
  · rw [sampleCounted_attempt hp hw, if_neg hw, referenceSeq, if_neg hw]

/-- A counted reference sample in REFERENCE, handled (R36). -/
theorem handleSample_reference {v : Nat} {u : State} (ha : u.mge.seq.att = .reference) (href : p.idx < j.w * j.r) :
    handleSample i j p.idx v u = takeReference j v u := by
  rw [handleSample, ha]
  exact if_pos (decide_eq_true href)

/-- The verdict's effect on the sequencer (R37). -/
theorem verdictPoint_eq {m : Meas} {u : State} (hm : m = measure u.mge.sensor u.mge.seq.refSum u.mge.seq.refCount u.mge.seq.sat (j.eAt u.mge.seq.k))
    (hseq : (applyMeas m u).mge = u.mge) : verdictPoint j u = (applyMeas m u).setMge { u.mge with
      seq := if verdict m (applyMeas m u) = true then { u.mge.seq with meas := some m, att := .image }
        else { u.mge.seq with meas := some m, att := .discarding, recorded := some .lamp } } := by
  subst hm
  unfold verdictPoint
  dsimp only
  rw [hseq]
  split
  · rw [putSeq, hseq]
  · rw [putSeq, hseq]

theorem verdict_iff (m : Meas) (s : State) : verdict m s = true ↔ m ≠ .dim ∧ s.lamp.state = .steady := by
  cases m <;> simp [verdict]

end

/-- Settles O37: the sample is counted in its attempt, and with the W × R-th the measurement is applied beside the running job. -/
theorem referenceSamplesReachVerdict : Obligations.ReferenceSamplesReachVerdict := by
  intro s i j p rest hr hp hdue hpart hidx href hatt q v fresh q0 q1 due tsa m l
  obtain ⟨hactive, -, -⟩ := running_active hr
  have hbusy : (busySlot s).isSome = true := busySlot_isSome (i := i) (by rw [hactive]; rfl)
  have hq0 : q0 = referenceSeq q := rfl
  have hatt' : q0.att = .reference := referenceSeq_att (hatt.imp_right And.left)
  have hdue' : q0.endDue = none := (referenceSeq_endDue q).trans hdue
  have hk : q0.k = q.k := referenceSeq_k q
  have hnot : ¬ (p.idx = 0 ∧ s.mge.seq.att ≠ .waiting ∧ 0 < s.mge.seq.count) := fun ⟨hz, hw, hc⟩ =>
    (hatt.resolve_left hw).2 ⟨hz, hc⟩
  let u : State := { s with mge := { s.mge with pixels := rest, seq := q1 }, tsa := tsa }
  have hrun : exec .sampleTake s = .next (countTest j (if q1.refCount = j.w * j.r then verdictPoint j u else u)) := by
    rw [sampleTake_of hr hp hdue, takeHead_counted hpart hidx hnot, sampleCounted_eq hp]
    rw [handleSample_reference (u := _) (by exact hatt') href]
    rfl
  refine ⟨fun hn => ?_, fun hn => ?_⟩
  · rw [hrun, if_neg hn, countTest_eq (by exact hdue')]
  · have hbeside : applyMeas m u = { applyMeas m s with mge := { s.mge with pixels := rest, seq := q1 }, tsa := tsa } :=
      applyMeas_beside hbusy _ _
    have hverdict := verdictPoint_eq (j := j) (m := m) (u := u) (by rw [show u.mge.seq.k = q.k from hk]) (by rw [hbeside])
    have hend : ∀ z : Seq, z.endDue = none → z.count = q1.count → countTest j ((applyMeas m u).setMge { u.mge with seq := z }) =
        (applyMeas m u).setMge { u.mge with seq := { z with endDue := due } } := fun z hz hc => by
      rw [countTest_eq (by exact hz)]
      change (applyMeas m u).setMge { u.mge with seq := { z with endDue := if z.count = j.w * (j.h + j.r) then some .byCount else none } } = _
      rw [hc]
    have hstate : (applyMeas m u).lamp.state = l.state := applyMeas_lampState (s := u) hbusy
    have hu : Frame [.mge, .tsa] s u := show Frame _ s ((s.setMge u.mge).setTsa tsa) from frame_setMge.trans frame_setTsa
    have hframe : ∀ g, Frame [.mge, .tsa, .lamp, .cec, .rpu] s ((applyMeas m u).setMge g) := fun g =>
      (hu.trans (frame_applyMeas_busy (m := m) (s := u) hbusy)).seq frame_setMge
    rw [hrun, if_pos hn, hverdict]
    by_cases hv : verdict m (applyMeas m u) = true
    · rw [if_pos hv]
      obtain ⟨hlevel, hsteady⟩ := (verdict_iff m _).1 hv
      rw [hstate] at hsteady
      refine ⟨_, congrArg _ (hend { q1 with meas := some m, att := .image } hdue' rfl), by rw [hbeside]; rfl, hstate, by rw [hbeside]; rfl, by rw [hbeside]; rfl, by rw [hbeside]; rfl,
        fun _ _ => rfl, fun h => ?_, hframe _⟩
      exact (h.elim (fun h => hlevel h) fun h => h hsteady).elim
    · rw [if_neg hv]
      refine ⟨_, congrArg _ (hend { q1 with meas := some m, att := .discarding, recorded := some .lamp } hdue' rfl), by rw [hbeside]; rfl, hstate, by rw [hbeside]; rfl, by rw [hbeside]; rfl, by rw [hbeside]; rfl,
        fun hm hs => absurd ((verdict_iff m _).2 ⟨hm, hstate.trans hs⟩) hv, fun _ => rfl, hframe _⟩

end Sys2Proof.Machine
end

section
/-! SUPPORT. Image samples (R35, R36, R38, R39): the order fault, the merge of a PLATE job and the flat value of a FLAT job. -/
namespace Sys2Proof.Machine
set_option Elab.async false

theorem vector_getD {α : Type} {n : Nat} (v : Vector α n) (k : Fin n) (d : α) : v.toList.getD k.1 d = vget v k := by
  rw [List.getD_eq_getElem?_getD, List.getElem?_eq_getElem (by simp), Option.getD_some, Vector.getElem_toList]
  rfl

section
variable {s u : State} {i : Fin 4} {j : JobRecord} {p : Sample} {rest : List Sample} {v : Nat}

theorem handleSample_order (ha : u.mge.seq.att = .reference) (himg : j.w * j.r ≤ p.idx) :
    handleSample i j p.idx v u = { u with mge := { u.mge with seq := { u.mge.seq with att := .discarding, recorded := some .order } } } := by
  rw [handleSample, ha]
  exact if_neg (by rw [decide_eq_true_eq]; omega)

theorem handleSample_discarding (ha : u.mge.seq.att = .discarding) : handleSample i j p.idx v u = u := by
  rw [handleSample, ha]

theorem handleSample_again (ha : u.mge.seq.att = .image) (href : p.idx < j.w * j.r) : handleSample i j p.idx v u = u := by
  rw [handleSample, ha]
  exact if_pos (decide_eq_true href)

theorem handleSample_admitted (ha : u.mge.seq.att = .image) (himg : j.w * j.r ≤ p.idx) :
    handleSample i j p.idx v u = takeAdmitted i j (p.idx - j.w * j.r) v u := by
  rw [handleSample, ha]
  exact if_neg (by rw [decide_eq_true_eq]; omega)

/-- An admitted sample of a FLAT job, whole (R29, R80). -/
theorem admitFlat_eq (pix : Nat) : admitFlat j pix v u = { u with
    mge := { u.mge with seq := { u.mge.seq with done := min (j.w * j.h) (u.mge.seq.done + 1) } }
    tsa := if classify v u.mge.sensor = .usable ∧ sget u.tsa.flatCount (tileOf j.w pix) < 65535 then
        { u.tsa with
          flatSum := sput u.tsa.flatSum (tileOf j.w pix)
            (sget u.tsa.flatSum (tileOf j.w pix) + (v - u.mge.sensor.b) * 1024 / j.eAt u.mge.seq.k)
          flatCount := sput u.tsa.flatCount (tileOf j.w pix) (sget u.tsa.flatCount (tileOf j.w pix) + 1) }
      else u.tsa } := by
  unfold admitFlat
  dsimp only
  change (match classify v u.mge.sensor with | .usable => _ | _ => _) = _
  cases hc : classify v u.mge.sensor with
  | usable =>
    by_cases hn : sget u.tsa.flatCount (tileOf j.w pix) < 65535
    · rw [if_pos ⟨rfl, hn⟩]
      exact congrArg (State.setTsa _) (if_pos hn)
    · rw [if_neg fun h => hn h.2]
      exact congrArg (State.setTsa _) (if_neg hn)
  | _ => rw [if_neg fun h => nomatch h.1] <;> rfl

end

/-- Settles O38: the sample is counted, then handled by the attempt's state, and the count test made. -/
theorem imageSamplesAdmitted : Obligations.ImageSamplesAdmitted := by
  refine ⟨fun j k => ⟨vector_getD .., vector_getD ..⟩, fun w pix => rfl, ?_⟩
  intro s i j p rest hr hp hdue hpart hidx hno q v gap due q1 mge pix tile ordered
  have hnot : ¬ (p.idx = 0 ∧ s.mge.seq.att ≠ .waiting ∧ 0 < s.mge.seq.count) := fun ⟨hz, _, hc⟩ => hno ⟨hz, hc⟩
  have hrun : exec .sampleTake s = .next (countTest j (handleSample i j p.idx v (sampleCounted j s))) := by
    rw [sampleTake_of hr hp hdue, takeHead_counted hpart hidx hnot]
    rfl
  let c : State := { s with mge := { s.mge with pixels := rest, seq := { q with count := q.count + 1, gap := gap } } }
  have hcounted : q.att ≠ .waiting → sampleCounted j s = c := sampleCounted_attempt hp
  have hduec : c.mge.seq.endDue = none := hdue
  refine ⟨fun hw himg => ?_, fun ha himg => ?_, fun ha => ?_, fun ha href => ?_, fun ha himg hk => ?_, fun ha himg hk => ?_⟩
  · rw [hrun, sampleCounted_waiting hp hw, handleSample_order rfl himg, countTest_eq (by exact hdue)]
    rfl
  · rw [hrun, hcounted (by rw [ha]; nofun), handleSample_order (u := c) ha himg, countTest_eq (by exact hdue)]
  · rw [hrun, hcounted (by rw [ha]; nofun), handleSample_discarding (u := c) ha, countTest_eq (by exact hdue)]
  · rw [hrun, hcounted (by rw [ha]; nofun), handleSample_again (u := c) ha href, countTest_eq (by exact hdue)]
  · let b := beginAccess (.merge (mergeOf i j pix v c)) (cellAddr c j pix) 8 c
    obtain ⟨⟨-, hmpa, hserial⟩, hmge⟩ := beginAccess_spec (.merge (mergeOf i j pix v c)) (cellAddr c j pix) 8 c
    have hb : Frame [.mge, .mpa, .serial] s b := (frame_setMge (s := s)).seq frame_beginAccess
    have hadmit : exec .sampleTake s = .next (countTest j b) := by
      rw [hrun, hcounted (by rw [ha]; nofun), handleSample_admitted (u := c) ha himg, takeAdmitted, hk]
      rfl
    have hbmge : b.mge = { c.mge with port := b.mge.port } := by
      rw [show b.mge = _ from hmge]
    have htest := countTest_eq (j := j) (s := b) (by rw [hbmge]; exact hdue)
    have hport : (countTest j b).mge.port = b.mge.port := by rw [htest]
    refine ⟨countTest j b, hadmit, ?_, ?_, ⟨?_, ?_, ?_⟩, ?_⟩
    · rw [htest, hbmge]
    · obtain ⟨y, hy, -, huse, haddr, hlen⟩ := beginAccess_mem (.merge (mergeOf i j pix v c)) (cellAddr c j pix) 8 c
      exact ⟨y, by rw [hport]; exact hy, haddr, hlen, huse⟩
    · rw [hport, show b.mge = _ from hmge]
      rfl
    · rw [htest]
      exact hmpa
    · rw [htest]
      exact hserial
    · rw [htest]
      exact hb.seq frame_setMge
  · rw [hrun, hcounted (by rw [ha]; nofun), handleSample_admitted (u := c) ha himg, takeAdmitted, hk]
    dsimp only
    rw [admitFlat_eq, countTest_eq (by exact hdue)]

end Sys2Proof.Machine
end

section
/-! SUPPORT. Attempt ends: a failed attempt (R44) and a closed exposure (R46 to R48), with what each scores (R139 to R141). -/
namespace Sys2Proof.Machine
set_option Elab.async false

/-! ### Scoring beside the running job (R139 to R141) -/

/-- The part once the sequencer has reported an attempt's end and scored it: beside the running job, a change of the counter's
level starts nothing (R59, R141). -/
def attemptScored (rep : Report) (v : Nat) (s : State) : State :=
  (s.setRpu { s.rpu with
    queue := s.rpu.queue ++ [rep], fCecLevel := s.rpu.fCecLevel || decide (levelOf v ≠ levelOf s.cec.value) }).setCec { s.cec with value := v }

theorem frame_attemptScored {rep : Report} {v : Nat} {s : State} : Frame [.rpu, .cec] s (attemptScored rep v s) :=
  frame_setRpu.trans frame_setCec

theorem setCecValue_pushReport {slot tag v : Nat} {b : RepBody} {s : State} (hb : (busySlot s).isSome = true) (hf : 1 ≤ s.free) :
    setCecValue v (pushReport slot tag b s) = attemptScored ⟨slot, s.time, tag, b⟩ v s := by
  rw [pushReport_of_free hf, attemptScored]
  by_cases h : levelOf v = levelOf s.cec.value
  · rw [decide_eq_false (Classical.not_not.2 h), Bool.or_false]
    exact if_pos h
  · rw [decide_eq_true h, Bool.or_true]
    refine (if_neg (by exact h)).trans (Eq.trans (startDecision_of_busy _ (by exact hb)) ?_)
    rfl

theorem levelOf_halted_iff (v : Nat) : levelOf v = .halted ↔ 256 ≤ v := by
  unfold levelOf
  split
  · exact ⟨nofun, fun h => by omega⟩
  · split
    · exact ⟨nofun, fun h => by omega⟩
    · split
      · exact ⟨nofun, fun h => by omega⟩
      · exact ⟨fun _ => by omega, fun _ => rfl⟩

/-! ### A job failed at an attempt's end (R30, R44, R47) -/

/-- The part as a running job has failed, before the start decision (R65). -/
def failedState (i : Fin 4) (j : JobRecord) (r : EndReason) (s : State) : State :=
  endedState i j (JobEnd.without .failed r j) (dropAttempt s)

theorem failJob_eq {i : Fin 4} {j : JobRecord} {r : EndReason} {s : State} (hj : (vget s.slots i).job = some j) :
    failJob i j r s = startDecision (failedState i j r s) := endJob_eq _ hj

theorem frame_failedState {i : Fin 4} {j : JobRecord} {r : EndReason} {s : State} :
    Frame [.slots, .rpu, .mge, .fst] s (failedState i j r s) :=
  (frame_dropAttempt.trans frame_endedState).wide

section
variable {s : State} {i : Fin 4} {j : JobRecord} {r : EndReason}

theorem failedState_rpu (hf : 1 ≤ s.free) : (failedState i j r s).rpu = { s.rpu with queue := s.rpu.queue ++
    [⟨i.1, s.time, j.tag, .jobEnded .failed r false j.kind j.dlo j.dhi Counts.zero⟩] } :=
  endedState_rpu (s := dropAttempt s) hf

theorem failedState_mge (hb : (vget s.slots i).state.busy = true) : (failedState i j r s).mge = { s.mge with
    pixels := [], seq := Seq.idle, port := s.mge.port.map CellAcc.unhanded } :=
  (endedState_mge_busy (s := dropAttempt s) hb).trans (by rw [dropAttempt_mge])

theorem failedState_live (hb : (vget s.slots i).state.busy = true) : liveMerges (failedState i j r s) = false := by
  rw [liveMerges, failedState_mge hb]
  exact live_unhanded _

theorem failedState_slots : (failedState i j r s).slots = vput s.slots i ((vget s.slots i).endedAs (JobEnd.without .failed r j)) :=
  endedState_slots i j _ (dropAttempt s)

theorem failedState_plate (hk : j.kind = .plate) : (failedState i j r s).fst = s.fst := endedState_plate (s := dropAttempt s) hk

theorem failedState_flat (hk : j.kind = .flat) (hb : (vget s.slots i).state.busy = true) :
    (failedState i j r s).fst = { s.fst with banks := vput s.fst.banks j.bankNo Bank.invalid } :=
  endedState_flat (s := dropAttempt s) hk hb

end

/-! ### The row's guard (R45) -/

theorem attemptEnd_full {s : State} {i : Fin 4} {j : JobRecord} {e : AttEnd} (hr : running s = some (i, j))
    (he : s.mge.seq.endDue = some e) (hfull : 7 ≤ s.rpu.queue.length) : exec .attemptEndTaken s = .next s := by
  change execAttemptEndTaken s = _
  rw [execAttemptEndTaken, hr, he]
  refine if_neg fun ⟨_, hroom⟩ => ?_
  have hfree := (free_le_iff s 1 (by omega)).2 hfull
  omega

theorem attemptEnd_taken {s : State} {i : Fin 4} {j : JobRecord} {e : AttEnd} (hr : running s = some (i, j))
    (he : s.mge.seq.endDue = some e) (hl : liveMerges s = false) (hroom : s.rpu.queue.length ≤ 6) :
    exec .attemptEndTaken s = .next (takeEnd i j e s) := by
  change execAttemptEndTaken s = _
  rw [execAttemptEndTaken, hr, he]
  refine if_pos ⟨hl, ?_⟩
  change 2 ≤ 8 - _
  omega

/-- What an attempt's end fails it with (R40, R43, R44). -/
theorem takeEnd_fails {s : State} {i : Fin 4} {j : JobRecord} {e : AttEnd} {r : AttReason}
    (h : match e with
      | .restart => r = .restart
      | .gap => r = .gap
      | .byCount => (s.mge.seq.att ≠ .image ∧ s.mge.seq.recorded = some r) ∨
          (s.mge.seq.att = .image ∧ j.kind = .plate ∧ s.mge.seq.done < j.w * j.h ∧ r = .short)) :
    takeEnd i j e s = failAttempt i j r s := by
  cases e with
  | restart => rw [show r = .restart from h]; rfl
  | gap => rw [show r = .gap from h]; rfl
  | byCount =>
    rcases h with ⟨ha, hrec⟩ | ⟨ha, hk, hd, rfl⟩
    · have hgot : s.mge.seq.recorded.getD .lamp = r := by rw [hrec]; rfl
      cases hs : s.mge.seq.att with
      | image => exact absurd hs ha
      | _ => rw [takeEnd, hs, ← hgot]
    · rw [takeEnd, ha]
      exact if_pos ⟨hk, hd⟩

/-- Settles O40: the report and the score, then the three ways on of R44. -/
theorem failedAttemptReportsAndScores : Obligations.FailedAttemptReportsAndScores := by
  intro s i j e r hr he hlive hreason q v failed flag
  obtain ⟨hactive, hjob, -⟩ := running_active hr
  have hbusy : (vget s.slots i).state.busy = true := by rw [hactive]; rfl
  let q' : Seq := { q with retakes := q.retakes + 1 }
  let w : State := attemptScored failed v (putSeq q' s)
  have hw : s.rpu.queue.length ≤ 6 → exec .attemptEndTaken s = .next (
      if levelOf v = .halted then failJob i j .halted w
      else if j.retakeLim < q.retakes + 1 then failJob i j .retakes w else waitAgain j { q' with retakeMark := true } w) := fun hroom => by
    have hscored : scoreUp 8 (pushReport i.1 j.tag (.attemptFailed q.k r (q.retakes + 1)) (putSeq q' s)) = w := by
      have hcec : (pushReport i.1 j.tag (.attemptFailed q.k r (q.retakes + 1)) (putSeq q' s)).cec = s.cec := frame_pushReport.cec
      rw [scoreUp, hcec]
      exact setCecValue_pushReport (s := putSeq q' s) (busySlot_isSome (i := i) hbusy) ((free_pos_iff s).2 (by omega))
    rw [attemptEnd_taken hr he hlive hroom, takeEnd_fails hreason]
    exact congrArg (fun x : State => Host.Outcome.next (if levelOf x.cec.value = .halted then failJob i j .halted x
      else if j.retakeLim < q.retakes + 1 then failJob i j .retakes x else waitAgain j { q' with retakeMark := true } x)) hscored
  refine ⟨attemptEnd_full hr he, fun hroom hv hlim => ?_, fun hroom hfail => ?_⟩
  · rw [hw hroom, if_neg (by rw [levelOf_halted_iff]; omega), if_neg (by omega)]
    rfl
  · intro x
    have hfree : 1 ≤ w.free := by
      rw [free_pos_iff]
      change (s.rpu.queue ++ [failed]).length ≤ 7
      simp
      omega
    have hrun : exec .attemptEndTaken s = .next (startDecision (failedState i j (if 256 ≤ v then .halted else .retakes) w)) := by
      rw [hw hroom]
      by_cases hv : 256 ≤ v
      · rw [if_pos ((levelOf_halted_iff v).2 hv), if_pos hv, failJob_eq (s := w) hjob]
      · rw [if_neg (mt (levelOf_halted_iff v).1 hv), if_neg hv, if_pos (hfail.resolve_left hv), failJob_eq (s := w) hjob]
    have hframe : Frame [.rpu, .cec, .mge] s w := frame_putSeq.seq frame_attemptScored
    refine ⟨_, hrun, failedState_slots, ?_, (frame_failedState (s := w)).cec, failedState_live hbusy, failedState_mge (s := w) hbusy,
      failedState_plate (s := w), fun hk => failedState_flat (s := w) hk hbusy, hframe.seq frame_failedState⟩
    rw [failedState_rpu hfree]
    exact congrArg (fun l => { s.rpu with queue := l, fCecLevel := flag }) (List.append_assoc ..)

end Sys2Proof.Machine
end

section
/-! SUPPORT. A closed exposure (R46 to R48), and entry to FINISHING with the finish scan's first burst (R66, R94, R95). -/
namespace Sys2Proof.Machine
set_option Elab.async false

/-! ### What the close reports (R46, R47, R48) -/

theorem ladderDepth_spec (l : Ladder) (phi : Nat) (h2 : l.t2 ≤ l.t1) (h3 : l.t3 ≤ l.t2) (h4 : l.t4 ≤ l.t3) :
    (l.t1 ≤ phi → ladderDepth l phi = vget l.depth 4) ∧ (l.t2 ≤ phi → phi < l.t1 → ladderDepth l phi = vget l.depth 3) ∧
    (l.t3 ≤ phi → phi < l.t2 → ladderDepth l phi = vget l.depth 2) ∧
    (l.t4 ≤ phi → phi < l.t3 → ladderDepth l phi = vget l.depth 1) ∧ (phi < l.t4 → ladderDepth l phi = vget l.depth 0) := by
  unfold ladderDepth
  refine ⟨fun h => ?_, fun h h' => ?_, fun h h' => ?_, fun h h' => ?_, fun h => ?_⟩
  · rw [if_pos h]; rfl
  · rw [if_neg (by omega), if_pos h]; rfl
  · rw [if_neg (by omega), if_neg (by omega), if_pos h]; rfl
  · rw [if_neg (by omega), if_neg (by omega), if_neg (by omega), if_pos h]; rfl
  · rw [if_neg (by omega), if_neg (by omega), if_neg (by omega), if_neg (by omega)]; rfl

/-- U counts the tiles past the limit (R46). -/
theorem unsteadyTiles_eq (a : Tsa) (lim n : Nat) :
    unsteadyTiles a lim n = ((List.range n).filter fun t => decide (lim < sget a.rejects t)).length := by
  induction n with
  | zero => rfl
  | succ n ih =>
    rw [unsteadyTiles, ih, List.range_succ, List.filter_append, List.length_append]
    by_cases h : lim < sget a.rejects n
    · simp [h]
    · simp [h]

theorem unsteady_eq (j : JobRecord) (s : State) : unsteady j s = if j.kind = .plate then
    ((List.range ((j.w + 63) / 64 * ((j.h + 63) / 64))).filter fun t => decide (j.tileRejLim < sget s.tsa.rejects t)).length else 0 := by
  unfold unsteady
  cases j.kind with
  | plate => exact unsteadyTiles_eq ..
  | flat => rfl

/-- The score of a close as a value (R139). -/
def closeValue (u memerr value : Nat) : Nat :=
  if 0 < u ∨ 0 < memerr then (if 255 < value + 2 then 256 else value + 2) else value - 1

theorem scoreClose_eq (u memerr : Nat) (s : State) : scoreClose u memerr s = setCecValue (closeValue u memerr s.cec.value) s := by
  unfold scoreClose closeValue
  split
  · rfl
  · rfl

theorem exposureDone_eq (j : JobRecord) (s : State) : exposureDone j s = .exposureDone s.mge.seq.k (depthAtClose j s)
    (decide (s.mge.seq.meas = some .sat)) s.mge.seq.done s.mge.seq.dup s.mge.seq.stray s.mge.seq.rejects (unsteady j s) s.mge.seq.memerr
    (match s.mge.seq.meas with | some (.level l) => l | _ => 0) := by
  have hsat : (s.mge.seq.meas == some .sat) = decide (s.mge.seq.meas = some .sat) := by
    rw [Bool.eq_iff_iff]
    simp
  rw [exposureDone, hsat] <;> rfl

/-! ### Entry to FINISHING (R66, R94, R95) -/

theorem scanRequest_mge (s : State) : (scanRequest s).mge = { s.mge with port := (scanRequest s).mge.port } := by
  unfold scanRequest
  split
  · split
    · rw [(beginAccess_spec ..).2]
      rfl
    · rfl
  · rfl

/-- The slot that enters FINISHING, the sequencer idle and the pixel queue discarded (R47, R66). -/
def finishingEntered (i : Fin 4) (s : State) : State :=
  (putSlot i { vget s.slots i with state := .finishing } s).setMge { s.mge with pixels := [], seq := Seq.idle }

theorem enterFinishing_plate {i : Fin 4} {j : JobRecord} {s : State} (h : j.kind = .plate) :
    enterFinishing i j s = scanRequest ((finishingEntered i s).setScan { Scan.idle with scanning := true, slot := i }) := by
  unfold enterFinishing
  rw [h]
  rfl

theorem enterFinishing_flat {i : Fin 4} {j : JobRecord} {s : State} (h : j.kind = .flat) :
    enterFinishing i j s = (finishingEntered i s).setFst { s.fst with comp := some .first } := by
  unfold enterFinishing
  rw [h]
  rfl

theorem enterFinishing_slots (i : Fin 4) (j : JobRecord) (s : State) :
    (enterFinishing i j s).slots = vput s.slots i { vget s.slots i with state := .finishing } := by
  cases h : j.kind with
  | plate =>
    rw [enterFinishing_plate h, frame_scanRequest.slots]
    rfl
  | flat =>
    rw [enterFinishing_flat h]
    rfl

theorem enterFinishing_mge (i : Fin 4) (j : JobRecord) (s : State) :
    (enterFinishing i j s).mge = { s.mge with pixels := [], seq := Seq.idle, port := (enterFinishing i j s).mge.port } := by
  cases h : j.kind with
  | plate =>
    rw [enterFinishing_plate h]
    exact scanRequest_mge _
  | flat =>
    rw [enterFinishing_flat h]
    rfl

/-- The finish scan's first burst, requested at entry to FINISHING (R94, R95). -/
theorem enterFinishing_scan {i : Fin 4} {j : JobRecord} {s : State} (hk : j.kind = .plate) (hj : (vget s.slots i).job = some j)
    (hpos : 0 < j.w * j.h) :
    let base := (vget s.atb.areas j.areaNo).base
    let len := min (min 256 (4096 - base % 4096)) (8 * (j.w * j.h))
    (enterFinishing i j s).scan = { Scan.idle with scanning := true, slot := i, next := len / 8 } ∧
    (∃ a ∈ (enterFinishing i j s).mge.port, a.use = .scan ∧ a.addr = base ∧ a.len = len) ∧
    PortGoesOn (s.mge.port ++ [⟨s.serial, base, len, .scan, .waiting⟩]) s.mpa (s.serial + 1) (enterFinishing i j s) ∧
    Frame [.slots, .mge, .scan, .mpa, .serial] s (enterFinishing i j s) := by
  intro base len
  let u : State := (finishingEntered i s).setScan { Scan.idle with scanning := true, slot := i }
  let u' : State := u.setScan { Scan.idle with scanning := true, slot := i, next := len / 8 }
  have hjobU : (vget u.slots u.scan.slot).job = some j := by
    change (vget (vput s.slots i _) i).job = some j
    rw [vget_vput_self]
    exact hj
  have hreq : enterFinishing i j s = beginAccess .scan base len u' := by
    rw [enterFinishing_plate hk, scanRequest_of (u := u) rfl hjobU, if_pos (by exact hpos)]
    change beginAccess .scan base len (u.setScan { Scan.idle with scanning := true, slot := i, next := 0 + len / 8 }) = _
    rw [Nat.zero_add]
  have hu' : Frame [.slots, .mge, .scan] s u' := ((frame_putSlot.trans frame_setMge).trans frame_setScan).seq frame_setScan
  rw [hreq]
  obtain ⟨hgo, -⟩ := beginAccess_spec .scan base len u'
  obtain ⟨y, hy, -, huse, haddr, hlen⟩ := beginAccess_mem .scan base len u'
  exact ⟨frame_beginAccess.scan, ⟨y, hy, huse, haddr, hlen⟩, hgo, hu'.seq frame_beginAccess⟩

theorem closeExposure_taken {s : State} {i : Fin 4} {j : JobRecord} (ha : s.mge.seq.att = .image)
    (hd : ¬ (j.kind = .plate ∧ s.mge.seq.done < j.w * j.h)) : takeEnd i j .byCount s = closeExposure i j s := by
  rw [takeEnd, ha]
  exact if_neg hd

/-- Settles O41: the report and the score of R47, then its three ways on. -/
theorem closedExposureReportsAndGoesOn : Obligations.ClosedExposureReportsAndGoesOn := by
  refine ⟨ladderDepth_spec, ?_⟩
  intro s i j hr he hatt hdone hlive hroom q n depth lam v done rpu
  obtain ⟨hactive, hjob, -⟩ := running_active hr
  have hbusy : (vget s.slots i).state.busy = true := by rw [hactive]; rfl
  let w : State := attemptScored done v s
  have hw : exec .attemptEndTaken s = .next (
      if levelOf v = .halted then failJob i j .halted w
      else if q.k + 1 = depth then enterFinishing i j w
      else waitAgain j { q with k := q.k + 1, depth := some depth, done := 0, retakeMark := false } w) := by
    have hn : unsteady j s = n := unsteady_eq j s
    have hscored : scoreClose (unsteady j s) q.memerr (pushReport i.1 j.tag (exposureDone j s) s) = w := by
      have hcec : (pushReport i.1 j.tag (exposureDone j s) s).cec = s.cec := frame_pushReport.cec
      rw [scoreClose_eq, hcec, setCecValue_pushReport (busySlot_isSome (i := i) hbusy) ((free_pos_iff s).2 (by omega)), exposureDone_eq, hn]
      rfl
    rw [attemptEnd_taken hr he hlive hroom, closeExposure_taken hatt hdone]
    exact congrArg (fun x : State => Host.Outcome.next (if levelOf x.cec.value = .halted then failJob i j .halted x
      else if q.k + 1 = depth then enterFinishing i j x
      else waitAgain j { q with k := q.k + 1, depth := some depth, done := 0, retakeMark := false } x)) hscored
  have hframe : Frame [.rpu, .cec] s w := frame_attemptScored
  refine ⟨fun hv hk => ?_, fun hv hk => ?_, fun hv => ?_⟩
  · rw [hw, if_neg (by rw [levelOf_halted_iff]; omega), if_neg hk]
    rfl
  · rw [if_neg (by rw [levelOf_halted_iff]; omega), if_pos hk] at hw
    have henter : Frame [.slots, .mge, .scan, .serial, .mpa, .fst] w (enterFinishing i j w) := frame_enterFinishing
    refine ⟨_, hw, henter.rpu, henter.cec, enterFinishing_slots .., enterFinishing_mge .., fun hf => ?_, fun hp hpos => ?_⟩
    · rw [enterFinishing_flat hf]
      exact ⟨rfl, rfl, hframe.seq ((frame_putSlot.trans frame_setMge).trans frame_setFst)⟩
    · intro base len
      obtain ⟨hscan, hread, hgo, hwide⟩ := enterFinishing_scan (s := w) hp hjob hpos
      rw [hframe.mge, hframe.atb, hframe.mpa, hframe.serial] at hgo
      rw [hframe.atb] at hscan hread
      exact ⟨hscan, hread, hgo, hframe.seq hwide⟩
  · rw [if_pos ((levelOf_halted_iff v).2 hv), failJob_eq (s := w) hjob] at hw
    have hfree : 1 ≤ w.free := by
      rw [free_pos_iff]
      change (s.rpu.queue ++ [done]).length ≤ 7
      simp
      omega
    exact ⟨_, hw, failedState_slots, failedState_rpu hfree, (frame_failedState (s := w)).cec, failedState_live hbusy,
      failedState_mge (s := w) hbusy, failedState_plate (s := w), fun hk => failedState_flat (s := w) hk hbusy, hframe.seq frame_failedState⟩

end Sys2Proof.Machine
end

section
/-! SUPPORT. The answers to a merge's read and write (R19 to R28), and what the end of a merge lets go on (R4, R11). -/
namespace Sys2Proof.Machine
set_option Elab.async false

/-! ### The end of a merge (R4, R11) -/

/-- An access of a port whose reads have gone is one of the port: its number, its bytes and its use are as they were. -/
theorem of_mem_portFrom (es as : List CellAcc) {y : CellAcc} (h : y ∈ portFrom es as) :
    ∃ a ∈ as, y.no = a.no ∧ y.use = a.use ∧ y.addr = a.addr ∧ y.len = a.len := by
  induction as generalizing es with
  | nil => cases h
  | cons b as ih =>
    unfold portFrom at h
    rcases List.mem_cons.1 h with rfl | h
    · refine ⟨b, List.mem_cons_self, ?_⟩
      split
      · exact ⟨rfl, rfl, rfl, rfl⟩
      · exact ⟨rfl, rfl, rfl, rfl⟩
    · obtain ⟨a, ha, hsame⟩ := ih (es ++ [b]) h
      exact ⟨a, List.mem_cons_of_mem _ ha, hsame⟩

theorem isMerge_congr {a b : CellAcc} (h : a.use = b.use) : a.isMerge = b.isMerge := by
  unfold CellAcc.isMerge
  rw [h]

/-- Some merge of a port has its cell in an area (R11). -/
def MergesIn (p : List CellAcc) (a : Area) : Prop := ∃ c ∈ p, c.isMerge = true ∧ c.addr < a.base + a.size ∧ a.base < c.addr + c.len

theorem mergesIn_portOn (p : List CellAcc) (a : Area) : MergesIn (portOn p) a ↔ MergesIn p a := by
  constructor
  · rintro ⟨y, hy, hm, hbytes⟩
    obtain ⟨c, hc, -, huse, haddr, hlen⟩ := of_mem_portFrom [] p hy
    exact ⟨c, hc, by rw [← isMerge_congr huse]; exact hm, by rwa [← haddr, ← hlen]⟩
  · rintro ⟨c, hc, hm, hbytes⟩
    obtain ⟨y, hy, -, huse, haddr, hlen⟩ := mem_portFrom [] p hc
    exact ⟨y, hy, by rw [isMerge_congr huse]; exact hm, by rwa [haddr, hlen]⟩

theorem endAccess_go (n : Nat) (u : State) :
    PortGoesOn (u.mge.port.filter fun x => decide (x.no ≠ n)) u.mpa u.serial (endAccess n u) ∧
    (endAccess n u).mge = { u.mge with port := portOn (u.mge.port.filter fun x => decide (x.no ≠ n)) } := by
  have hsame : (fun a : CellAcc => a.no != n) = fun x => decide (x.no ≠ n) := funext fun x => by
    rw [Bool.eq_iff_iff]
    simp
  rw [← hsame]
  exact endAccess_spec n u

theorem endMerge_mge (n : Nat) (u : State) :
    (endMerge n u).mge = { u.mge with port := portOn (u.mge.port.filter fun x => decide (x.no ≠ n)) } :=
  (frame_sweepKick (s := endAccess n u)).mge.trans (endAccess_go n u).2

theorem endMerge_gone (n : Nat) (u : State) : ∀ x ∈ (endMerge n u).mge.port, x.no ≠ n := by
  rw [endMerge_mge]
  intro x hx
  obtain ⟨a, ha, hno, -⟩ := of_mem_portFrom [] _ hx
  rw [hno]
  exact of_decide_eq_true (List.mem_filter.1 ha).2

/-- The sweep that waited for the last merge of its area requests its first burst (R11). -/
theorem endMerge_kicks {n : Nat} {u : State} {w : Sweep} (hw : u.atb.sweep = some w) (h0 : w.requested = 0)
    (hno : ¬ MergesIn (u.mge.port.filter fun x => decide (x.no ≠ n)) (vget u.atb.areas w.area)) :
    let rs := readsOf u.serial (u.mge.port.filter fun x => decide (x.no ≠ n))
    (endMerge n u).atb = { u.atb with sweep := some { w with requested := 1 } } ∧
    (endMerge n u).serial = u.serial + rs.length + 1 ∧
    (endMerge n u).mpa = { u.mpa with cell := u.mpa.cell ++ rs, bulk := u.mpa.bulk ++ [⟨u.serial + rs.length, .sweep, .bulk, true,
      (vget u.atb.areas w.area).base, 256, List.replicate 256 0⟩] } := by
  intro rs
  obtain ⟨⟨hport, hmpa, hserial⟩, -⟩ := endAccess_go n u
  have hatb : (endAccess n u).atb = u.atb := frame_endAccess.atb
  have hnone : mergeInArea (endAccess n u) (vget u.atb.areas w.area) = false := by
    rw [Bool.eq_false_iff]
    intro h
    have h := (mergeInArea_iff _ _).1 h
    rw [hport] at h
    exact hno ((mergesIn_portOn _ _).1 h)
  rw [endMerge, sweepKick_of (by rw [hatb]; exact hw) h0, hatb, if_pos hnone]
  refine ⟨?_, ?_, ?_⟩
  · change { (endAccess n u).atb with sweep := some { w with requested := 1 } } = _
    rw [hatb]
  · exact congrArg (· + 1) hserial
  · change { (endAccess n u).mpa with bulk := (endAccess n u).mpa.bulk ++ [(⟨(endAccess n u).serial, .sweep, .bulk, true,
      (vget u.atb.areas w.area).base + 256 * 0, 256, List.replicate 256 0⟩ : MTxn)] } = _
    rw [hmpa, hserial]
    rfl

/-- With no sweep that waited, only the port goes on (R4). -/
theorem endMerge_stays {n : Nat} {u : State} (h : ∀ w, u.atb.sweep = some w → w.requested ≠ 0 ∨
      MergesIn (u.mge.port.filter fun x => decide (x.no ≠ n)) (vget u.atb.areas w.area)) :
    (endMerge n u).atb = u.atb ∧ PortGoesOn (u.mge.port.filter fun x => decide (x.no ≠ n)) u.mpa u.serial (endMerge n u) := by
  obtain ⟨hgo, -⟩ := endAccess_go n u
  have hatb : (endAccess n u).atb = u.atb := frame_endAccess.atb
  have hstay : endMerge n u = endAccess n u := by
    unfold endMerge sweepKick
    rw [hatb]
    split
    next w hw =>
      refine if_neg fun ⟨h0, hnone⟩ => ?_
      have hin := (h w hw).resolve_left fun hne => hne h0
      rw [Bool.eq_false_iff] at hnone
      refine hnone ((mergeInArea_iff _ _).2 ?_)
      rw [hgo.1]
      exact (mergesIn_portOn _ _).2 hin
    · rfl
  rw [hstay]
  exact ⟨hatb, hgo⟩

/-! ### The read's answer (R19 to R26) -/

section
variable {s : State} {txn n : Nat} {a : CellAcc} {m : Merge}

theorem access?_no (h : access? n s = some a) : a.no = n ∧ a ∈ s.mge.port := by
  have hfind := List.find?_some h
  exact ⟨by simpa using hfind, List.mem_of_find?_eq_some h⟩

theorem mergeRead_of {d : RData} (ha : access? n s = some a) (hu : a.use = .merge m) (hg : grantedKind txn s = some (.cellRead n))
    (hs : a.stage = .reading) : exec (.mergeReadResponse txn d) s = .next (mergeRead a m d (answered txn s)) := by
  change execMergeReadResponse txn d s = _
  rw [execMergeReadResponse, hg]
  dsimp only
  rw [ha]
  dsimp only
  rw [hu, hs]

theorem mergeWrite_of {r : Resp} {o : MergeOutcome} (ha : access? n s = some a) (hu : a.use = .merge m)
    (hg : grantedKind txn s = some (.cellWrite n)) (hs : a.stage = .writing o) : exec (.mergeWriteResponse txn r) s =
      .next (endMerge n (handWrite m o (respErr r) (memErr (respErr r) (answered txn s)))) := by
  change execMergeWriteResponse txn r s = _
  rw [execMergeWriteResponse, hg]
  dsimp only
  rw [ha]
  dsimp only
  rw [hu, hs]

theorem handRead_err (m : Merge) (u : State) : handRead m true u = putSeq { u.mge.seq with
    memerr := if m.live then u.mge.seq.memerr + 1 else u.mge.seq.memerr } u := by
  unfold handRead
  cases m.live <;> rfl

theorem handRead_dup (m : Merge) (u : State) : handRead m false u = putSeq { u.mge.seq with
    dup := if m.live then u.mge.seq.dup + 1 else u.mge.seq.dup } u := by
  unfold handRead
  cases m.live <;> rfl

theorem handWrite_live {o : MergeOutcome} {e : Bool} {u : State} (h : m.live = true) : handWrite m o e u = putSeq { u.mge.seq with
    done := min (activePixels u) (u.mge.seq.done + 1)
    rejects := if o = .rejected then u.mge.seq.rejects + 1 else u.mge.seq.rejects
    nlo0 := if o = .clipped true ∧ m.k = 0 then min (activePixels u) (u.mge.seq.nlo0 + 1) else u.mge.seq.nlo0
    memerr := if e then u.mge.seq.memerr + 1 else u.mge.seq.memerr } u := by
  refine (if_pos h).trans (congrArg (putSeq · u) ?_)
  cases o with
  | clipped lo => cases lo <;> simp [Seq.handDone]
  | _ => simp [Seq.handDone]

theorem noteReject_tsa (m : Merge) (o : MergeOutcome) (u : State) :
    (o = .rejected → m.live = true → (noteReject m o u).tsa =
      { u.tsa with rejects := sput u.tsa.rejects m.tile (min 65535 (sget u.tsa.rejects m.tile + 1)) }) ∧
    (o ≠ .rejected ∨ m.live = false → (noteReject m o u).tsa = u.tsa) := by
  refine ⟨fun ho hl => ?_, fun h => ?_⟩
  · rw [ho, noteReject, if_pos hl]
    rfl
  · unfold noteReject
    split
    · rw [if_neg (by rw [h.resolve_left fun hne => hne rfl]; nofun)]
    · rfl

end

/-- Settles O39: each answer is the end of the merge with its counts, or the merge's write. -/
theorem mergeAnswersUpdateCounts : Obligations.MergeAnswersUpdateCounts := by
  intro s txn n a m hacc huse q m0 p rs merging ended
  obtain ⟨hno, hmem⟩ := access?_no hacc
  have hended : ∀ u : State, u.mge = { s.mge with seq := u.mge.seq } → u.atb = s.atb → u.mpa = m0 → u.serial = s.serial →
      ended (endMerge n u) ∧ (endMerge n u).mge.seq = u.mge.seq := fun u hm ha hp hs => by
    have hport : u.mge.port = s.mge.port := by rw [hm]
    have hmge := endMerge_mge n u
    have hseq : (endMerge n u).mge.seq = u.mge.seq := by rw [hmge]
    refine ⟨⟨endMerge_gone n u, ?_, fun w hw h0 hnot => ?_, fun h => ?_⟩, hseq⟩
    · rw [hseq, hmge, hport, hm]
    · have hkick := endMerge_kicks (n := n) (u := u) (w := w) (by rw [ha]; exact hw) h0 (by rw [hport, ha]; exact hnot)
      dsimp only at hkick
      rwa [hport, ha, hp, hs] at hkick
    · have hstay := endMerge_stays (n := n) (u := u) (by rw [hport, ha]; exact h)
      rwa [hport, ha, hp, hs] at hstay
  refine ⟨fun d hg hst => ?read, fun r o hg hst => ?write⟩
  case read =>
    intro j r
    have hrun : exec (.mergeReadResponse txn d) s = .next (mergeRead a m d (answered txn s)) := mergeRead_of hacc huse hg hst
    refine ⟨fun he => ?_, fun he hd => ?_, fun he hd => ?_⟩
    · let u := handRead m true (setLatch .memerrSeen (answered txn s))
      have ht : mergeRead a m d (answered txn s) = endMerge n u := by rw [mergeRead, if_pos he, hno]
      have hu : u = putSeq { q with memerr := if m.live then q.memerr + 1 else q.memerr } (setLatch .memerrSeen (answered txn s)) :=
        handRead_err m (setLatch .memerrSeen (answered txn s))
      have hframe : Frame [.mpa, .rpu, .mge] s u := ((frame_answered (s := s)).trans frame_setLatch).seq frame_handRead
      obtain ⟨hgone, hseq⟩ := hended u (by rw [hu]; rfl) hframe.atb (by rw [hu]; rfl) hframe.serial
      refine ⟨_, hrun.trans (congrArg _ ht), hgone, hseq.trans (by rw [hu]; rfl), ?_, hframe.seq frame_endMerge⟩
      exact frame_endMerge.rpu.trans (by rw [hu]; rfl)
    · let u := handRead m false (answered txn s)
      have ht : mergeRead a m d (answered txn s) = endMerge n u := by
        rw [mergeRead, if_neg (by rw [he]; nofun), hno]
        exact if_pos hd
      have hu : u = putSeq { q with dup := if m.live then q.dup + 1 else q.dup } (answered txn s) := handRead_dup m (answered txn s)
      have hframe : Frame [.mpa, .mge] s u := (frame_answered (s := s)).trans frame_handRead
      obtain ⟨hgone, hseq⟩ := hended u (by rw [hu]; rfl) hframe.atb (by rw [hu]; rfl) hframe.serial
      exact ⟨_, hrun.trans (congrArg _ ht), hgone, hseq.trans (by rw [hu]; rfl), hframe.seq frame_endMerge⟩
    · let u := noteReject m r.2 (answered txn s)
      have ht : mergeRead a m d (answered txn s) = requestM (.cellWrite n) .cell true a.addr 8 r.1.bytes (setWriting n r.2 u) := by
        rw [mergeRead, if_neg (by rw [he]; nofun), ← hno]
        exact if_neg (by rw [hd]; nofun)
      have hframe : Frame [.mpa, .tsa] s u := (frame_answered (s := s)).trans frame_noteReject
      have hmpa : u.mpa = m0 := frame_noteReject.mpa
      have hport : (setWriting n r.2 u).mge.port = s.mge.port.map fun x =>
          if x.no = n ∧ x.stage = .reading then { x with stage := .writing r.2 } else x := by
        change u.mge.port.map _ = _
        rw [hframe.mge]
        refine List.map_congr_left fun x _ => ?_
        simp only [Bool.and_eq_true, beq_iff_eq]
      have hmge : (setWriting n r.2 u).mge = { s.mge with port := (setWriting n r.2 u).mge.port } := by
        have hset : (setWriting n r.2 u).mge = { u.mge with port := (setWriting n r.2 u).mge.port } := rfl
        exact hset.trans (by rw [hframe.mge])
      obtain ⟨hrej, hkeep⟩ := noteReject_tsa m r.2 (answered txn s)
      refine ⟨_, hrun.trans (congrArg _ ht), ?_, ?_, ?_, ?_, hrej, hkeep, (hframe.trans frame_setWriting).seq frame_requestM⟩
      · exact hmge.trans (by rw [hport])
      · refine ⟨{ a with stage := .writing r.2 }, ?_, hno, rfl⟩
        change _ ∈ (setWriting n r.2 u).mge.port
        rw [hport]
        exact List.mem_map.2 ⟨a, hmem, if_pos ⟨hno, hst⟩⟩
      · rw [requestM_mpa, frame_setWriting.mpa, frame_setWriting.serial, hmpa, hframe.serial]
        rfl
      · rw [requestM_serial, frame_setWriting.serial, hframe.serial]
  case write =>
    let e := memErr (respErr r) (answered txn s)
    let u := handWrite m o (respErr r) e
    have hrun : exec (.mergeWriteResponse txn r) s = .next (endMerge n u) := mergeWrite_of hacc huse hg hst
    have he : e = (answered txn s).setRpu { s.rpu with memerrSeen := s.rpu.memerrSeen || respErr r } := memErr_eq ..
    have hframe : Frame [.mpa, .rpu] s e := (frame_answered (s := s)).trans frame_memErr
    have hall : Frame [.mpa, .rpu, .mge] s u := hframe.seq frame_handWrite
    have hu : u.mge = { s.mge with seq := u.mge.seq } := by
      by_cases hl : m.live = true
      · rw [show u = _ from handWrite_live hl, putSeq, State.setMge_mge, hframe.mge]
      · rw [show u = e from if_neg hl, hframe.mge]
    obtain ⟨hgone, hseq⟩ := hended u hu hall.atb (by rw [show u.mpa = e.mpa from frame_handWrite.mpa, he]; rfl) hall.serial
    have hpixels : activePixels e = activePixels s := by rw [activePixels, activeSlot, hframe.slots]; rfl
    refine ⟨_, hrun, hgone, ?_, fun hl => hseq.trans ?_, fun hl => hseq.trans ?_, hall.seq frame_endMerge⟩
    · rw [frame_endMerge.rpu, show u.rpu = e.rpu from frame_handWrite.rpu, he]
      rfl
    · rw [show u = e from if_neg (by rw [hl]; nofun), hframe.mge]
    · rw [show u = _ from handWrite_live hl, putSeq, State.setMge_mge, hframe.mge, hpixels]

end Sys2Proof.Machine
end

section
/-! SUPPORT. The finish scan's answers (R95 to R98, R102 to R104) and the gain computation (R82 to R85). -/
namespace Sys2Proof.Machine
set_option Elab.async false

/-! ### The counts (Table 6-2) -/

theorem hasData_iff (x : Cell) : x.hasData = true ↔ 0 < x.nuse ∨ x.clipHi = true ∨ x.clipLo = true := by
  simp [Cell.hasData, or_assoc]

theorem count_noData (c : Scan) (auto : Bool) (opn : Nat) {x : Cell} (h : x.hasData = false) :
    c.count auto opn (some x) = { c with nNodata := c.nNodata + 1 } := if_neg (by rw [h]; nofun)

theorem count_data (c : Scan) (auto : Bool) (opn : Nat) {x : Cell} (h : x.hasData = true) : c.count auto opn (some x) =
    { c with
      nData := c.nData + 1, nGap := if x.nuse = 0 then c.nGap + 1 else c.nGap
      nReject := if x.reject then c.nReject + 1 else c.nReject
      nRetake := if x.retake then c.nRetake + 1 else c.nRetake
      hist := if auto then sput c.hist ((density (some x) opn).getD 0 / 16)
        (sget c.hist ((density (some x) opn).getD 0 / 16) + 1) else c.hist } := by
  have hnat : ∀ (b : Bool) (n : Nat), n + b.toNat = if b then n + 1 else n := fun b n => by cases b <;> rfl
  refine (if_pos h).trans ?_
  simp only [hnat, decide_eq_true_eq]

theorem cellWord_halves (d : BeatData) : cellWord 0 d = d.extractLsb' 0 64 ∧ cellWord 8 d = d.extractLsb' 64 64 := ⟨rfl, rfl⟩

/-- A beat of a scan burst: two unreadable cells, or two cells judged and counted (R96, R97). -/
theorem beats_cons (c : Scan) (auto : Bool) (gen opn : Nat) (d : RData) (ds : List RData) :
    c.beats auto gen opn (d :: ds) = (c.beat auto gen opn d).beats auto gen opn ds := by
  rw [Scan.beats]

theorem count_slot (c : Scan) (auto : Bool) (opn : Nat) (x : Option Cell) : (c.count auto opn x).slot = c.slot := by
  cases x with
  | none => rfl
  | some x =>
    cases h : x.hasData with
    | true => rw [count_data c auto opn h]
    | false => rw [count_noData c auto opn h]

theorem beats_slot (c : Scan) (auto : Bool) (gen opn : Nat) (ds : List RData) : (c.beats auto gen opn ds).slot = c.slot := by
  induction ds generalizing c with
  | nil => rfl
  | cons d ds ih =>
    rw [beats_cons, ih, Scan.beat]
    split
    · rfl
    · rw [count_slot, count_slot]

/-! ### The scan's end (R98) -/

theorem endDueAt_of {s : State} {i : Fin 4} (e : JobEnd) (h : (vget s.slots i).endDue = none) :
    endDueAt i e s = putSlot i { vget s.slots i with endDue := some e, startDue := false } s :=
  if_neg (by rw [h]; nofun)

theorem scanEnd_eq (j : JobRecord) (c : Scan) : scanEnd j c =
    ⟨.done, .none, ⟨c.nData, c.nGap, c.nReject, c.nRetake, c.nNodata, c.nUnread⟩, decide (j.range = .auto ∧ c.nData = 0),
      (scanRange j c).1, (scanRange j c).2⟩ := rfl

theorem scanComplete_last {j : JobRecord} {s : State} (hn : s.scan.next = j.w * j.h) (hp : s.mge.port.any CellAcc.isScan = false)
    (hnone : (vget s.slots s.scan.slot).endDue = none) : scanComplete j s =
      putSlot s.scan.slot { vget s.slots s.scan.slot with endDue := some (scanEnd j s.scan), startDue := false }
        (s.setScan { s.scan with scanning := false }) :=
  (if_pos ⟨hn, hp⟩).trans (endDueAt_of (s := s.setScan { s.scan with scanning := false }) _ hnone)

theorem scanComplete_more {j : JobRecord} {s : State} (h : ¬ (s.scan.next = j.w * j.h ∧ s.mge.port.any CellAcc.isScan = false)) :
    scanComplete j s = s := if_neg h

/-- A scan's reads that are left once an access is over (R95, R98). -/
theorem port_scanFree (p : List CellAcc) (n : Nat) :
    (portOn (p.filter fun x => decide (x.no ≠ n))).any CellAcc.isScan = false ↔ ∀ b ∈ p, b.no ≠ n → b.use ≠ .scan := by
  rw [List.any_eq_false]
  constructor
  · intro h b hb hno huse
    obtain ⟨y, hy, -, hy', -⟩ := mem_portFrom [] (p.filter fun x => decide (x.no ≠ n)) (List.mem_filter.2 ⟨hb, decide_eq_true hno⟩)
    exact h y hy ((isScan_iff y).2 (hy'.trans huse))
  · intro h y hy hs
    obtain ⟨b, hb, -, hy', -⟩ := of_mem_portFrom [] _ hy
    obtain ⟨hmem, hno⟩ := List.mem_filter.1 hb
    exact h b hmem (of_decide_eq_true hno) (hy'.symm.trans ((isScan_iff y).1 hs))

/-- The part once a scan burst's answer has been counted and its access is over (R95, R96). -/
def scanAnswered (n txn : Nat) (beats : List RData) (c : Scan) (s : State) : State :=
  endAccess n ((memErr (anyErr beats) (answered txn s)).setScan c)

theorem finishScan_of {s : State} {txn n : Nat} {beats : List RData} {a : CellAcc} {j : JobRecord}
    (hg : grantedKind txn s = some (.cellRead n)) (ha : access? n s = some a) (hu : a.use = .scan)
    (hj : (vget s.slots s.scan.slot).job = some j) (hlen : 16 * beats.length = a.len) :
    exec (.finishScanResponse txn beats) s = .next (scanComplete j (scanAnswered n txn beats
      (s.scan.beats (decide (j.range = .auto)) (vget s.slots s.scan.slot).gen (vget s.slots s.scan.slot).opn beats) s)) := by
  have hauto : (j.range == .auto) = decide (j.range = .auto) := by cases j.range <;> rfl
  have hscan : (memErr (anyErr beats) (answered txn s)).scan = s.scan := frame_memErr.scan
  change execFinishScanResponse txn beats s = _
  rw [execFinishScanResponse, hg]
  dsimp only
  rw [ha]
  dsimp only
  rw [hj]
  dsimp only
  rw [if_pos ⟨(isScan_iff a).2 hu, hlen⟩, hauto, hscan]
  rfl

theorem access_gone (n : Nat) (u : State) : ∀ x ∈ (endAccess n u).mge.port, x.no ≠ n := by
  rw [(endAccess_go n u).2]
  intro x hx
  obtain ⟨a, ha, hno, -⟩ := of_mem_portFrom [] _ hx
  rw [hno]
  exact of_decide_eq_true (List.mem_filter.1 ha).2

/-- Settles O43: the counts, then the answer's end of the access, and the DONE end with the last. -/
theorem finishScanCountsAndEnds : Obligations.FinishScanCountsAndEnds := by
  refine ⟨fun c auto opn => ⟨rfl, fun x h1 h2 h3 => count_noData c auto opn ?_, fun x h => count_data c auto opn ((hasData_iff x).2 h)⟩,
    fun c auto gen opn => ⟨rfl, fun d ds => ⟨fun h => ?_, fun h => ?_⟩⟩, ?_⟩
  · simp [Cell.hasData, h1, h2, h3]
  · rw [beats_cons, Scan.beat, if_pos h]
    rfl
  · rw [beats_cons, Scan.beat, if_neg (by rw [h]; nofun)]
    rfl
  intro s txn n beats a j hg ha hu hj hlen hnone x c last range e
  have hrun := finishScan_of hg ha hu hj hlen
  have hcounted : Frame [.mpa, .rpu, .scan] s ((memErr (anyErr beats) (answered txn s)).setScan c) :=
    (frame_answered.trans frame_memErr).trans frame_setScan
  have hmpa : ((memErr (anyErr beats) (answered txn s)).setScan c).mpa = (answered txn s).mpa := frame_memErr.mpa
  have hrpu : ((memErr (anyErr beats) (answered txn s)).setScan c).rpu = { s.rpu with memerrSeen := s.rpu.memerrSeen || anyErr beats } := memErr_rpu ..
  obtain ⟨hgo, hmge⟩ := endAccess_go n ((memErr (anyErr beats) (answered txn s)).setScan c)
  have hgone := access_gone n ((memErr (anyErr beats) (answered txn s)).setScan c)
  have hend : Frame [.mge, .serial, .mpa] ((memErr (anyErr beats) (answered txn s)).setScan c) (scanAnswered n txn beats c s) := frame_endAccess
  have hscan : (scanAnswered n txn beats c s).scan = c := hend.scan
  rw [hcounted.mge, hmpa, hcounted.serial] at hgo
  rw [hcounted.mge] at hmge
  change PortGoesOn _ _ _ (scanAnswered n txn beats c s) at hgo
  change (scanAnswered n txn beats c s).mge = _ at hmge
  change ∀ x ∈ (scanAnswered n txn beats c s).mge.port, x.no ≠ n at hgone
  have hall := hcounted.trans hend
  have hrpu' : (scanAnswered n txn beats c s).rpu = _ := hend.rpu.trans hrpu
  change exec _ s = .next (scanComplete j (scanAnswered n txn beats c s)) at hrun
  generalize scanAnswered n txn beats c s = v at hrun hgo hmge hgone hscan hall hrpu'
  have hslots : v.slots = s.slots := hall.slots
  have hport : v.mge = { s.mge with port := v.mge.port } := by rw [hmge]
  have hslot : c.slot = s.scan.slot := beats_slot ..
  have hlast : (v.scan.next = j.w * j.h ∧ v.mge.port.any CellAcc.isScan = false) ↔ last := by
    rw [hscan, hmge]
    exact and_congr_right fun _ => port_scanFree s.mge.port n
  by_cases hl : last
  · obtain ⟨hn, hp⟩ := hlast.2 hl
    have hdone := scanComplete_last (s := v) hn hp (by rw [hslots, hscan, hslot]; exact hnone)
    rw [hscan, hslots, hslot] at hdone
    rw [hdone] at hrun
    exact ⟨_, hrun, hrpu', hgo, hgone, hport, fun h => absurd hl h, fun _ => ⟨rfl, congrArg (vput · _ _) hslots⟩,
      (hall.trans frame_setScan).seq frame_putSlot⟩
  · rw [scanComplete_more (mt hlast.1 hl)] at hrun
    exact ⟨_, hrun, hrpu', hgo, hgone, hport, fun _ => ⟨hscan, hslots⟩, fun h => absurd h hl, hall.wide⟩

/-! ### The gain computation (R82 to R85) -/

theorem flatFinishing_of {s : State} {i : Fin 4} {j : JobRecord} (h : flatFinishing s = some (i, j)) :
    (vget s.slots i).job = some j ∧ (vget s.slots i).endDue = none := by
  unfold flatFinishing at h
  split at h
  next k hk =>
    dsimp only at h
    split at h
    next j' hj =>
      split at h
      next hc =>
        cases h
        exact ⟨hj, hc.2.2⟩
      next => cases h
    next => cases h
  next => cases h

theorem tileGood_iff (a : Tsa) (t : Nat) : tileGood a t = decide (0 < sget a.flatCount t ∧ 0 < sget a.flatSum t / sget a.flatCount t) := by
  rw [tileGood, tileMean, Bool.decide_and]

/-- The good tiles of the first `n` (R82). -/
def goodTiles (a : Tsa) (n : Nat) : List Nat := (List.range n).filter (tileGood a)

theorem goodTiles_succ (a : Tsa) (n : Nat) : goodTiles a (n + 1) = goodTiles a n ++ if tileGood a n then [n] else [] := by
  rw [goodTiles, List.range_succ, List.filter_append]
  cases h : tileGood a n <;> simp [goodTiles, h]

/-- The first pass counts the good tiles and adds their means (R82). -/
theorem firstPass_eq (a : Tsa) (n : Nat) : firstPass a n = ((goodTiles a n).length, ((goodTiles a n).map (tileMean a)).sum) := by
  induction n with
  | zero => rfl
  | succ n ih =>
    rw [goodTiles_succ, firstPass, ih]
    cases h : tileGood a n <;> simp

/-- The clamped gains are those of good tiles outside the bounds (R84). -/
theorem clampedCount_eq (a : Tsa) (t n : Nat) : clampedCount a t n =
    ((goodTiles a n).filter fun k => decide (t * 16384 / tileMean a k < 8192 ∨ 32767 < t * 16384 / tileMean a k)).length := by
  induction n with
  | zero => rfl
  | succ n ih =>
    rw [goodTiles_succ, clampedCount, ih, List.filter_append, List.length_append, rawGain]
    cases h : tileGood a n with
    | false => simp
    | true =>
      by_cases hb : t * 16384 / tileMean a n < 8192 ∨ 32767 < t * 16384 / tileMean a n
      · simp [hb]
      · simp [hb]

theorem sget_sputAll {m : Sparse} (h : swf m = true) (k : Nat) (vs : List Nat) (o : Nat) :
    sget (sputAll m k vs) o = if k ≤ o ∧ o < k + vs.length then vs.getD (o - k) 0 else sget m o := by
  induction vs generalizing m k with
  | nil => rw [sputAll, if_neg (by simp)]
  | cons v vs ih =>
    rw [sputAll, ih (swf_sput m k v h), sget_sput h, List.length_cons]
    by_cases ho : o = k
    · subst ho
      rw [if_neg (by omega), if_pos rfl, if_pos (by omega), Nat.sub_self]
      rfl
    · by_cases hin : k + 1 ≤ o ∧ o < k + 1 + vs.length
      · rw [if_pos hin, if_pos (by omega), show o - k = (o - (k + 1)) + 1 by omega]
        rfl
      · rw [if_neg hin, if_neg ho, if_neg (by omega)]

theorem gainsFrom_eq (a : Tsa) (t n i : Nat) : gainsFrom a t n i = (List.range n).map fun k => tileGain a t (i + k) := by
  induction n generalizing i with
  | zero => rfl
  | succ n ih =>
    rw [gainsFrom, ih, List.range_succ_eq_map, List.map_cons, List.map_map, Nat.add_zero]
    exact congrArg (_ :: ·) (List.map_congr_left fun k _ => congrArg (tileGain a t) (by simp only [Nat.succ_eq_add_one]; omega))

/-- The bank that the second pass builds holds each tile's gain (R84). -/
theorem built_gain (a : Tsa) (t n : Nat) {k : Nat} (hk : k < n) : sget (sputAll [] 0 (gainsFrom a t n 0)) k = tileGain a t k := by
  rw [sget_sputAll rfl, gainsFrom_eq, if_pos (by simpa using hk)]
  simp [List.getD_eq_getElem?_getD, hk]

/-- Settles O44: the two passes in closed form, then the limit test and the bank that is built. -/
theorem flatGainsBuiltOrDim : Obligations.FlatGainsBuiltOrDim := by
  intro s i j hfin x tiles mean good target
  obtain ⟨hjob, hnone⟩ := flatFinishing_of hfin
  have htiles : j.tiles = (j.w + 63) / 64 * ((j.h + 63) / 64) := rfl
  have hgood : goodTiles s.tsa j.tiles = good := List.filter_congr fun t _ => tileGood_iff s.tsa t
  have hpass : firstPass s.tsa j.tiles = (good.length, (good.map mean).sum) := by
    rw [firstPass_eq, hgood]
    rfl
  have hlimit : s.fst.comp = some .first → exec .limitTest s =
      if good.length = 0 ∨ target / 32 < 1024 then .next (failDue i .dim (s.setFst { s.fst with comp := none }))
      else .next (s.setFst { s.fst with comp := some (.second target good.length (j.tiles - good.length)) }) := fun hc => by
    change execLimitTest s = _
    rw [execLimitTest, hfin, hc]
    dsimp only
    rw [hpass]
  refine ⟨fun hc hdim => ?_, fun hc hsome hopen => ?_, fun t g b hc => ?_⟩
  · rw [hlimit hc, if_pos (hdim.imp_left fun h => by rw [h]; rfl)]
    exact congrArg _ (failDue_of (s := s.setFst { s.fst with comp := none }) .dim hjob hnone)
  · rw [hlimit hc, if_neg (not_or.2 ⟨fun h => hsome (List.length_eq_zero_iff.1 h), by omega⟩)]
    rw [show tiles.length = j.tiles from List.length_range]
    rfl
  · let u := putBank j.bankNo (builtBank j s.tsa t) (s.setFst { s.fst with comp := none })
    have hrun : exec .gainComputationComplete s = .next (endDueAt i (flatEnd j s.tsa t g b) u) := by
      change execGainComputationComplete s = _
      rw [execGainComputationComplete, hfin, hc]
    rw [endDueAt_of (s := u) _ hnone] at hrun
    refine ⟨_, sputAll [] 0 (gainsFrom s.tsa t j.tiles 0), hrun, rfl, fun k hk => ?_, ?_, (frame_setFst.trans frame_putBank).seq frame_putSlot⟩
    · rw [built_gain s.tsa t j.tiles (List.mem_range.1 hk), tileGain, tileGood_iff]
      simp only [decide_eq_true_eq]
      rfl
    · have hclamped := clampedCount_eq s.tsa t j.tiles
      rw [hgood] at hclamped
      change vput s.slots i { x with endDue := some (flatEnd j s.tsa t g b), startDue := false } = _
      rw [flatEnd, hclamped]
      rfl

end Sys2Proof.Machine
end

section
/-! SUPPORT. Values of the part's arithmetic: the logarithm and the densities (R100, R101), the outputs (R105, R106) and the
AUTO range (R103, R104). -/
namespace Sys2Proof.Machine
set_option Elab.async false

/-! ### The logarithm (R100) -/

theorem logL_eq {n y : Nat} (hlo : 2 ^ n ≤ y) (hhi : y < 2 ^ (n + 1)) : logL y = 1024 * n + (y - 2 ^ n) * 1024 / 2 ^ n := by
  have hpos : 0 < 2 ^ n := Nat.two_pow_pos n
  have hn : Nat.log2 y = n := (Nat.log2_eq_iff (by omega)).2 ⟨hlo, hhi⟩
  rw [logL, hn]

/-- The fraction of a level stays below the next whole one. -/
theorem logL_lt {n y : Nat} (hlo : 2 ^ n ≤ y) (hhi : y < 2 ^ (n + 1)) : logL y < 1024 * (n + 1) := by
  have hpos : 0 < 2 ^ n := Nat.two_pow_pos n
  have hfrac : (y - 2 ^ n) * 1024 / 2 ^ n < 1024 := by
    rw [Nat.div_lt_iff_lt_mul hpos, Nat.mul_comm 1024]
    exact Nat.mul_lt_mul_of_pos_right (by rw [Nat.pow_succ] at hhi; omega) (by decide)
  rw [logL_eq hlo hhi]
  omega

theorem logL_mono {x y : Nat} (hx : 1 ≤ x) (hxy : x ≤ y) : logL x ≤ logL y := by
  have hx₀ := Nat.log2_self_le (n := x) (by omega)
  have hx₁ := Nat.lt_log2_self (n := x)
  have hy₀ := Nat.log2_self_le (n := y) (by omega)
  have hy₁ := Nat.lt_log2_self (n := y)
  have hle : Nat.log2 x ≤ Nat.log2 y := (Nat.le_log2 (by omega)).2 (Nat.le_trans hx₀ hxy)
  rcases Nat.eq_or_lt_of_le hle with heq | hlt
  · rw [heq] at hx₀ hx₁
    rw [logL_eq hx₀ hx₁, logL_eq hy₀ hy₁]
    exact Nat.add_le_add_left (Nat.div_le_div_right (Nat.mul_le_mul_right _ (Nat.sub_le_sub_right hxy _))) _
  · have hup := logL_lt hx₀ hx₁
    have hdown : 1024 * Nat.log2 y ≤ logL y := by
      rw [logL_eq hy₀ hy₁]
      exact Nat.le_add_right ..
    omega

/-! ### The densities (R101) -/

theorem density_used {c : Cell} (opn : Nat) (h : 0 < c.nuse) : density (some c) opn =
    if c.sum / c.wsum = 0 then some 16383
    else if logL opn ≤ logL (c.sum / c.wsum) then some 0 else some (min 16383 (logL opn - logL (c.sum / c.wsum))) :=
  if_neg (by omega)

theorem density_unused {c : Cell} (opn : Nat) (h : c.nuse = 0) : density (some c) opn =
    if c.clipHi then some 0 else if c.clipLo then some 16383 else none := if_pos h

theorem density_le {j : Option Cell} {opn d : Nat} (h : density j opn = some d) : d ≤ 16383 := by
  cases j with
  | none => cases h
  | some c =>
    by_cases hn : c.nuse = 0
    · rw [density_unused opn hn] at h
      split at h
      · cases h; decide
      · split at h
        · cases h; decide
        · cases h
    · rw [density_used opn (by omega)] at h
      split at h
      · cases h; decide
      · split at h
        · cases h; decide
        · cases h; exact Nat.min_le_left ..

/-! ### The outputs (R105, R106) -/

theorem renderOut_positive {c : Capt} (w : BitVec 64) (h : c.render = .positive) :
    renderOut c w = outPositive (density (judge (Cell.ofWord w) c.gen none) c.opn) c.dlo c.dhi c.fmt := by
  rw [renderOut, h]

theorem renderOut_linear {c : Capt} (w : BitVec 64) (h : c.render = .linear) :
    renderOut c w = outLinear (judge (Cell.ofWord w) c.gen none) c.fmt := by
  rw [renderOut, h]

theorem clamp_eq {a lo hi : Nat} (h : lo ≤ hi) : clamp a lo hi = max lo (min a hi) := by
  unfold clamp
  split
  · omega
  · split <;> omega

theorem clamp_le {a lo hi : Nat} (h : lo ≤ hi) : clamp a lo hi ≤ hi := by
  rw [clamp_eq h]
  omega

/-- The conditions of R2 under which a cell is taken as empty. -/
def TakenEmpty (c : Cell) (gen : Nat) (k : Option Nat) : Prop :=
  c.gen ≠ gen ∨ c.gen = 0 ∨ (8 ≤ c.lastk ∧ c.lastk ≤ 14) ∨
    (c.lastk = 15 ∧ (c.sum ≠ 0 ∨ c.wsum ≠ 0 ∨ c.nuse ≠ 0 ∨ c.nrej ≠ 0 ∨ c.clipHi = true ∨ c.clipLo = true ∨
      c.reject = true ∨ c.retake = true)) ∨
    7 < c.nrej ∨ (c.lastk ≤ 7 ∧ c.lastk + 1 < c.nuse + c.nrej) ∨ c.wsum < c.nuse ∨ 15 * c.nuse < c.wsum ∨
    1048480 * c.wsum < c.sum ∨ ∃ x, k = some x ∧ c.lastk ≤ 7 ∧ x < c.lastk

theorem takenEmpty_iff (c : Cell) (gen : Nat) (k : Option Nat) : takenEmpty c gen k = true ↔ TakenEmpty c gen k := by
  have hlast : (match k with | some k => decide (c.lastk ≤ 7) && decide (k < c.lastk) | none => false) = true ↔
      ∃ x, k = some x ∧ c.lastk ≤ 7 ∧ x < c.lastk := by
    cases k <;> simp
  unfold takenEmpty
  refine (Bool.or_eq_true ..).to_iff.trans ((or_congr_right (Iff.trans (by rfl) hlast)).trans ?_)
  simp only [TakenEmpty, Bool.or_eq_true, Bool.and_eq_true, decide_eq_true_eq, or_assoc]
  exact Iff.rfl

theorem judge_none {c : Cell} {gen : Nat} {k : Option Nat} (h : TakenEmpty c gen k) : judge c gen k = none :=
  if_pos ((takenEmpty_iff ..).2 h)

theorem judge_found {c : Cell} {gen : Nat} {k : Option Nat} (h : ¬ TakenEmpty c gen k) : judge c gen k = some c :=
  if_neg (mt (takenEmpty_iff ..).1 h)

theorem judge_some {c x : Cell} {gen : Nat} {k : Option Nat} (h : judge c gen k = some x) : x = c ∧ ¬ TakenEmpty c gen k := by
  by_cases he : TakenEmpty c gen k
  · rw [judge_none he] at h
    cases h
  · rw [judge_found he] at h
    exact ⟨(Option.some.inj h).symm, he⟩

/-- A judged cell keeps R2's bound of its mean. -/
theorem judge_mean {c x : Cell} {gen : Nat} {k : Option Nat} (h : judge c gen k = some x) : x.sum ≤ 1048480 * x.wsum := by
  obtain ⟨rfl, hfull⟩ := judge_some h
  simp only [TakenEmpty, not_or, Nat.not_lt] at hfull
  obtain ⟨-, -, -, -, -, -, -, -, hsum, -⟩ := hfull
  exact hsum

theorem mean_le {c : Cell} (h : c.sum ≤ 1048480 * c.wsum) : c.sum / c.wsum ≤ 1048480 :=
  Nat.div_le_of_le_mul (Nat.mul_comm _ _ ▸ h)

theorem outLinear_unused {c : Cell} (f : Fmt) (h : c.nuse = 0) : outLinear (some c) f = if c.clipHi then f.full else 0 := if_pos h

theorem outLinear_used {c : Cell} (h : 0 < c.nuse) :
    outLinear (some c) .d16 = min 65535 (c.sum / c.wsum / 16) ∧ outLinear (some c) .d8 = c.sum / c.wsum / 4096 :=
  ⟨if_neg (by omega), if_neg (by omega)⟩

theorem outLinear_le {j : Option Cell} {f : Fmt} (h : ∀ c, j = some c → c.sum ≤ 1048480 * c.wsum) : outLinear j f ≤ f.full := by
  cases j with
  | none => exact Nat.zero_le _
  | some c =>
    have hmean := mean_le (h c rfl)
    rcases Nat.eq_zero_or_pos c.nuse with hn | hn
    · rw [outLinear_unused f hn]
      split
      · exact Nat.le_refl _
      · exact Nat.zero_le _
    · cases f with
      | d16 =>
        rw [(outLinear_used hn).1]
        exact Nat.min_le_left ..
      | d8 =>
        rw [(outLinear_used hn).2]
        change _ ≤ 255
        omega

theorem outPositive_le {d : Option Nat} {dlo dhi : Nat} {f : Fmt} (h : dlo < dhi) : outPositive d dlo dhi f ≤ f.full := by
  cases d with
  | none => exact Nat.zero_le _
  | some d =>
    have hc : clamp d dlo dhi ≤ dhi := clamp_le (Nat.le_of_lt h)
    refine Nat.div_le_of_le_mul ?_
    exact Nat.mul_le_mul_right _ (by omega)

/-! ### The AUTO range (R103, R104) -/

/-- The cumulative count below bin `j`. -/
def countBelow (hist : Sparse) (j : Nat) : Nat := ((List.range j).map (sget hist)).sum

theorem countBelow_succ (hist : Sparse) (j : Nat) : countBelow hist (j + 1) = countBelow hist j + sget hist j := by
  simp [countBelow, List.range_succ]

/-- The search stops at the first bin whose cumulative count reaches the sought one. -/
theorem binAtLeast_first {hist : Sparse} {a n j k : Nat} (hjk : j ≤ k) (hk : k ≤ j + n) (hreach : a ≤ countBelow hist (k + 1))
    (hfirst : ∀ i, i < k → countBelow hist (i + 1) < a) : binAtLeast hist a n j (countBelow hist j) = k := by
  induction n generalizing j with
  | zero => exact Nat.le_antisymm hjk hk
  | succ n ih =>
    rw [binAtLeast, ← countBelow_succ]
    rcases Nat.eq_or_lt_of_le hjk with rfl | hlt
    · exact if_pos hreach
    · have hbelow := hfirst j hlt
      rw [if_neg (by omega)]
      exact ih hlt (by omega)

theorem binAtLeast_le (hist : Sparse) (a n j c : Nat) : binAtLeast hist a n j c ≤ j + n := by
  induction n generalizing j c with
  | zero => exact Nat.le_refl _
  | succ n ih =>
    rw [binAtLeast]
    split
    · omega
    · exact Nat.le_trans (ih ..) (by omega)

theorem le_binAtLeast (hist : Sparse) (a n j c : Nat) : j ≤ binAtLeast hist a n j c := by
  induction n generalizing j c with
  | zero => exact Nat.le_refl _
  | succ n ih =>
    rw [binAtLeast]
    split
    · exact Nat.le_refl _
    · exact Nat.le_trans (Nat.le_succ j) (ih ..)

theorem binAtLeast_mono (hist : Sparse) {a b : Nat} (h : a ≤ b) (n j c : Nat) : binAtLeast hist a n j c ≤ binAtLeast hist b n j c := by
  induction n generalizing j c with
  | zero => exact Nat.le_refl _
  | succ n ih =>
    rw [binAtLeast, binAtLeast]
    split
    · split
      · exact Nat.le_refl _
      · exact Nat.le_trans (Nat.le_succ j) (le_binAtLeast ..)
    · split
      · omega
      · exact ih ..

/-- Settles O46: each function by its cases, the bounds by those of its parts. -/
theorem densityOutputAndRangeBounds : Obligations.DensityOutputAndRangeBounds := by
  refine ⟨fun n y => logL_eq, fun x y => logL_mono, fun opn => ⟨rfl, fun c => ⟨fun h0 h1 h2 => ?_, fun h0 h1 => ?_, fun h0 h1 h2 => ?_,
    fun h0 h1 => ?_, fun h0 h1 h2 => ?_, fun h0 h1 h2 => ?_⟩⟩, fun j opn d => density_le, fun c w => ?outputs, fun hist n plo phi => ?range⟩
  · rw [density_unused opn h0, h1, h2]; rfl
  · rw [density_unused opn h0, h1]; rfl
  · rw [density_unused opn h0, h1, h2]; rfl
  · rw [density_used opn h0, if_pos h1]
  · rw [density_used opn h0, if_neg (by omega), if_pos h2]
  · rw [density_used opn h0, if_neg (by omega), if_neg (by omega)]
  case outputs =>
    intro j full
    have hfull : full = c.fmt.full := by cases hf : c.fmt <;> simp only [full, hf, Fmt.full]
    rw [hfull]
    refine ⟨fun hr hd => ?_, fun d hr hd hlt => ?_, fun hr hj => ?_, fun x hr hj => ?_, fun hlt => ?_⟩
    · rw [renderOut_positive w hr, hd]; rfl
    · have hout : renderOut c w = (clamp d c.dlo c.dhi - c.dlo) * c.fmt.full / (c.dhi - c.dlo) := by
        rw [renderOut_positive w hr, hd]; rfl
      refine ⟨fun h => ?_, fun h => ?_, fun h h' => ?_⟩
      · have hc : clamp d c.dlo c.dhi = c.dlo := by rw [clamp_eq (Nat.le_of_lt hlt)]; omega
        rw [hout, hc, Nat.sub_self, Nat.zero_mul, Nat.zero_div]
      · have hc : clamp d c.dlo c.dhi = c.dhi := by rw [clamp_eq (Nat.le_of_lt hlt)]; omega
        rw [hout, hc, Nat.mul_div_cancel_left _ (by omega)]
      · have hc : clamp d c.dlo c.dhi = d := by rw [clamp_eq (Nat.le_of_lt hlt)]; omega
        rw [hout, hc]
    · exact (renderOut_linear w hr).trans (congrArg (outLinear · c.fmt) hj)
    · have hout : renderOut c w = outLinear (some x) c.fmt := (renderOut_linear w hr).trans (congrArg (outLinear · c.fmt) hj)
      rw [hout]
      refine ⟨fun h hf => ?_, fun h hf => ?_, fun h hh => ?_, fun h hh => ?_⟩
      · rw [hf, (outLinear_used h).1]
      · rw [hf, (outLinear_used h).2]
      · rw [outLinear_unused _ h, if_pos hh]
      · rw [outLinear_unused _ h, if_neg (by rw [hh]; nofun)]
    · cases hr : c.render with
      | positive => rw [renderOut_positive w hr]; exact outPositive_le hlt
      | linear => rw [renderOut_linear w hr]; exact outLinear_le fun x hx => judge_mean hx
  case range =>
    intro a b cum
    have hceil : ∀ x, ceilDiv x 10000 = (x + 9999) / 10000 := fun x => congrArg (· / 10000) (by omega)
    have hrange : autoRange hist n plo phi = (16 * binAtLeast hist a 1023 0 0, 16 * binAtLeast hist b 1023 0 0 + 15) := by
      rw [autoRange, hceil, hceil]
    rw [hrange]
    refine ⟨fun j hj hreach hfirst => congrArg (16 * ·) (binAtLeast_first (Nat.zero_le _) (by omega) hreach hfirst),
      fun j hj hreach hfirst => congrArg (16 * · + 15) (binAtLeast_first (Nat.zero_le _) (by omega) hreach hfirst), fun hle => ?_⟩
    have hshare : (n * plo + 9999) / 10000 ≤ (n * phi + 9999) / 10000 :=
      Nat.div_le_div_right (Nat.add_le_add_right (Nat.mul_le_mul_left n hle) _)
    have hab : a ≤ b := Nat.max_le.2 ⟨Nat.le_max_left .., Nat.le_trans hshare (Nat.le_max_right ..)⟩
    have hmono := binAtLeast_mono hist hab 1023 0 0
    have hmost := binAtLeast_le hist b 1023 0 0
    dsimp only
    omega

end Sys2Proof.Machine
end

section
/-! SUPPORT. The merge of a cell (R2, R3, R20 to R27): its bounds, and its eight bytes (Table 11-1). -/
namespace Sys2Proof.Machine
set_option Elab.async false

/-! ### The bytes of a cell (Table 11-1) -/

/-- The fields of a cell lie within their widths (R3). -/
structure CellFits (c : Cell) : Prop where
  sum : c.sum < 2 ^ 32
  wsum : c.wsum < 256
  gen : c.gen < 256
  lastk : c.lastk < 16
  nuse : c.nuse < 16
  nrej : c.nrej < 16

/-- The flags byte of a cell. -/
def Cell.flags (c : Cell) : Nat := c.nrej + 16 * c.clipHi.toNat + 32 * c.clipLo.toNat + 64 * c.reject.toNat + 128 * c.retake.toNat

/-- The number that a cell's bytes stand for. -/
def Cell.number (c : Cell) : Nat :=
  c.sum + 2 ^ 32 * c.wsum + 2 ^ 40 * c.gen + 2 ^ 48 * (c.lastk + 16 * c.nuse) + 2 ^ 56 * c.flags

theorem flags_lt {c : Cell} (h : CellFits c) : c.flags < 256 := by
  have hnrej := h.nrej
  have h1 := c.clipHi.toNat_le
  have h2 := c.clipLo.toNat_le
  have h3 := c.reject.toNat_le
  have h4 := c.retake.toNat_le
  unfold Cell.flags
  omega

theorem leNat_bytes {c : Cell} (h : CellFits c) : leNat c.bytes = c.number := by
  have hflags := flags_lt h
  obtain ⟨hsum, hwsum, hgen, hlastk, hnuse, -⟩ := h
  rw [Cell.bytes, ← Cell.flags]
  simp [layout, List.range_succ, layoutByte, leNat]
  unfold Cell.number
  omega

theorem extract_ofNat {x : Nat} (h : x < 2 ^ 64) (k n : Nat) : ((BitVec.ofNat 64 x).extractLsb' k n).toNat = x / 2 ^ k % 2 ^ n := by
  rw [BitVec.extractLsb'_toNat, BitVec.toNat_ofNat, Nat.mod_eq_of_lt h, Nat.shiftRight_eq_div_pow]

theorem bitOf_ofNat (x : Nat) {k : Nat} (hk : k < 64) : bitOf (BitVec.ofNat 64 x) k = decide (x / 2 ^ k % 2 = 1) := by
  rw [bitOf, BitVec.getLsbD_ofNat, decide_eq_true hk, Bool.true_and, Nat.testBit_eq_decide_div_mod_eq]

theorem toNat_bit (b : Bool) (x : Nat) (h : x = b.toNat) : decide (x = 1) = b := by
  rw [h]
  cases b <;> rfl

/-- A cell within its widths reads back from its number. -/
theorem ofWord_number {c : Cell} (h : CellFits c) : Cell.ofWord (BitVec.ofNat 64 c.number) = c := by
  have hflags := flags_lt h
  obtain ⟨hsum, hwsum, hgen, hlastk, hnuse, hnrej⟩ := h
  have h1 := c.clipHi.toNat_le
  have h2 := c.clipLo.toNat_le
  have h3 := c.reject.toNat_le
  have h4 := c.retake.toNat_le
  have hlt : c.number < 2 ^ 64 := by
    unfold Cell.number
    omega
  have hfields : c.number % 2 ^ 32 = c.sum ∧ c.number / 2 ^ 32 % 2 ^ 8 = c.wsum ∧ c.number / 2 ^ 40 % 2 ^ 8 = c.gen ∧
      c.number / 2 ^ 48 % 2 ^ 4 = c.lastk ∧ c.number / 2 ^ 52 % 2 ^ 4 = c.nuse ∧ c.number / 2 ^ 56 % 2 ^ 8 = c.flags := by
    unfold Cell.number
    omega
  obtain ⟨e0, e1, e2, e3, e4, e5⟩ := hfields
  have hbits : c.number / 2 ^ 56 % 2 ^ 4 = c.nrej ∧ c.number / 2 ^ 60 % 2 = c.clipHi.toNat ∧ c.number / 2 ^ 61 % 2 = c.clipLo.toNat ∧
      c.number / 2 ^ 62 % 2 = c.reject.toNat ∧ c.number / 2 ^ 63 % 2 = c.retake.toNat := by
    unfold Cell.flags at e5
    omega
  obtain ⟨e6, e7, e8, e9, e10⟩ := hbits
  rw [Cell.ofWord, extract_ofNat hlt, extract_ofNat hlt, extract_ofNat hlt, extract_ofNat hlt, extract_ofNat hlt, extract_ofNat hlt,
    bitOf_ofNat _ (by decide), bitOf_ofNat _ (by decide), bitOf_ofNat _ (by decide), bitOf_ofNat _ (by decide), Nat.pow_zero, Nat.div_one,
    e0, e1, e2, e3, e4, e6, toNat_bit _ _ e7, toNat_bit _ _ e8, toNat_bit _ _ e9, toNat_bit _ _ e10]

theorem bytes_hold (c : Cell) : RecordHolds c.bytes 8 [(0, 4, c.sum), (4, 1, c.wsum), (5, 1, c.gen), (6, 1, c.lastk + 16 * c.nuse),
    (7, 1, c.nrej + (if c.clipHi then 16 else 0) + (if c.clipLo then 32 else 0) + (if c.reject then 64 else 0) +
      (if c.retake then 128 else 0))] := by
  have hbit : ∀ (n : Nat) (b : Bool), (if b then n else 0) = n * b.toNat := fun n b => by cases b <;> simp
  simp only [hbit]
  refine recordHolds_layout ?_ (apart_of_ascending ?_)
  · simp
  · simp [FieldsAscend]

/-! ### The merge, case by case (R20 to R26) -/

theorem classify_spec (v : Nat) (p : Sensor) : (p.s ≤ v → classify v p = .saturated) ∧
    (v < p.s → v < p.b + p.f → classify v p = .dim) ∧ (v < p.s → p.b + p.f ≤ v → classify v p = .usable) :=
  ⟨fun h => if_pos h, fun h1 h2 => (if_neg (Nat.not_le.2 h1)).trans (if_pos h2),
    fun h1 h2 => (if_neg (Nat.not_le.2 h1)).trans (if_neg (Nat.not_lt.2 h2))⟩

theorem inSpread_iff (c : Cell) (m : Merge) (x : Nat) : inSpread c m x = true ↔
    x ≤ c.sum / c.wsum + max 8 (c.sum / c.wsum * 3 * (m.c + 1) / 256) ∧ c.sum / c.wsum ≤ x + max 8 (c.sum / c.wsum * 3 * (m.c + 1) / 256) := by
  rw [inSpread, decide_eq_true_eq, absDiff, spreadLimit, Cell.mean]
  generalize max 8 (c.sum / c.wsum * 3 * (m.c + 1) / 256) = limit
  split <;> omega

section
variable {c : Cell} {m : Merge}

theorem mergeCell_saturated (h : classify m.v m.sensor = .saturated) :
    mergeCell c m = ({ mergeCommon c m with clipHi := true }, .clipped false) := by
  rw [mergeCell, h]

theorem mergeCell_dim (h : classify m.v m.sensor = .dim) :
    mergeCell c m = ({ mergeCommon c m with clipLo := true }, .clipped true) := by
  rw [mergeCell, h]

theorem mergeCell_first (h : classify m.v m.sensor = .usable) (h0 : c.nuse = 0) :
    mergeCell c m = ({ mergeCommon c m with sum := estimate m.v m.sensor.b m.g m.e * m.w, wsum := m.w, nuse := 1 }, .accepted) := by
  rw [mergeCell, h]
  dsimp only
  rw [if_pos h0, mergeAccept, if_pos h0]

theorem mergeCell_inside (h : classify m.v m.sensor = .usable) (h0 : 0 < c.nuse)
    (hin : inSpread c m (estimate m.v m.sensor.b m.g m.e) = true) : mergeCell c m = ({ mergeCommon c m with
      sum := c.sum + estimate m.v m.sensor.b m.g m.e * m.w, wsum := c.wsum + m.w, nuse := c.nuse + 1 }, .accepted) := by
  rw [mergeCell, h]
  dsimp only
  rw [if_neg (by omega), if_pos hin, mergeAccept, if_neg (by omega)]

theorem mergeCell_outside (h : classify m.v m.sensor = .usable) (h0 : 0 < c.nuse)
    (hout : ¬ inSpread c m (estimate m.v m.sensor.b m.g m.e) = true) :
    mergeCell c m = ({ mergeCommon c m with nrej := c.nrej + 1, reject := true }, .rejected) := by
  rw [mergeCell, h]
  dsimp only
  rw [if_neg (by omega), if_neg hout, mergeReject]

end

/-! ### The bounds of a cell merged (R3, R27) -/

/-- The bounds of a cell at exposure `k`: at most `n` samples taken, its sums within those of its samples (R27). -/
structure CellBounded (c : Cell) (n : Nat) : Prop where
  count : c.nuse + c.nrej ≤ n
  light : c.nuse ≤ c.wsum
  heavy : c.wsum ≤ 15 * c.nuse
  sum : c.sum ≤ 1048480 * c.wsum

/-- The largest estimate (R20). -/
theorem estimate_le {v b g e : Nat} (hv : v ≤ 16383) (hg : g ≤ 32767) (he : 1 ≤ e) : estimate v b g e ≤ 1048480 := by
  have hprod : (v - b) * g ≤ 16383 * 32767 := Nat.mul_le_mul (Nat.le_trans (Nat.sub_le ..) hv) hg
  have hstep : (v - b) * g / (512 * e) ≤ (v - b) * g / 512 := Nat.div_le_div_left (by omega) (by decide)
  rw [estimate]
  omega

/-- A cell judged for a merge that is no duplicate has taken no sample of the exposure (R2, R21). -/
theorem judged_bounded {found : BitVec 64} {gen k : Nat} (hk : k ≤ 7)
    (hdup : isDuplicate (judge (Cell.ofWord found) gen (some k)) k = false) :
    CellBounded (Cell.judged (judge (Cell.ofWord found) gen (some k))) k := by
  cases hj : judge (Cell.ofWord found) gen (some k) with
  | none => exact ⟨Nat.zero_le _, Nat.le_refl _, Nat.le_refl _, Nat.le_refl _⟩
  | some c =>
    obtain ⟨rfl, hfull⟩ := judge_some hj
    rw [hj] at hdup
    have hne : (Cell.ofWord found).lastk ≠ k := of_decide_eq_false hdup
    have hwidth : (Cell.ofWord found).lastk < 16 := (found.extractLsb' 48 4).isLt
    change CellBounded (Cell.ofWord found) k
    generalize Cell.ofWord found = c at hfull hne hwidth
    simp only [TakenEmpty, not_or, not_and, Classical.not_not, Nat.not_lt, not_exists] at hfull
    obtain ⟨-, -, hgap, hfresh, -, hcount, hlight, hheavy, hsum, hlast⟩ := hfull
    refine ⟨?_, hlight, hheavy, hsum⟩
    by_cases h15 : c.lastk = 15
    · obtain ⟨-, -, hnuse, hnrej, -⟩ := hfresh h15
      omega
    · have hle : c.lastk ≤ 7 := by omega
      have hold := hlast k rfl hle
      have hn := hcount hle
      omega

/-- A merge keeps the bounds, with one more sample taken (R22 to R27). -/
theorem mergeCell_bounded {c : Cell} {m : Merge} (hc : CellBounded c m.k) (hx : estimate m.v m.sensor.b m.g m.e ≤ 1048480)
    (hw1 : 1 ≤ m.w) (hw2 : m.w ≤ 15) : CellBounded (mergeCell c m).1 (m.k + 1) := by
  obtain ⟨hcount, hlight, hheavy, hsum⟩ := hc
  have hxw : estimate m.v m.sensor.b m.g m.e * m.w ≤ 1048480 * m.w := Nat.mul_le_mul_right _ hx
  cases hcl : classify m.v m.sensor with
  | saturated =>
    rw [mergeCell_saturated hcl]
    exact ⟨Nat.le_succ_of_le hcount, hlight, hheavy, hsum⟩
  | dim =>
    rw [mergeCell_dim hcl]
    exact ⟨Nat.le_succ_of_le hcount, hlight, hheavy, hsum⟩
  | usable =>
    rcases Nat.eq_zero_or_pos c.nuse with h0 | h0
    · rw [mergeCell_first hcl h0]
      refine ⟨?_, hw1, hw2, hxw⟩
      change 1 + c.nrej ≤ m.k + 1
      omega
    · by_cases hin : inSpread c m (estimate m.v m.sensor.b m.g m.e) = true
      · rw [mergeCell_inside hcl h0 hin]
        refine ⟨?_, ?_, ?_, ?_⟩
        · change c.nuse + 1 + c.nrej ≤ m.k + 1
          omega
        · change c.nuse + 1 ≤ c.wsum + m.w
          omega
        · change c.wsum + m.w ≤ 15 * (c.nuse + 1)
          omega
        · change c.sum + _ ≤ 1048480 * (c.wsum + m.w)
          omega
      · rw [mergeCell_outside hcl h0 hin]
        refine ⟨?_, hlight, hheavy, hsum⟩
        change c.nuse + (c.nrej + 1) ≤ m.k + 1
        omega

/-- Every merge writes the job's generation and the exposure's index (R22). -/
theorem mergeCell_marks (c : Cell) (m : Merge) : (mergeCell c m).1.gen = m.gen ∧ (mergeCell c m).1.lastk = m.k := by
  cases hcl : classify m.v m.sensor with
  | saturated => rw [mergeCell_saturated hcl]; exact ⟨rfl, rfl⟩
  | dim => rw [mergeCell_dim hcl]; exact ⟨rfl, rfl⟩
  | usable =>
    rcases Nat.eq_zero_or_pos c.nuse with h0 | h0
    · rw [mergeCell_first hcl h0]; exact ⟨rfl, rfl⟩
    · by_cases hin : inSpread c m (estimate m.v m.sensor.b m.g m.e) = true
      · rw [mergeCell_inside hcl h0 hin]; exact ⟨rfl, rfl⟩
      · rw [mergeCell_outside hcl h0 hin]; exact ⟨rfl, rfl⟩

/-- A merge takes at most seven rejects: one beyond the usable sample it is measured against (R26). -/
theorem mergeCell_nrej {c : Cell} {m : Merge} (hc : c.nuse + c.nrej ≤ m.k) (hk : m.k ≤ 7) : (mergeCell c m).1.nrej ≤ 7 := by
  cases hcl : classify m.v m.sensor with
  | saturated => rw [mergeCell_saturated hcl]; change c.nrej ≤ 7; omega
  | dim => rw [mergeCell_dim hcl]; change c.nrej ≤ 7; omega
  | usable =>
    rcases Nat.eq_zero_or_pos c.nuse with h0 | h0
    · rw [mergeCell_first hcl h0]; change c.nrej ≤ 7; omega
    · by_cases hin : inSpread c m (estimate m.v m.sensor.b m.g m.e) = true
      · rw [mergeCell_inside hcl h0 hin]; change c.nrej ≤ 7; omega
      · rw [mergeCell_outside hcl h0 hin]; change c.nrej + 1 ≤ 7; omega

/-- A cell within its bounds passes the judgement of an exposure not before its own (R2). -/
theorem bounded_judged {c : Cell} {gen k : Nat} (hc : CellBounded c (c.lastk + 1)) (hnrej : c.nrej ≤ 7) (hgen : c.gen = gen) (hpos : 1 ≤ gen)
    (hlast : c.lastk ≤ 7) (hk : c.lastk ≤ k) : judge c gen (some k) = some c := by
  obtain ⟨hcount, hlight, hheavy, hsum⟩ := hc
  refine judge_found ?_
  simp only [TakenEmpty, not_or, not_and, Classical.not_not, Nat.not_lt, not_exists]
  refine ⟨hgen, by omega, fun h => by omega, fun h => by omega, hnrej, fun _ => hcount, hlight, hheavy, hsum, fun x hx _ => ?_⟩
  cases hx
  exact hk

/-- Settles O56: the functions by their cases, then the bounds of the cell merged, its judgement and its bytes from them. -/
theorem mergeKeepsCellLawful : Obligations.MergeKeepsCellLawful := by
  refine ⟨fun c gen k => ⟨judge_none, judge_found⟩, ⟨rfl, fun c => rfl⟩, fun k => ⟨rfl, fun c => decide_eq_true_iff⟩, classify_spec,
    fun v b g e => rfl, fun c m => ⟨mergeCell_saturated, mergeCell_dim, mergeCell_first, fun h h0 h1 h2 => ?_, fun h h0 hout => ?_⟩,
    bytes_hold, ?_⟩
  · exact mergeCell_inside h h0 ((inSpread_iff ..).2 ⟨h1, h2⟩)
  · refine mergeCell_outside h h0 fun hin => ?_
    obtain ⟨h1, h2⟩ := (inSpread_iff ..).1 hin
    exact hout.elim (Nat.not_lt.2 h1) (Nat.not_lt.2 h2)
  · intro found m hgen1 hgen2 hk he hw1 hw2 hg hv j hdup c
    have hj := judged_bounded hk hdup
    have hc : CellBounded c (m.k + 1) := mergeCell_bounded hj (estimate_le hv hg he) hw1 hw2
    have hnrej : c.nrej ≤ 7 := mergeCell_nrej hj.count hk
    obtain ⟨hgen, hlast⟩ : c.gen = m.gen ∧ c.lastk = m.k := mergeCell_marks ..
    obtain ⟨hcount, hlight, hheavy, hsum⟩ := hc
    have hbounded : CellBounded c (c.lastk + 1) := ⟨by omega, hlight, hheavy, hsum⟩
    have hnuse : c.nuse ≤ 8 := by omega
    have hwsum : c.wsum ≤ 120 := by omega
    have hfits : CellFits c := ⟨by omega, by omega, by omega, by omega, by omega, by omega⟩
    refine ⟨hcount, hnuse, hnrej, hlight, hheavy, hwsum, hsum, by omega, hgen, hlast,
      bounded_judged hbounded hnrej hgen hgen1 (by omega) (by omega), fun _ => bounded_judged hbounded hnrej hgen hgen1 (by omega) (by omega), ?_⟩
    rw [leNat_bytes hfits, ofWord_number hfits]

end Sys2Proof.Machine
end

section
/-! SUPPORT. The bus path: in which window an address falls (R156), and the order in which write answers are given (R148). -/
namespace Sys2Proof.Machine
set_option Elab.async false

/-! ### Windows (R156) -/

/-- Where the windows lie apart, an address held by one falls in that one. -/
theorem windowAt_of_holds {s : State} {i : Fin 16} {w : Win} {a : Nat} (hdis : WindowsDisjoint s)
    (hw : vget s.wmu.windows i = some w) (ha : w.Holds a) : windowAt s a = some i := by
  obtain ⟨hbase, hend⟩ := ha
  unfold windowAt
  cases hfind : sixteen.find? _ with
  | none =>
    have hnot := List.find?_eq_none.1 hfind i (mem_sixteen i)
    rw [hw] at hnot
    exact absurd (by simp [hbase, hend]) hnot
  | some k =>
    have hk := List.find?_some hfind
    split at hk
    · rename_i v hv
      obtain ⟨hvb, hve⟩ := Bool.and_eq_true_iff.1 hk
      have hvb := of_decide_eq_true hvb
      have hve := of_decide_eq_true hve
      refine Classical.byContradiction fun hne => ?_
      exact hdis k i v w (fun h => hne (congrArg some h)) hv hw ⟨by omega, by omega⟩
    · cases hk

theorem windowAt_of_none {s : State} {a : Nat} (h : ∀ i w, vget s.wmu.windows i = some w → ¬ w.Holds a) :
    windowAt s a = none := by
  unfold windowAt
  refine List.find?_eq_none.2 fun i _ => ?_
  split
  · rename_i w hw
    exact fun hin => h i w hw ((Bool.and_eq_true_iff.1 hin).imp of_decide_eq_true of_decide_eq_true)
  · exact Bool.false_ne_true

theorem windowAt_fallsIn {s : State} {h : TxnHdr} {i : Fin 16} {w : Win} (hdis : WindowsDisjoint s) (hin : FallsIn s h i w) :
    windowAt s h.addr.toNat = some i := windowAt_of_holds hdis hin.1 hin.2

theorem windowAt_fallsInNone {s : State} {h : TxnHdr} (hout : FallsInNone s h) : windowAt s h.addr.toNat = none :=
  windowAt_of_none fun i w hw ha => hout i w ⟨hw, ha⟩

theorem windowOf_fallsIn {s : State} {h : TxnHdr} {i : Fin 16} {w : Win} (hdis : WindowsDisjoint s) (hin : FallsIn s h i w) :
    windowOf s h = some w := by
  unfold windowOf
  rw [windowAt_fallsIn hdis hin]
  exact hin.1

theorem windowOf_fallsInNone {s : State} {h : TxnHdr} (hout : FallsInNone s h) : windowOf s h = none := by
  unfold windowOf
  rw [windowAt_fallsInNone hout]

/-- The path that Table 9-2 gives a write into a window. -/
def Win.path (w : Win) (i : Fin 16) : WritePath :=
  match w.kind with
  | .command => .page
  | .capture => .capture w.base
  | .result _ _ => .pass
  | .monitor .. => .monitor i

theorem writePathOf_fallsIn {s : State} {h : TxnHdr} {i : Fin 16} {w : Win} (hdis : WindowsDisjoint s) (hin : FallsIn s h i w) :
    writePathOf s h = w.path i := by
  have hwin := windowAt_fallsIn hdis hin
  have hentry := hin.1
  cases hk : w.kind <;> simp only [writePathOf, Win.path, hwin, hentry, hk]

theorem writePathOf_fallsInNone {s : State} {h : TxnHdr} (hout : FallsInNone s h) : writePathOf s h = .pass := by
  unfold writePathOf
  rw [windowAt_fallsInNone hout]

/-! ### The write answers given (R148) -/

/-- The numbers of the writes answered rise, each that of a write that stood. -/
theorem releaseWriteList_ascending {ws : List SWrite} (busy : List Nat) (hws : (ws.map SWrite.no).Pairwise (· < ·)) :
    (releaseWriteList busy ws).2.Pairwise fun x y =>
      ∀ id n r id' n' r', x = .writeResp id n r → y = .writeResp id' n' r' → n < n' := by
  induction ws generalizing busy with
  | nil => exact .nil
  | cons w ws ih =>
    obtain ⟨hfirst, hrest⟩ := List.pairwise_cons.1 hws
    unfold releaseWriteList
    split
    · exact ih _ hrest
    · split
      · exact ih _ hrest
      · refine List.pairwise_cons.2 ⟨fun y hy id n r id' n' r' hx hy' => ?_, ih _ hrest⟩
        cases hx
        obtain ⟨v, hv, hno, -⟩ := (releaseWriteList_spec busy ws).1 id' n' r' (hy' ▸ hy)
        exact hno ▸ hfirst _ (List.mem_map_of_mem hv)
    · exact ih _ hrest

/-- No write of an identifier that waits is answered, and none before an earlier write of its identifier. -/
theorem releaseWriteList_inOrder {ws : List SWrite} (busy : List Nat) (hws : (ws.map SWrite.no).Pairwise (· < ·))
    {id n : Nat} {r : Resp} (hout : SOut.writeResp id n r ∈ (releaseWriteList busy ws).2) :
    id ∉ busy ∧ ∀ v ∈ (releaseWriteList busy ws).1, v.hdr.id = id → v.sent = false → n ≤ v.no := by
  induction ws generalizing busy with
  | nil => cases hout
  | cons w ws ih =>
    obtain ⟨hfirst, hrest⟩ := List.pairwise_cons.1 hws
    unfold releaseWriteList at hout ⊢
    split
    · rename_i hsent
      rw [hsent] at hout
      obtain ⟨hbusy, hlater⟩ := ih busy hrest hout
      refine ⟨hbusy, List.forall_mem_cons.2 ⟨fun _ hunsent => ?_, hlater⟩⟩
      rw [hsent] at hunsent
      cases hunsent
    · rename_i r' hsent hanswer
      rw [hsent, hanswer] at hout
      dsimp only at hout
      split
      · rename_i hwaits
        rw [if_pos hwaits] at hout
        obtain ⟨hbusy, hlater⟩ := ih busy hrest hout
        refine ⟨hbusy, List.forall_mem_cons.2 ⟨fun hid _ => ?_, hlater⟩⟩
        exact absurd (hid ▸ List.contains_iff_mem.1 hwaits) hbusy
      · rename_i hfree
        rw [if_neg hfree] at hout
        rcases List.mem_cons.1 hout with heq | hout
        · cases heq
          refine ⟨fun h => hfree (List.contains_iff_mem.2 h), List.forall_mem_cons.2 ⟨fun _ h => (nomatch h), ?_⟩⟩
          intro v hv _ _
          have hno : v.no ∈ ws.map SWrite.no := by
            rw [← releaseWriteList_nos busy ws]
            exact List.mem_map_of_mem hv
          exact Nat.le_of_lt (hfirst _ hno)
        · obtain ⟨hbusy, hlater⟩ := ih busy hrest hout
          exact ⟨hbusy, List.forall_mem_cons.2 ⟨fun _ h => (nomatch h), hlater⟩⟩
    · rename_i hsent hanswer
      rw [hsent, hanswer] at hout
      obtain ⟨hbusy, hlater⟩ := ih _ hrest hout
      refine ⟨fun h => hbusy (.tail _ h), List.forall_mem_cons.2 ⟨fun hid _ => ?_, hlater⟩⟩
      exact absurd (hid ▸ .head _) hbusy

/-- The first unanswered write of an identifier that does not wait is answered when its response is there. -/
theorem releaseWriteList_answers {pre post : List SWrite} {w : SWrite} {r : Resp} (busy : List Nat) (hbusy : w.hdr.id ∉ busy)
    (hpre : ∀ v ∈ pre, v.hdr.id = w.hdr.id → v.sent = true) (hsent : w.sent = false) (hanswer : w.answer = some r) :
    SOut.writeResp w.hdr.id w.no r ∈ (releaseWriteList busy (pre ++ w :: post)).2 := by
  induction pre generalizing busy with
  | nil =>
    rw [List.nil_append, releaseWriteList, hsent, hanswer]
    dsimp only
    rw [if_neg fun h => hbusy (List.contains_iff_mem.1 h)]
    exact .head _
  | cons v pre ih =>
    have ⟨hv, hrest⟩ := List.forall_mem_cons.1 hpre
    rw [List.cons_append, releaseWriteList]
    split
    · exact ih busy hbusy hrest
    · split
      · exact ih busy hbusy hrest
      · exact .tail _ (ih busy hbusy hrest)
    · rename_i hunsent _
      refine ih _ (fun h => ?_) hrest
      rcases List.mem_cons.1 h with hid | h
      · rw [hv hid.symm] at hunsent
        cases hunsent
      · exact hbusy h

/-- A write goes on as it stood, or with its answer given. -/
theorem releaseWriteList_keeps {ws : List SWrite} {w : SWrite} (busy : List Nat) (hw : w ∈ ws) :
    w ∈ (releaseWriteList busy ws).1 ∨
      (w.answer ≠ none ∧ w.sent = false ∧ { w with sent := true } ∈ (releaseWriteList busy ws).1) := by
  induction ws generalizing busy with
  | nil => cases hw
  | cons v ws ih =>
    have later : ∀ (b : List Nat) (x : SWrite), w ∈ ws → w ∈ x :: (releaseWriteList b ws).1 ∨
        (w.answer ≠ none ∧ w.sent = false ∧ { w with sent := true } ∈ x :: (releaseWriteList b ws).1) := fun b x h =>
      (ih b h).imp (.tail _) fun ⟨ha, hs, hm⟩ => ⟨ha, hs, .tail _ hm⟩
    unfold releaseWriteList
    rcases List.mem_cons.1 hw with rfl | hw
    · split
      · exact .inl (.head _)
      · rename_i hsent hanswer
        split
        · exact .inl (.head _)
        · exact .inr ⟨hanswer ▸ Option.some_ne_none _, hsent, .head _⟩
      · exact .inl (.head _)
    · split
      · exact later _ _ hw
      · split <;> exact later _ _ hw
      · exact later _ _ hw

/-- A write not answered goes on as it stood. -/
theorem releaseWrites_unanswered {s : State} {w : SWrite} (hw : w ∈ s.wmu.writes) (h : w.Unanswered) :
    w ∈ (releaseWrites s).wmu.writes := by
  obtain ⟨hanswer, hsent⟩ := h
  refine List.mem_filter.2 ⟨(releaseWriteList_keeps [] hw).resolve_right fun h => h.1 hanswer, ?_⟩
  simp [SWrite.isOver, hsent]

/-- A write whose memory response is awaited goes on, its answer perhaps given. -/
theorem releaseWrites_awaited {s : State} {w : SWrite} (hw : w ∈ s.wmu.writes) (hreq : w.mReq = true) (hdone : w.mDone = none) :
    w ∈ (releaseWrites s).wmu.writes ∨ { w with sent := true } ∈ (releaseWrites s).wmu.writes := by
  refine (releaseWriteList_keeps [] hw).imp (fun h => ?_) fun ⟨_, _, h⟩ => ?_ <;>
    exact List.mem_filter.2 ⟨h, by simp [SWrite.isOver, hreq, hdone]⟩

/-- A write that stands alone of its identifier is answered with its answer. -/
theorem releaseWrites_answers {s : State} {pre post : List SWrite} {w : SWrite} {r : Resp} (hws : s.wmu.writes = pre ++ w :: post)
    (hpre : ∀ v ∈ pre, v.hdr.id = w.hdr.id → v.sent = true) (hsent : w.sent = false) (hanswer : w.answer = some r) :
    SOut.writeResp w.hdr.id w.no r ∈ (releaseWrites s).wmu.out := by
  refine List.mem_append_right _ ?_
  rw [hws]
  exact releaseWriteList_answers [] List.not_mem_nil hpre hsent hanswer

/-- Giving the answers changes the writes and the responses given alone. -/
theorem releaseWrites_wmu (s : State) : (releaseWrites s).wmu =
    { s.wmu with writes := (releaseWrites s).wmu.writes, out := (releaseWrites s).wmu.out } := rfl

/-! ### Opening and replacing a write -/

/-- The write that the S-port opens. -/
def newWrite (h : TxnHdr) (p : WritePath) (s : State) : SWrite :=
  { no := s.serial, hdr := h, path := p, data := [], mReq := false, mLock := false, mDone := none, passed := false,
    answer := none, sent := false }

theorem openWrite_writes (h : TxnHdr) (p : WritePath) (s : State) :
    (openWrite h p s).wmu = { s.wmu with writes := s.wmu.writes ++ [newWrite h p s] } := rfl

theorem sWrite?_openWrite {h : TxnHdr} {p : WritePath} {s : State} (hfresh : ∀ v ∈ s.wmu.writes, v.no ≠ s.serial) :
    sWrite? s.serial (openWrite h p s) = some (newWrite h p s) := by
  have hnone : s.wmu.writes.find? (fun w => w.no == s.serial) = none :=
    List.find?_eq_none.2 fun v hv => by simpa using hfresh v hv
  rw [sWrite?, openWrite_writes, List.find?_append, hnone]
  simp [newWrite]

/-- Replacing the write just opened leaves those before it. -/
theorem putSWrite_last {l : List SWrite} {w x : SWrite} {no : Nat} (hfresh : ∀ v ∈ l, v.no ≠ no) (hno : w.no = no) :
    ((l ++ [w]).map fun v => if v.no == no then x else v) = l ++ [x] := by
  have hpre : (l.map fun v => if v.no == no then x else v) = l :=
    (List.map_congr_left fun v hv => if_neg (by simpa using hfresh v hv)).trans (List.map_id _)
  rw [List.map_append, hpre, List.map_singleton, if_pos (by rw [hno]; exact beq_self_eq_true no)]

theorem putSWrite_mem {no : Nat} {w x : SWrite} {s : State} (h : sWrite? no s = some w) : x ∈ (putSWrite no x s).wmu.writes := by
  refine List.mem_map.2 ⟨w, List.mem_of_find?_eq_some h, if_pos (by rw [sWrite?_no h]; exact beq_self_eq_true no)⟩

/-- An item that is no beat of a CAPTURE window is never held. -/
theorem mustHold_of_none {it : HeldItem} {s : State} (h : positions? it s = none) : mustHold it s = false := by
  rw [mustHold, h]

theorem offer_held {it : HeldItem} {s : State} (h : s.wmu.held ≠ []) : offer it s = setHeld (s.wmu.held ++ [it]) s :=
  if_neg (by simpa using h)

theorem offer_taken {it : HeldItem} {s : State} (h : s.wmu.held = []) (hm : mustHold it s = false) :
    offer it s = releaseWrites (setHeld [] (takeItem it s)) := by
  rw [offer, if_pos (by simp [h]), hm]
  rfl

theorem offer_stalled {it : HeldItem} {s : State} (h : s.wmu.held = []) (hm : mustHold it s = true) :
    offer it s = releaseWrites (stall [it] s) := by
  rw [offer, if_pos (by simp [h]), hm]
  rfl

theorem partError_err (no : Nat) : respErr (partError no) = true := by
  unfold partError
  split <;> rfl

theorem respErr_iff (r : Resp) : respErr r = true ↔ r = .slverr ∨ r = .decerr := by cases r <;> simp [respErr]

end Sys2Proof.Machine
end

section
/-! SUPPORT. Pass-through and illegal transactions, and the order of write responses (R148, R156, R159). -/
namespace Sys2Proof.Machine
set_option Elab.async false

/-! ### The geometry of a burst (R148) -/

theorem illegal_iff (h : TxnHdr) : h.illegal = true ↔ 16 < h.beats ∨
    (h.burst = .incr ∧
      h.addr.toNat / 4096 ≠ (h.addr.toNat / h.bytes * h.bytes + h.beats * h.bytes - 1) / 4096) ∨
    (h.burst = .wrap ∧ ((h.beats ≠ 2 ∧ h.beats ≠ 4 ∧ h.beats ≠ 8 ∧ h.beats ≠ 16) ∨ h.addr.toNat % h.bytes ≠ 0)) := by
  simp only [TxnHdr.illegal, Bool.or_eq_true, Bool.and_eq_true, decide_eq_true_eq, beq_iff_eq, Bool.not_eq_true',
    List.contains_cons, List.contains_nil, Bool.or_false, Bool.or_eq_false_iff, beq_eq_false_iff_ne, or_assoc]

theorem beatPos_fixed {h : TxnHdr} (hb : h.burst = .fixed) (j : Nat) : h.beatPos j = h.addr.toNat / 16 * 16 := by
  simp only [TxnHdr.beatPos, TxnHdr.beatAddr, hb]

theorem beatPos_incr_first {h : TxnHdr} (hb : h.burst = .incr) : h.beatPos 0 = h.addr.toNat / 16 * 16 := by
  simp only [TxnHdr.beatPos, TxnHdr.beatAddr, hb, if_true]

theorem beatPos_incr {h : TxnHdr} (hb : h.burst = .incr) {j : Nat} (hj : 1 ≤ j) :
    h.beatPos j = (h.addr.toNat / h.bytes * h.bytes + j * h.bytes) / 16 * 16 := by
  simp only [TxnHdr.beatPos, TxnHdr.beatAddr, hb]
  rw [if_neg (by omega)]

theorem beatPos_wrap {h : TxnHdr} (hb : h.burst = .wrap) (j : Nat) :
    h.beatPos j = (h.addr.toNat / (h.beats * h.bytes) * (h.beats * h.bytes) +
      (h.addr.toNat - h.addr.toNat / (h.beats * h.bytes) * (h.beats * h.bytes) + j * h.bytes) % (h.beats * h.bytes)) / 16 * 16 := by
  simp only [TxnHdr.beatPos, TxnHdr.beatAddr, hb]

/-! ### Which whole writes pass (Table 9-2) -/

theorem capturing_iff (s : State) : capturing s = true ↔ s.wmu.mode = .active ∧ ∃ k, (vget s.slots k).state = .active := by
  rw [capturing, Bool.and_eq_true, beq_iff_eq, activeSlot_isSome_iff]

theorem lookedAt_iff (s : State) : lookedAt s = true ↔ s.device = .run ∧ s.wmu.mode = .active := by
  rw [lookedAt, Bool.and_eq_true, beq_iff_eq, beq_iff_eq]

theorem wholePasses_of_pass {s : State} {h : TxnHdr} (hp : writePathOf s h = .pass) : wholePasses s h = true := by
  rw [wholePasses, hp]

theorem wholePasses_of_ne {s : State} {h : TxnHdr} (hp : writePathOf s h ≠ .pass) :
    wholePasses s h = (writePasses s h && s.wmu.held.isEmpty) := by
  unfold wholePasses
  split
  · exact absurd ‹_› hp
  · rfl

theorem wholePasses_fallsIn {s : State} {h : TxnHdr} {i : Fin 16} {w : Win} (hdis : WindowsDisjoint s) (hin : FallsIn s h i w) :
    (w.kind = .command → wholePasses s h = false) ∧ (∀ k f, w.kind = .result k f → wholePasses s h = true) ∧
    (w.kind = .capture → (wholePasses s h = true ↔
      ¬ (s.wmu.mode = .active ∧ ∃ k, (vget s.slots k).state = .active) ∧ s.wmu.held = [])) ∧
    (∀ W H R E, w.kind = .monitor W H R E → (wholePasses s h = true ↔
      ¬ (s.device = .run ∧ s.wmu.mode = .active) ∧ s.wmu.held = [])) := by
  have hpath := writePathOf_fallsIn hdis hin
  have hwin := windowOf_fallsIn hdis hin
  refine ⟨fun hk => ?_, fun k f hk => ?_, fun hk => ?_, fun W H R E hk => ?_⟩ <;> rw [Win.path, hk] at hpath
  · rw [wholePasses_of_ne (by rw [hpath]; nofun), writePasses, hwin]
    simp only [hk, Bool.false_and]
  · exact wholePasses_of_pass hpath
  · rw [wholePasses_of_ne (by rw [hpath]; nofun), writePasses, hwin]
    simp only [hk, Bool.and_eq_true, List.isEmpty_iff, ← capturing_iff, Bool.not_eq_true', Bool.not_eq_true]
  · rw [wholePasses_of_ne (by rw [hpath]; nofun), writePasses, hwin]
    simp only [hk, Bool.and_eq_true, List.isEmpty_iff, ← lookedAt_iff, Bool.not_eq_true', Bool.not_eq_true]

/-! ### Whole writes (R148, R159) -/

/-- What an offer of an item leaves when the item's take changes these fields alone. -/
theorem frame_offer_of {it : HeldItem} {s : State} {c : List Field} (hm : mustHold it s = false) (hc : .wmu ∈ c)
    (ht : Frame c s (takeItem it s)) : Frame c s (offer it s) := by
  have hwmu : ∀ f ∈ [Field.wmu], f ∈ c := fun f hf => List.mem_singleton.1 hf ▸ hc
  by_cases h : s.wmu.held = []
  · rw [offer_taken h hm]
    exact ((ht.trans frame_setHeld).trans frame_releaseWrites).mono
      (List.forall_mem_append.2 ⟨List.forall_mem_append.2 ⟨fun _ h => h, hwmu⟩, hwmu⟩)
  · rw [offer_held h]
    exact frame_setHeld.mono hwmu

/-- A pass-through write behind held data waits; with nothing held it is forwarded whole (R150, R159). -/
theorem passWrite_row {s : State} {h : TxnHdr} {ds : List WData} (hfresh : ∀ v ∈ s.wmu.writes, v.no ≠ s.serial) :
    let t := wholeWrite h .pass (fun no => .whole no ds) s
    (s.wmu.held ≠ [] → t.wmu.held = s.wmu.held ++ [.whole s.serial ds] ∧ t.mpa = s.mpa) ∧
    (s.wmu.held = [] → t.wmu.held = [] ∧ t.mpa = { s.mpa with sys := s.mpa.sys ++
      [⟨s.serial + 1, .sysWrite s.serial, .sys, true, h.addr.toNat, h.beats * h.bytes, []⟩] } ∧
      ∃ v ∈ t.wmu.writes, v.no = s.serial ∧ v.hdr = h ∧ v.data = ds ∧ v.mReq = true ∧ v.mLock = h.lock ∧ v.answer = none) ∧
    t.wmu = { s.wmu with held := t.wmu.held, writes := t.wmu.writes, out := t.wmu.out } ∧ Frame [.wmu, .mpa, .serial] s t := by
  intro t
  have hfind := sWrite?_openWrite (h := h) (p := .pass) hfresh
  have htake : takeItem (.whole s.serial ds) (openWrite h .pass s) = takeWhole (newWrite h .pass s) ds (openWrite h .pass s) := by
    rw [takeItem, hfind]
  have hframe : Frame [.wmu, .mpa, .serial] s t :=
    frame_openWrite.seq (frame_offer_of (c := [.wmu, .mpa, .serial]) rfl (.head _) (htake ▸ frame_takeWhole))
  have hwaits : s.wmu.held ≠ [] → t = setHeld (s.wmu.held ++ [.whole s.serial ds]) (openWrite h .pass s) := fun hh =>
    offer_held (s := openWrite h .pass s) hh
  have hgoes : s.wmu.held = [] →
      t = releaseWrites (setHeld [] (takeWhole (newWrite h .pass s) ds (openWrite h .pass s))) := fun hh =>
    (offer_taken (s := openWrite h .pass s) hh rfl).trans (by rw [htake])
  refine ⟨fun hh => ?_, fun hh => ?_, ?_, hframe⟩
  · rw [hwaits hh]
    exact ⟨rfl, rfl⟩
  · rw [hgoes hh]
    refine ⟨rfl, rfl, { newWrite h .pass s with data := ds, mReq := true, mLock := h.lock, passed := true }, ?_,
      rfl, rfl, rfl, rfl, rfl, rfl⟩
    exact releaseWrites_unanswered (putSWrite_mem (s := requestSys _ (openWrite h .pass s)) hfind) ⟨rfl, rfl⟩
  · by_cases hh : s.wmu.held = []
    · rw [hgoes hh]
      rfl
    · rw [hwaits hh]
      rfl

/-- An illegal write behind held data waits; with nothing held it is answered with an error (R148, R150). -/
theorem illegalWrite_row {s : State} {h : TxnHdr} (hfresh : ∀ v ∈ s.wmu.writes, v.no ≠ s.serial) :
    let t := wholeWrite h .illegal .illegal s
    (s.wmu.held ≠ [] → t.wmu.held = s.wmu.held ++ [.illegal s.serial]) ∧
    (s.wmu.held = [] → (∀ v ∈ s.wmu.writes, v.hdr.id ≠ h.id) → ∃ e, respErr e = true ∧
      SOut.writeResp h.id s.serial e ∈ t.wmu.out) ∧
    t.wmu = { s.wmu with held := t.wmu.held, writes := t.wmu.writes, out := t.wmu.out } ∧ Frame [.wmu, .serial] s t := by
  intro t
  have hfind := sWrite?_openWrite (h := h) (p := .illegal) hfresh
  have htake : takeItem (.illegal s.serial) (openWrite h .illegal s) =
      takeIllegal (newWrite h .illegal s) (openWrite h .illegal s) := by
    rw [takeItem, hfind]
  have hframe : Frame [.wmu, .serial] s t :=
    frame_openWrite.seq (frame_offer_of (c := [.wmu, .serial]) rfl (.head _) (htake ▸ frame_takeIllegal.wide))
  have hwaits : s.wmu.held ≠ [] → t = setHeld (s.wmu.held ++ [.illegal s.serial]) (openWrite h .illegal s) := fun hh =>
    offer_held (s := openWrite h .illegal s) hh
  have hgoes : s.wmu.held = [] →
      t = releaseWrites (setHeld [] (takeIllegal (newWrite h .illegal s) (openWrite h .illegal s))) := fun hh =>
    (offer_taken (s := openWrite h .illegal s) hh rfl).trans (by rw [htake])
  refine ⟨fun hh => ?_, fun hh halone => ?_, ?_, hframe⟩
  · rw [hwaits hh]
    rfl
  · rw [hgoes hh]
    refine ⟨partError s.serial, partError_err _, ?_⟩
    refine releaseWrites_answers (w := { newWrite h .illegal s with answer := some (partError s.serial) })
      (pre := s.wmu.writes) (post := []) (putSWrite_last hfresh rfl) (fun v hv hid => absurd hid (halone v hv)) rfl rfl
  · by_cases hh : s.wmu.held = []
    · rw [hgoes hh]
      rfl
    · rw [hwaits hh]
      rfl

end Sys2Proof.Machine
end

section
/-! SUPPORT. The order in which read beats are returned (R148), and the rows of pass-through and illegal transactions. -/
namespace Sys2Proof.Machine
set_option Elab.async false

/-! ### The read beats returned (R148) -/

theorem mem_readOuts {id no k : Nat} {ds : List RData} {x : SOut} :
    x ∈ readOuts id no k ds ↔ ∃ i d, ds[i]? = some d ∧ x = .readBeat id no (k + i) d := by
  induction ds generalizing k with
  | nil => simp [readOuts]
  | cons d ds ih =>
    rw [readOuts, List.mem_cons, ih]
    constructor
    · rintro (rfl | ⟨i, d', hd, rfl⟩)
      · exact ⟨0, d, rfl, rfl⟩
      · exact ⟨i + 1, d', hd, by rw [Nat.add_assoc, Nat.add_comm 1]⟩
    · rintro ⟨i, d', hd, rfl⟩
      cases i with
      | zero => cases hd; exact .inl rfl
      | succ i => exact .inr ⟨i, d', hd, by rw [Nat.add_assoc, Nat.add_comm 1]⟩

/-- One read beat comes before another: of an earlier read, or of the same read and earlier in it. -/
def SOut.Before (x y : SOut) : Prop :=
  ∀ id n k d id' n' k' d', x = .readBeat id n k d → y = .readBeat id' n' k' d' → n < n' ∨ (n = n' ∧ k < k')

theorem readOuts_ascending (id no k : Nat) (ds : List RData) : (readOuts id no k ds).Pairwise SOut.Before := by
  induction ds generalizing k with
  | nil => exact .nil
  | cons d ds ih =>
    refine List.pairwise_cons.2 ⟨fun y hy id1 n1 k1 d1 id2 n2 k2 d2 hx hy' => ?_, ih _⟩
    obtain ⟨i, d', -, rfl⟩ := mem_readOuts.1 hy
    cases hx
    cases hy'
    exact .inr ⟨rfl, by omega⟩

/-- Every beat returned is a beat of a read that stood. -/
theorem releaseReadList_outs {rs : List SRead} (busy : List Nat) {id n k : Nat} {d : RData}
    (h : SOut.readBeat id n k d ∈ (releaseReadList busy rs).2) : ∃ r ∈ rs, r.no = n ∧ r.hdr.id = id := by
  induction rs generalizing busy with
  | nil => cases h
  | cons r rs ih =>
    have later : ∀ b, SOut.readBeat id n k d ∈ (releaseReadList b rs).2 → ∃ x ∈ r :: rs, x.no = n ∧ x.hdr.id = id := fun b h =>
      (ih b h).imp fun _ hx => ⟨.tail _ hx.1, hx.2⟩
    have here : ∀ b, SOut.readBeat id n k d ∈ readOuts r.hdr.id r.no r.sent (r.ready (renderBeat r.no)) ++ (releaseReadList b rs).2 →
        ∃ x ∈ r :: rs, x.no = n ∧ x.hdr.id = id := by
      intro b h
      rcases List.mem_append.1 h with h | h
      · obtain ⟨i, d', -, heq⟩ := mem_readOuts.1 h
        cases heq
        exact ⟨r, .head _, rfl, rfl⟩
      · exact later b h
    unfold releaseReadList at h
    split at h
    · exact later _ h
    · dsimp only at h
      split at h
      · exact here _ h
      · exact here _ h

theorem releaseReadList_ascending {rs : List SRead} (busy : List Nat) (hrs : (rs.map SRead.no).Pairwise (· < ·)) :
    (releaseReadList busy rs).2.Pairwise SOut.Before := by
  induction rs generalizing busy with
  | nil => exact .nil
  | cons r rs ih =>
    obtain ⟨hfirst, hrest⟩ := List.pairwise_cons.1 hrs
    have here : ∀ b, (readOuts r.hdr.id r.no r.sent (r.ready (renderBeat r.no)) ++ (releaseReadList b rs).2).Pairwise
        SOut.Before := by
      refine fun b => List.pairwise_append.2 ⟨readOuts_ascending .., ih b hrest, fun x hx y hy => ?_⟩
      intro id1 n1 k1 d1 id2 n2 k2 d2 hx' hy'
      obtain ⟨i, d', -, heq⟩ := mem_readOuts.1 hx
      rw [hx'] at heq
      cases heq
      obtain ⟨v, hv, hno, -⟩ := releaseReadList_outs b (hy' ▸ hy)
      exact .inl (hno ▸ hfirst _ (List.mem_map_of_mem hv))
    unfold releaseReadList
    split
    · exact ih _ hrest
    · dsimp only
      split
      · exact here _
      · exact here _

/-- No beat is returned of an identifier that waits, and none before an earlier read of its identifier is whole. -/
theorem releaseReadList_inOrder {rs : List SRead} (busy : List Nat) (hrs : (rs.map SRead.no).Pairwise (· < ·))
    {id n k : Nat} {d : RData} (hout : SOut.readBeat id n k d ∈ (releaseReadList busy rs).2) :
    id ∉ busy ∧ ∀ v ∈ (releaseReadList busy rs).1, v.hdr.id = id → n ≤ v.no := by
  induction rs generalizing busy with
  | nil => cases hout
  | cons r rs ih =>
    obtain ⟨hfirst, hrest⟩ := List.pairwise_cons.1 hrs
    have hafter : ∀ b, ∀ v ∈ (releaseReadList b rs).1, r.no ≤ v.no := fun b v hv =>
      Nat.le_of_lt (hfirst _ ((releaseReadList_nos b rs).subset (List.mem_map_of_mem hv)))
    unfold releaseReadList at hout ⊢
    by_cases hwaits : busy.contains r.hdr.id = true
    · rw [if_pos hwaits] at hout ⊢
      obtain ⟨hbusy, hlater⟩ := ih busy hrest hout
      exact ⟨hbusy, List.forall_mem_cons.2 ⟨fun hid => absurd (hid ▸ List.contains_iff_mem.1 hwaits) hbusy, hlater⟩⟩
    · rw [if_neg hwaits] at hout ⊢
      have hfree : r.hdr.id ∉ busy := fun h => hwaits (List.contains_iff_mem.2 h)
      dsimp only at hout ⊢
      by_cases hwhole : r.total ≤ r.sent + (r.ready (renderBeat r.no)).length
      · rw [if_pos hwhole] at hout ⊢
        rcases List.mem_append.1 hout with hout | hout
        · obtain ⟨i, d', -, heq⟩ := mem_readOuts.1 hout
          cases heq
          exact ⟨hfree, fun v hv _ => hafter _ v hv⟩
        · exact ih busy hrest hout
      · rw [if_neg hwhole] at hout ⊢
        rcases List.mem_append.1 hout with hout | hout
        · obtain ⟨i, d', -, heq⟩ := mem_readOuts.1 hout
          cases heq
          exact ⟨hfree, List.forall_mem_cons.2 ⟨fun _ => Nat.le_refl _, fun v hv _ => hafter _ v hv⟩⟩
        · obtain ⟨hbusy, hlater⟩ := ih _ hrest hout
          exact ⟨fun h => hbusy (.tail _ h), List.forall_mem_cons.2 ⟨fun hid => absurd (hid ▸ .head _) hbusy, hlater⟩⟩

/-- The first read of an identifier that does not wait returns what is ready. -/
theorem releaseReadList_returns {pre post : List SRead} {r : SRead} (busy : List Nat) (hbusy : r.hdr.id ∉ busy)
    (hpre : ∀ v ∈ pre, v.hdr.id ≠ r.hdr.id) {i : Nat} {d : RData} (hd : (r.ready (renderBeat r.no))[i]? = some d) :
    SOut.readBeat r.hdr.id r.no (r.sent + i) d ∈ (releaseReadList busy (pre ++ r :: post)).2 := by
  induction pre generalizing busy with
  | nil =>
    have hmem := mem_readOuts.2 ⟨i, d, hd, Eq.refl (SOut.readBeat r.hdr.id r.no (r.sent + i) d)⟩
    rw [List.nil_append, releaseReadList, if_neg fun h => hbusy (List.contains_iff_mem.1 h)]
    dsimp only
    split
    · exact List.mem_append_left _ hmem
    · exact List.mem_append_left _ hmem
  | cons v pre ih =>
    have ⟨hv, hrest⟩ := List.forall_mem_cons.1 hpre
    rw [List.cons_append, releaseReadList]
    split
    · exact ih busy hbusy hrest
    · dsimp only
      split
      · exact List.mem_append_right _ (ih busy hbusy hrest)
      · refine List.mem_append_right _ (ih _ (fun h => ?_) hrest)
        exact (List.mem_cons.1 h).elim (fun h => hv h.symm) hbusy

/-- The first read of its identifier returns what is ready. -/
theorem releaseReads_returns {s : State} {pre post : List SRead} {r : SRead} (hrs : s.wmu.reads = pre ++ r :: post)
    (hpre : ∀ v ∈ pre, v.hdr.id ≠ r.hdr.id) {i : Nat} {d : RData} (hd : (r.ready (renderBeat r.no))[i]? = some d) :
    SOut.readBeat r.hdr.id r.no (r.sent + i) d ∈ (releaseReadList [] s.wmu.reads).2 := by
  rw [hrs]
  exact releaseReadList_returns [] List.not_mem_nil hpre hd

/-! ### The rows -/

theorem sRead?_no {no : Nat} {s : State} {r : SRead} (h : sRead? no s = some r) : r.no = no := by
  simpa using List.find?_some h

theorem putReadPath_mem {no : Nat} {p : ReadPath} {s : State} {r : SRead} (h : sRead? no s = some r) :
    { r with path := p } ∈ (putReadPath no p s).wmu.reads :=
  List.mem_map.2 ⟨r, List.mem_of_find?_eq_some h, if_pos (by rw [sRead?_no h]; exact beq_self_eq_true no)⟩

/-- An illegal read is answered with an error on every beat (R148). -/
theorem illegalRead_row (s : State) (h : TxnHdr) :
    ((∀ v ∈ s.wmu.reads, v.hdr.id ≠ h.id) → ∃ e, respErr e = true ∧
      ∀ k, k < h.beats → SOut.readBeat h.id s.serial k ⟨0, e⟩ ∈ (illegalRead h s).wmu.out) ∧
    (illegalRead h s).wmu = { s.wmu with reads := (illegalRead h s).wmu.reads, out := (illegalRead h s).wmu.out } ∧
    Frame [.wmu, .serial] s (illegalRead h s) := by
  refine ⟨fun halone => ⟨partError s.serial, partError_err _, fun k hk => ?_⟩, rfl,
    show Frame _ s (((s.setSerial _).setWmu _).setWmu _) from
      (frame_setSerial.trans frame_setWmu).seq frame_setWmu⟩
  refine List.mem_append_right _ ?_
  have hready := releaseReadList_returns (pre := s.wmu.reads) (post := []) (i := k) (d := ⟨0, partError s.serial⟩) []
    (r := ⟨s.serial, h, .part (List.replicate h.beats { data := 0, resp := partError s.serial }), 0⟩)
    List.not_mem_nil halone (by simp [SRead.ready, hk])
  rwa [Nat.zero_add] at hready

theorem fullWrite_of {no : Nat} {s : State} {w : SWrite} (h : sWrite? no s = some w) : fullWrite no s = w.full := by
  rw [fullWrite, h]

theorem mixedWrite_of {no : Nat} {s : State} {w : SWrite} (h : sWrite? no s = some w) : mixedWrite no s = w.passed := by
  rw [mixedWrite, h]

theorem returnWrite_of {txn no : Nat} {r : Resp} {s : State} {w : SWrite} (h : sWrite? no s = some w) :
    returnWrite txn no r s = releaseWrites (putSWrite no { w with mDone := some r, answer := some r } (answered txn s)) := by
  rw [returnWrite, h]

theorem frame_answered_putSWrite {txn no : Nat} {x : SWrite} {s : State} :
    Frame [.wmu, .mpa] s (putSWrite no x (answered txn s)) :=
  show Frame _ s ((s.setMpa _).setWmu _) from frame_setMpa.seq frame_setWmu

/-- Settles O53: the windows by their disjointness, the answers by induction over the writes in order, the rows by the offer. -/
theorem passThroughForwardedIllegalRefused : Obligations.PassThroughForwardedIllegalRefused := by
  refine ⟨fun h => ⟨rfl, rfl, illegal_iff h, beatPos_fixed, fun hb => ⟨beatPos_incr_first hb, fun j => beatPos_incr hb⟩,
      fun hb j => beatPos_wrap hb j⟩,
    ⟨respErr_iff, fun ds => List.any_eq_true⟩,
    fun s h => ⟨fun hout => wholePasses_of_pass (writePathOf_fallsInNone hout), fun i w => wholePasses_fallsIn⟩,
    fun s ⟨_, hwrites, _⟩ => ⟨(releaseWriteList [] s.wmu.writes).2, rfl, ?order, ?first, ?answered⟩,
    fun s h => ⟨?passRead, ?passWrite, ?readBack, ?writeBack, ?illegalRead, ?illegalWrite⟩⟩
  case order =>
    exact (releaseWriteList_ascending [] hwrites).imp fun h id n r n' r' hx hy => h id n r id n' r' hx hy
  case first =>
    exact fun id n r hout v hv => (releaseWriteList_inOrder [] hwrites hout).2 v (List.mem_filter.1 hv).1
  case answered =>
    intro pre w post r hws hpre hsent hanswer
    rw [hws]
    exact releaseWriteList_answers [] List.not_mem_nil hpre hsent hanswer
  case passRead =>
    intro hlegal hpasses
    exact ⟨passRead h s, if_pos ⟨hlegal, hpasses⟩, rfl, rfl,
      show Frame _ s (((s.setSerial _).setWmu _).setSerial _ |>.setMpa _) from
        (frame_setSerial.trans frame_setWmu).seq (frame_setSerial.trans frame_setMpa)⟩
  case passWrite =>
    intro ds hlegal hlen hcur hpasses hfresh
    exact ⟨_, if_pos ⟨hlegal, hlen, hcur, hpasses⟩, passWrite_row hfresh⟩
  case readBack =>
    intro txn no r beats hgrant hread hlen
    refine ⟨putReadPath no (.memory (some beats)) (answered txn s), ?_, rfl,
      ⟨{ r with path := .memory (some beats) }, putReadPath_mem (s := answered txn s) hread, (sRead?_no hread : r.no = no), rfl, rfl⟩, rfl,
      show Frame _ s ((s.setMpa _).setWmu _) from frame_setMpa.seq frame_setWmu⟩
    change execPassThroughResponse txn (.read beats) s = _
    unfold execPassThroughResponse
    rw [hgrant]
    dsimp only
    rw [hread]
    exact if_pos hlen
  case writeBack =>
    intro txn no w r hgrant hwrite hfull
    refine ⟨putSWrite no { w with mDone := some r, answer := some r } (answered txn s), ?_, rfl,
      ⟨{ w with mDone := some r, answer := some r }, putSWrite_mem (s := answered txn s) hwrite, (sWrite?_no hwrite : w.no = no), rfl, rfl, rfl⟩, rfl,
      frame_answered_putSWrite⟩
    rcases hgrant with hgrant | ⟨hgrant, hpassed⟩
    · change execPassThroughResponse txn (.write r) s = _
      unfold execPassThroughResponse
      rw [hgrant]
      dsimp only
      rw [if_pos ((fullWrite_of hwrite).trans hfull), returnWrite_of hwrite]
    · change execPassThroughResponse txn (.write r) s = _
      unfold execPassThroughResponse
      rw [hgrant]
      dsimp only
      rw [if_pos (by rw [fullWrite_of hwrite, mixedWrite_of hwrite, hfull, hpassed]; rfl), returnWrite_of hwrite]
  case illegalRead =>
    intro hillegal
    exact ⟨illegalRead h s, if_pos hillegal, illegalRead_row s h⟩
  case illegalWrite =>
    intro hillegal hcur hfresh
    exact ⟨wholeWrite h .illegal .illegal s, (if_pos hillegal).trans (if_pos hcur), illegalWrite_row hfresh⟩

end Sys2Proof.Machine
end

section
/-! SUPPORT. How write beats are presented (R148, R156), and a page beat's take (R157). -/
namespace Sys2Proof.Machine
set_option Elab.async false

/-! ### What a hand-over looks at -/

/-- Two states agree in all that a hand-over reads and changes: the intake and the report unit. -/
structure IntakeAgrees (s t : State) : Prop where
  cin : s.cin = t.cin
  rpu : s.rpu = t.rpu

theorem IntakeAgrees.setCin {s t : State} (h : IntakeAgrees s t) {x y : Cin} (hxy : x = y) :
    IntakeAgrees (s.setCin x) (t.setCin y) := ⟨hxy, h.rpu⟩

theorem takable_congr {s t : State} (h : IntakeAgrees s t) : takable s = takable t := by
  have hcmd : ∀ n, cmdOf s n = cmdOf t n := fun n => by rw [cmdOf, cmdOf, codeOf, codeOf, h.cin]
  have hfree : s.free = t.free := by rw [State.free, State.free, h.rpu]
  have hidle : ∀ n, idleFor s n = idleFor t n := fun n => by simp only [idleFor, hcmd, h.cin]
  simp only [takable, chosen, hcmd, hidle, hfree, h.cin]

theorem takeEvent_agrees {s t : State} (h : IntakeAgrees s t) : IntakeAgrees (takeEvent s) (takeEvent t) :=
  h.setCin (by rw [takable_congr h, h.cin])

theorem cmdSlot_congr {s t : State} (h : IntakeAgrees s t) (n : Fin 8) : cmdSlot s n = cmdSlot t n := by
  rw [cmdSlot, cmdSlot, h.cin]

theorem issueSlot_agrees {s t : State} (h : IntakeAgrees s t) (n : Fin 8) : IntakeAgrees (issueSlot n s) (issueSlot n t) := by
  unfold issueSlot
  rw [cmdSlot_congr h, h.cin]
  split
  · exact h
  · exact h.setCin rfl

theorem withdrawSlot_agrees {s t : State} (h : IntakeAgrees s t) (n : Fin 8) :
    IntakeAgrees (withdrawSlot n s) (withdrawSlot n t) := by
  unfold withdrawSlot
  rw [cmdSlot_congr h, h.cin]
  split
  · exact h.setCin rfl
  · split
    · unfold putCmdSlot
      exact h.setCin (by rw [h.cin])
    · exact h

theorem judgeByte_agrees {s t : State} (h : IntakeAgrees s t) (off : Nat) (b : Byte) :
    IntakeAgrees (judgeByte off b s) (judgeByte off b t) := by
  unfold judgeByte
  split
  · split
    · split
      · exact takeEvent_agrees (issueSlot_agrees h _)
      · split
        · exact takeEvent_agrees (withdrawSlot_agrees h _)
        · exact h
    · exact h
  · exact h

theorem judgeBytes_agrees {s t : State} (h : IntakeAgrees s t) (bs : List (Nat × Byte)) :
    IntakeAgrees (judgeBytes bs s) (judgeBytes bs t) := by
  induction bs generalizing s t with
  | nil => exact h
  | cons p bs ih => exact ih (judgeByte_agrees h _ _)

/-- What a hand-over makes of the intake and the report unit depends on these two alone. -/
theorem handBytes_agrees {s t : State} (h : IntakeAgrees s t) (bs : List (Nat × Byte)) :
    IntakeAgrees (handBytes bs s) (handBytes bs t) := by
  have hshadow : IntakeAgrees (setShadow (shadowAfter s.cin.shadow bs) s) (setShadow (shadowAfter t.cin.shadow bs) t) :=
    h.setCin (by rw [h.cin])
  refine judgeBytes_agrees ?_ bs
  unfold tailAfter
  split
  · exact ⟨hshadow.cin, by rw [State.setRpu_rpu, State.setRpu_rpu, hshadow.rpu, hshadow.cin]⟩
  · exact hshadow

/-! ### Forwarding a beat (R157, R158) -/

/-- The M-port write of an S-port write, as it is requested. -/
def sysRequest (w : SWrite) (n : Nat) : MTxn :=
  ⟨n, sysKind w, .sys, true, w.hdr.addr.toNat, w.hdr.beats * w.hdr.bytes, []⟩

/-- A write after the forwarding of a beat. -/
def forwardedWrite (w : SWrite) (d : WData) (pass : Bool) : SWrite :=
  { w with data := w.data ++ [d], mReq := true, mLock := if w.mReq then w.mLock else pass && w.hdr.lock,
           passed := w.passed || pass }

theorem forwardBeat_again {w : SWrite} (h : w.mReq = true) (d : WData) (pass : Bool) (s : State) :
    forwardBeat w d pass s = putSWrite w.no (forwardedWrite w d pass) s := by
  unfold forwardBeat
  rw [if_pos h]
  rfl

theorem forwardBeat_first {w : SWrite} (h : w.mReq = false) (d : WData) (pass : Bool) (s : State) :
    forwardBeat w d pass s = putSWrite w.no (forwardedWrite w d pass) (requestSys w s) := by
  unfold forwardBeat
  rw [if_neg (by rw [h]; exact Bool.false_ne_true)]
  rfl

theorem forwardBeat_wmu (w : SWrite) (d : WData) (pass : Bool) (s : State) :
    (forwardBeat w d pass s).wmu = (putSWrite w.no (forwardedWrite w d pass) s).wmu := by
  cases h : w.mReq
  · rw [forwardBeat_first h]
    rfl
  · rw [forwardBeat_again h]

theorem forwardBeat_mpa_again {w : SWrite} (h : w.mReq = true) (d : WData) (pass : Bool) (s : State) :
    (forwardBeat w d pass s).mpa = s.mpa := by
  rw [forwardBeat_again h]
  rfl

theorem forwardBeat_mpa_first {w : SWrite} (h : w.mReq = false) (d : WData) (pass : Bool) (s : State) :
    (forwardBeat w d pass s).mpa = { s.mpa with sys := s.mpa.sys ++ [sysRequest w s.serial] } := by
  rw [forwardBeat_first h]
  rfl

theorem sysRequest_of_sys {w : SWrite} (h : ∀ base, w.path ≠ .capture base) (n : Nat) :
    sysRequest w n = ⟨n, .sysWrite w.no, .sys, true, w.hdr.addr.toNat, w.hdr.beats * w.hdr.bytes, []⟩ := by
  unfold sysRequest sysKind
  split
  · exact absurd ‹_› (h _)
  · rfl

theorem forwardedWrite_mem {no : Nat} {s : State} {w : SWrite} (h : sWrite? no s = some w) (d : WData) (pass : Bool) :
    forwardedWrite w d pass ∈ (forwardBeat w d pass s).wmu.writes := by
  rw [forwardBeat_wmu]
  exact putSWrite_mem (no := w.no) (by rw [sWrite?_no h]; exact h)

/-! ### Presenting a beat (R148, R156) -/

theorem present_refused {b : WBeat} {ours : WritePath → Bool} {s : State} (h : b.hdr.illegal = true ∨ b.hdr.beats ≤ b.beat) :
    present b ours s = none := if_pos h

theorem present_busy {b : WBeat} {ours : WritePath → Bool} {s : State} (hb : b.beat = 0) (hc : s.wmu.cur ≠ none) :
    present b ours s = none := by
  unfold present
  split
  · rfl
  · split
    · exact absurd ‹_› hc
    · rename_i hj _
      rw [hb] at hj
      cases hj
    · rfl

theorem present_idle {b : WBeat} {ours : WritePath → Bool} {s : State} (hb : b.beat ≠ 0) (hc : s.wmu.cur = none) :
    present b ours s = none := by
  unfold present
  split
  · rfl
  · split
    · exact absurd ‹_› hb
    · rename_i hno
      rw [hc] at hno
      cases hno
    · rfl

theorem present_first {b : WBeat} {ours : WritePath → Bool} {s : State} (hl : b.hdr.illegal = false) (hb : b.beat = 0)
    (hc : s.wmu.cur = none) : present b ours s = if ours (writePathOf s b.hdr) then
      some (s.serial, setCur (cursorAfter s.serial 0 b.hdr) (openWrite b.hdr (writePathOf s b.hdr) s)) else none := by
  unfold present
  rw [if_neg (by rw [hl, hb]; exact fun h => h.elim nofun fun h => Nat.not_succ_le_zero _ h), hb, hc]

theorem present_next {b : WBeat} {ours : WritePath → Bool} {s : State} {j no : Nat} {w : SWrite} (hl : b.hdr.illegal = false)
    (hb : b.beat = j + 1) (hj : j + 1 < b.hdr.beats) (hc : s.wmu.cur = some no) (hw : sWrite? no s = some w)
    (ho : ours w.path = true) (hh : w.hdr = b.hdr) (hp : presented w s = j + 1) :
    present b ours s = some (no, setCur (cursorAfter no (j + 1) b.hdr) s) := by
  unfold present
  rw [if_neg (by rw [hl, hb]; exact fun h => h.elim nofun (by omega)), hb, hc]
  dsimp only
  rw [hw]
  exact if_pos ⟨ho, hh, hp⟩

/-- A beat presented changes the cursor and the writes alone. -/
theorem present_wmu {b : WBeat} {ours : WritePath → Bool} {s s' : State} {no : Nat} (h : present b ours s = some (no, s')) :
    s'.wmu = { s.wmu with cur := s'.wmu.cur, writes := s'.wmu.writes } := by
  unfold present at h
  split at h
  · cases h
  · split at h
    · dsimp only at h
      split at h
      · cases h
        rfl
      · cases h
    · split at h
      · split at h
        · cases h
          rfl
        · cases h
      · cases h
    · cases h

theorem beatStep_of {b : WBeat} {ours : WritePath → Bool} {s s' : State} {no : Nat} (h : present b ours s = some (no, s')) :
    beatStep b ours s = offer (.beat no b) s' := by
  rw [beatStep, h]

theorem present_held {b : WBeat} {ours : WritePath → Bool} {s s' : State} {no : Nat} (h : present b ours s = some (no, s')) :
    s'.wmu.held = s.wmu.held := by rw [present_wmu h]

/-- Behind a held beat a beat presented waits (R150). -/
theorem beatStep_waits {b : WBeat} {ours : WritePath → Bool} {s s' : State} {no : Nat} (h : present b ours s = some (no, s'))
    (hheld : s.wmu.held ≠ []) : (beatStep b ours s).wmu = { s'.wmu with held := s.wmu.held ++ [.beat no b] } ∧
      Frame [.wmu, .serial] s (beatStep b ours s) := by
  rw [beatStep_of h, offer_held (by rw [present_held h]; exact hheld), ← present_held h]
  exact ⟨rfl, (frame_present h).seq frame_setHeld⟩

theorem takeItem_beat {no : Nat} {b : WBeat} {s : State} {w : SWrite} (h : sWrite? no s = some w) :
    takeItem (.beat no b) s = takeBeat w b s := by
  rw [takeItem, h]

/-- A beat of a path other than a CAPTURE window's is never held. -/
theorem mustHold_other {no : Nat} {b : WBeat} {s : State} {w : SWrite} (h : sWrite? no s = some w)
    (hp : ∀ base, w.path ≠ .capture base) : mustHold (.beat no b) s = false := by
  refine mustHold_of_none ?_
  unfold positions?
  dsimp only
  rw [h]
  dsimp only
  split
  · exact absurd ‹_› (hp _)
  · rfl

/-- With nothing held, a beat of such a path is taken, and the answers that may be given are. -/
theorem beatStep_taken {b : WBeat} {ours : WritePath → Bool} {s s' : State} {no : Nat} {w : SWrite}
    (h : present b ours s = some (no, s')) (hw : sWrite? no s' = some w) (hp : ∀ base, w.path ≠ .capture base)
    (hheld : s.wmu.held = []) : beatStep b ours s = releaseWrites (setHeld [] (takeBeat w b s')) := by
  rw [beatStep_of h, offer_taken ((present_held h).trans hheld) (mustHold_other hw hp), takeItem_beat hw]

/-! ### Page beats (R157) -/

/-- A page beat's take: what its forwarding and its hand-over leave, for the state the command takes leave. -/
theorem pageBeat_taken {u : State} {no : Nat} {w : SWrite} (bytes : List (Nat × Byte)) (d : WData)
    (hw : sWrite? no u = some w) (hun : w.Unanswered) (hpath : w.path = .page) :
    let t := releaseWrites (setHeld [] (handBytes bytes (forwardBeat w d false u)))
    t.cin = (handBytes bytes u).cin ∧ t.rpu = (handBytes bytes u).rpu ∧
    (∃ v ∈ t.wmu.writes, v.no = no ∧ v.data = w.data ++ [d] ∧ v.mReq = true ∧ v.answer = none) ∧
    (w.mReq = false → t.mpa = { u.mpa with sys := u.mpa.sys ++
      [⟨u.serial, .sysWrite no, .sys, true, w.hdr.addr.toNat, w.hdr.beats * w.hdr.bytes, []⟩] }) ∧
    (w.mReq = true → t.mpa = u.mpa) ∧
    t.wmu = { u.wmu with held := [], writes := t.wmu.writes, out := t.wmu.out } ∧
    Frame [.wmu, .mpa, .cin, .rpu, .serial] u t := by
  intro t
  have hfwd : Frame [.wmu, .mpa, .serial] u (forwardBeat w d false u) := frame_forwardBeat
  have hhand : Frame [.cin, .rpu] (forwardBeat w d false u) (handBytes bytes (forwardBeat w d false u)) := frame_handBytes
  have hagree : IntakeAgrees (handBytes bytes (forwardBeat w d false u)) (handBytes bytes u) :=
    handBytes_agrees ⟨hfwd.cin, hfwd.rpu⟩ bytes
  have hmpa : t.mpa = (forwardBeat w d false u).mpa := hhand.mpa
  have hwmu : t.wmu = { (handBytes bytes (forwardBeat w d false u)).wmu with
    held := [], writes := t.wmu.writes, out := t.wmu.out } := rfl
  rw [hhand.wmu, forwardBeat_wmu] at hwmu
  refine ⟨hagree.cin, hagree.rpu, ⟨forwardedWrite w d false, releaseWrites_unanswered ?_ hun, (sWrite?_no hw : w.no = no), rfl, rfl, hun.1⟩,
    fun hreq => ?_, fun hreq => hmpa.trans (forwardBeat_mpa_again hreq d false u), hwmu,
    ((hfwd.trans hhand).seq (frame_setHeld.trans frame_releaseWrites))⟩
  · change _ ∈ (handBytes bytes (forwardBeat w d false u)).wmu.writes
    rw [hhand.wmu]
    exact forwardedWrite_mem hw d false
  · rw [hmpa, forwardBeat_mpa_first hreq, sysRequest_of_sys (by rw [hpath]; nofun), sWrite?_no hw]

theorem pageBase_congr {s t : State} (h : t.wmu.windows = s.wmu.windows) : pageBase t = pageBase s := by
  rw [pageBase, pageBase, h]

theorem mem_strobedBytes {off : Nat} {w : WData} {p : Nat × Byte} : p ∈ strobedBytes off w ↔
    ∃ i, i < 16 ∧ w.strb.getLsbD i = true ∧ p = (off + i, w.data.extractLsb' (8 * i) 8) := by
  rw [strobedBytes, List.mem_filterMap]
  constructor
  · rintro ⟨i, hi, hp⟩
    split at hp
    · exact ⟨i, List.mem_range.1 hi, ‹_›, (Option.some.inj hp).symm⟩
    · cases hp
  · rintro ⟨i, hi, hs, rfl⟩
    exact ⟨i, List.mem_range.2 hi, if_pos hs⟩

/-- Settles O6: the equations of `present`, and the beat's take as its forwarding and its hand-over behind the takes due. -/
theorem pageBeatForwardedAndHanded : Obligations.PageBeatForwardedAndHanded := by
  refine ⟨fun s w hw => by rw [pageBase, hw], ?beat, fun off w p => mem_strobedBytes, ?presents, ?paths⟩
  case beat =>
    intro b s s' no w hpres hw hpath
    refine ⟨present_wmu hpres, fun hheld => ⟨_, rfl, beatStep_waits hpres hheld⟩, fun hheld hun => ?_⟩
    intro u bytes
    refine ⟨(frame_present hpres).wide, _, rfl, ?_⟩
    have hport : PortStands s' u := dueTakes_portStands s'
    have hfind : sWrite? no u = some w := by
      have hwrites : u.wmu.writes = s'.wmu.writes := by rw [hport]
      rw [sWrite?, hwrites]
      exact hw
    have hbase : pageBase s' = pageBase s := pageBase_congr (by rw [present_wmu hpres])
    rw [beatStep_taken hpres hw (by rw [hpath]; nofun) hheld, takeBeat, hpath]
    dsimp only
    rw [takePage, hbase]
    exact pageBeat_taken bytes b.w hfind hun hpath
  case presents =>
    refine fun b ours s => ⟨present_refused, present_busy, present_idle, fun hl hb hc => ⟨fun ho => ?_, fun ho => ?_⟩,
      fun j no w hl hb hj hc hw ho hh hp => present_next hl hb hj hc hw ho hh hp⟩
    · rw [present_first hl hb hc, ho]
      rfl
    · rw [present_first hl hb hc, ho]
      rfl
  case paths =>
    refine fun s h => ⟨writePathOf_fallsInNone, fun i w hdis hin => ?_⟩
    have hpath := writePathOf_fallsIn hdis hin
    refine ⟨fun hk => ?_, fun hk => ?_, fun k f hk => ?_, fun W H R E hk => ?_⟩ <;> rw [hpath, Win.path, hk]

end Sys2Proof.Machine
end

section
/-! SUPPORT. MONITOR window beats and frames (R127 to R129). -/
namespace Sys2Proof.Machine
set_option Elab.async false

/-! ### What the judgement of a frame leaves alone -/

theorem measured_cfg (l : Lamp) (m : Meas) (now : Time) : (l.measured m now).cfg = l.cfg := by
  have htest : ∀ x : Lamp, (x.settleTest now).cfg = x.cfg := fun x => by
    unfold Lamp.settleTest
    split <;> rfl
  unfold Lamp.measured
  split
  · rfl
  · split <;> rfl
  · split
    · split <;> rfl
    · split
      · exact htest _
      · rw [htest, Lamp.candidate]
        split
        · split <;> rfl
        · rfl
      · rw [Lamp.steadyLevel]
        split
        · rfl
        · exact htest _
      · rfl

theorem countRecovery_cfg (s : State) : (countRecovery s).lamp.cfg = s.lamp.cfg := by
  unfold countRecovery completeRecovery
  split
  · split
    · rw [frame_setCecValue.lamp]
      rfl
    · rfl
  · rfl

/-- A measurement leaves the lamp's configuration. -/
theorem applyMeas_cfg (m : Meas) (s : State) : (applyMeas m s).lamp.cfg = s.lamp.cfg := by
  have htold : (lampTold m s).lamp.cfg = s.lamp.cfg := by
    rw [lampTold_lamp]
    exact measured_cfg ..
  rw [applyMeas_eq]
  split
  · exact (countRecovery_cfg _).trans htold
  · exact htold

theorem leaveState_sensor (x : SlotState) (k : JobKind) (s : State) : (leaveState x k s).mge.sensor = s.mge.sensor := by
  unfold leaveState
  split
  · rw [frame_stopSweep.mge]
  · rfl
  · split
    · rw [(stopScan_spec s).2]
    · rfl
  · rfl

/-- A vote leaves the sensor profile. -/
theorem voteFor_sensor (v : Presence) (s : State) : (voteFor v s).mge.sensor = s.mge.sensor := by
  have hacts : ∀ u : State, (presenceActs v u).mge.sensor = u.mge.sensor := fun u => by
    unfold presenceActs
    dsimp only
    repeat' split
    all_goals first | rfl | exact (congrArg Mge.sensor frame_failDue.mge).trans (leaveState_sensor ..)
  unfold voteFor
  dsimp only
  split
  · rfl
  · split
    · split
      · rw [changePresence, frame_startDecision.mge, hacts]
        rfl
      · rfl
    · rfl

theorem framePresence_sensor (t : Totals) (s : State) : (framePresence t s).mge.sensor = s.mge.sensor := by
  unfold framePresence
  split
  · exact voteFor_sensor _ _
  · rfl

/-- A completed frame without reference samples reaches neither monitor; any other both, in an order that is free (R129). -/
theorem evaluateFrame_spec (e : Nat) (t : Totals) (s : State) :
    let lamp (u : State) := applyMeas (measure s.mge.sensor t.refSum t.refCount t.sat e) u
    let presence (u : State) := match presenceVote s.mge.sensor s.lamp.cfg.presLim t with
      | some v => voteFor v u
      | none => u
    let u := { s with freeIdx := s.freeIdx + 1 }
    (t.refCount = 0 → evaluateFrame e t s = s) ∧
    (0 < t.refCount → evaluateFrame e t s = presence (lamp u) ∨ evaluateFrame e t s = lamp (presence u)) := by
  intro lamp presence u
  have hlamp : frameLamp e t u = lamp u := rfl
  have hfirst : framePresence t (lamp u) = presence (lamp u) := by
    have hsensor : (lamp u).mge.sensor = s.mge.sensor := by rw [frame_applyMeas.mge]
    have hcfg : (lamp u).lamp.cfg = s.lamp.cfg := applyMeas_cfg _ _
    unfold framePresence
    rw [hsensor, hcfg] <;> rfl
  have hthen : frameLamp e t (framePresence t u) = lamp (presence u) := by
    unfold frameLamp
    rw [framePresence_sensor]
    exact congrArg lamp rfl
  refine ⟨fun h => if_pos h, fun h => ?_⟩
  have hrun : evaluateFrame e t s =
      if Config.lampBeforePresence s.freeIdx then framePresence t (frameLamp e t u) else frameLamp e t (framePresence t u) :=
    if_neg (Nat.ne_of_gt h)
  rw [hrun]
  split
  · exact .inl (by rw [hlamp, hfirst])
  · exact .inr hthen

/-! ### A looked-at sample (R128) -/

theorem add_reference {t : Totals} {p : Sensor} {w h r i v : Nat} (hi : i < w * r) : t.add p w h r i v = { t with
    count := t.count + 1, refSum := t.refSum + v, refCount := t.refCount + 1, sat := t.sat || decide (p.s ≤ v) } :=
  if_pos hi

theorem inCentre_iff {w h r i : Nat} : inCentre w h r i = true ↔
    w / 4 ≤ i % w ∧ i % w < 3 * w / 4 ∧ h / 4 ≤ i / w - r ∧ i / w - r < 3 * h / 4 := by
  simp only [inCentre, Bool.and_eq_true, decide_eq_true_eq, and_assoc]

theorem add_centre {t : Totals} {p : Sensor} {w h r i v : Nat} (hi : w * r ≤ i) (hc : inCentre w h r i = true) :
    t.add p w h r i v = { t with count := t.count + 1, cSum := t.cSum + (min v p.s - p.b), cCount := t.cCount + 1 } :=
  (if_neg (Nat.not_lt.2 hi)).trans (if_pos hc)

theorem add_outside {t : Totals} {p : Sensor} {w h r i v : Nat} (hi : w * r ≤ i) (hc : ¬ inCentre w h r i = true) :
    t.add p w h r i v = { t with count := t.count + 1 } := (if_neg (Nat.not_lt.2 hi)).trans (if_neg hc)

theorem add_count (t : Totals) (p : Sensor) (w h r i v : Nat) : (t.add p w h r i v).count = t.count + 1 := by
  unfold Totals.add
  dsimp only
  split
  · rfl
  · split <;> rfl

theorem totalsOf_putTotals (n : Fin 16) (t : Totals) (s : State) : totalsOf (putTotals n t s) n = t :=
  vget_vput_self ..

/-! ### The samples of a beat (R32, R127) -/

/-- What a beat's containers yield stands in ascending index order, where each index is the container's. -/
theorem pairwise_containers {α : Type} (idx : α → Nat) (c : Nat) {f : Nat → Option α} (n : Nat)
    (hf : ∀ i x, f i = some x → idx x = c + i) : ((List.range n).filterMap f).Pairwise fun x y => idx x < idx y := by
  refine List.pairwise_filterMap.2 (List.pairwise_lt_range.imp fun {i k} hik x hx y hy => ?_)
  rw [hf i x hx, hf k y hy]
  exact Nat.add_lt_add_left hik c

theorem bothStrobed_iff {w : WData} {i : Nat} :
    bothStrobed w i = true ↔ w.strb.getLsbD (2 * i) = true ∧ w.strb.getLsbD (2 * i + 1) = true := Bool.and_eq_true_iff

theorem mem_monitorSamples {off : Nat} {w : WData} {p : Nat × Nat} : p ∈ monitorSamples off w ↔
    ∃ i, i < 8 ∧ w.strb.getLsbD (2 * i) = true ∧ w.strb.getLsbD (2 * i + 1) = true ∧
      p = (off / 2 + i, (container w.data i).toNat % 16384) := by
  rw [monitorSamples, List.mem_filterMap]
  constructor
  · rintro ⟨i, hi, hp⟩
    split at hp
    · obtain ⟨h0, h1⟩ := bothStrobed_iff.1 ‹_›
      exact ⟨i, List.mem_range.1 hi, h0, h1, (Option.some.inj hp).symm⟩
    · cases hp
  · rintro ⟨i, hi, h0, h1, rfl⟩
    exact ⟨i, List.mem_range.2 hi, if_pos (bothStrobed_iff.2 ⟨h0, h1⟩)⟩

theorem monitorSamples_ascending (off : Nat) (w : WData) : (monitorSamples off w).Pairwise fun x y => x.1 < y.1 := by
  refine pairwise_containers Prod.fst (off / 2) 8 fun i x hx => ?_
  split at hx
  · exact congrArg Prod.fst (Option.some.inj hx).symm
  · cases hx

/-! ### MONITOR window beats (R127) -/

theorem forwardedWrite_pass (w : SWrite) (d : WData) : forwardedWrite w d true =
    { w with data := w.data ++ [d], mReq := true, mLock := if w.mReq then w.mLock else w.hdr.lock, passed := true } := by
  rw [forwardedWrite, Bool.or_true, Bool.true_and]

theorem forwardedWrite_keep (w : SWrite) (d : WData) : forwardedWrite w d false =
    { w with data := w.data ++ [d], mReq := true, mLock := if w.mReq then w.mLock else false, passed := w.passed } := by
  rw [forwardedWrite, Bool.or_false, Bool.false_and]

/-- The M-port write of a beat forwarded: requested at the first such beat, at the write's own address. -/
theorem forwardBeat_asks {w : SWrite} {no : Nat} {s s' : State} (d : WData) (pass : Bool) (hno : w.no = no)
    (hp : ∀ base, w.path ≠ .capture base) (hmpa : s'.mpa = s.mpa) :
    (w.mReq = true → (forwardBeat w d pass s').mpa = s.mpa) ∧
    (w.mReq = false → (forwardBeat w d pass s').mpa = { s.mpa with sys := s.mpa.sys ++
      [⟨s'.serial, .sysWrite no, .sys, true, w.hdr.addr.toNat, w.hdr.beats * w.hdr.bytes, []⟩] }) :=
  ⟨fun h => (forwardBeat_mpa_again h d pass s').trans hmpa,
   fun h => by rw [forwardBeat_mpa_first h, sysRequest_of_sys hp, hno, hmpa]⟩

/-- Settles O47: the beat's take by its window and the device's state, and the frame sample by sample. -/
theorem monitorBeatLookedAt : Obligations.MonitorBeatLookedAt := by
  refine ⟨?beat, fun off w p => mem_monitorSamples, monitorSamples_ascending, fun n w h r e s => ⟨rfl, fun _ _ => rfl⟩,
    ?sample, ?add, evaluateFrame_spec⟩
  case beat =>
    intro b s s' no w i hpres hw hpath asked carried
    have hother : ∀ base, w.path ≠ .capture base := by rw [hpath]; nofun
    have hframe : Frame [.serial, .wmu] s s' := frame_present hpres
    have hlooked : lookedAt s' = lookedAt s := by rw [lookedAt, lookedAt, hframe.device, present_wmu hpres]
    have hasks : ∀ pass, asked (forwardBeat w b.w pass s') := fun pass =>
      forwardBeat_asks b.w pass (sWrite?_no hw) hother hframe.mpa
    have htaken : ∀ hheld : s.wmu.held = [], exec (.monitorBeat b) s =
        .next (releaseWrites (setHeld [] (takeMonitor w i b s'))) := fun hheld => by
      change Host.Outcome.next (beatStep b WritePath.isMonitor s) = _
      rw [beatStep_taken hpres hw hother hheld, takeBeat, hpath]
    refine ⟨present_wmu hpres, fun hheld => ⟨_, rfl, beatStep_waits hpres hheld⟩, fun hheld hnot => ?plain,
      fun hheld hrun hmode W H R E base size hwin => ?looked⟩
    case plain =>
      have hmon : takeMonitor w i b s' = forwardBeat w b.w true s' :=
        if_neg (by rw [hlooked, lookedAt_iff]; exact hnot)
      rw [hmon] at htaken
      refine ⟨_, htaken hheld, hasks true, ?_, fun hun => ⟨forwardedWrite w b.w true, ?_, forwardedWrite_pass w b.w⟩,
        (hframe.trans frame_forwardBeat).seq (frame_setHeld.trans frame_releaseWrites)⟩
      · rw [releaseWrites_wmu, setHeld, State.setWmu_wmu, forwardBeat_wmu]
        rfl
      · exact releaseWrites_unanswered (forwardedWrite_mem hw b.w true) hun
    case looked =>
      have hmon : takeMonitor w i b s' = lookAt i b (forwardBeat w b.w false s') :=
        if_pos (by rw [hlooked, lookedAt_iff]; exact ⟨hrun, hmode⟩)
      have hwin' : vget (forwardBeat w b.w false s').wmu.windows i = some ⟨.monitor W H R E, base, size⟩ := by
        rw [forwardBeat_wmu]
        change vget s'.wmu.windows i = _
        rw [present_wmu hpres]
        exact hwin
      have hlook : lookAt i b (forwardBeat w b.w false s') = monitorAll i W H R E
          (monitorSamples (b.hdr.beatPos b.beat - base) b.w) (forwardBeat w b.w false s') := by
        rw [lookAt, hwin']
      rw [hmon, hlook] at htaken
      exact ⟨forwardBeat w b.w false s', hasks false,
        ⟨forwardedWrite w b.w false, forwardedWrite_mem hw b.w false, forwardedWrite_keep w b.w⟩,
        by rw [forwardBeat_wmu]; rfl, hframe.seq frame_forwardBeat, htaken hheld⟩
  case sample =>
    intro n w h r e i v s t0 t1
    have hrun : i < w * (h + r) → monitorSample n w h r e (i, v) s =
        if t1.count = w * (h + r) then putTotals n Totals.zero (evaluateFrame e t1 s) else putTotals n t1 s := fun hi =>
      if_neg (Nat.not_le.2 hi)
    refine ⟨fun hi => if_pos hi, fun _ => add_count .., fun hi hc => ?_, fun hi hc => ?_⟩
    · rw [hrun hi, if_neg hc]
      rfl
    · rw [hrun hi, if_pos hc]
      exact ⟨totalsOf_putTotals .., rfl⟩
  case add =>
    intro t p w h r i v x y centre
    refine ⟨add_reference, fun ⟨hi, hc⟩ => add_centre hi (inCentre_iff.2 hc), fun hi hc => add_outside hi fun hin => hc ⟨hi, inCentre_iff.1 hin⟩⟩

end Sys2Proof.Machine
end

section
/-! SUPPORT. CAPTURE window beats: their samples, their take and the hold (R32, R33, R150, R158). -/
namespace Sys2Proof.Machine
set_option Elab.async false

/-! ### The samples of a beat (R32) -/

theorem mem_captureSamples {off : Nat} {w : WData} {p : Sample} : p ∈ captureSamples off w ↔ ∃ i, i < 8 ∧ p.idx = off / 2 + i ∧
    p.raw = container w.data i ∧
    ((w.strb.getLsbD (2 * i) = true ∧ w.strb.getLsbD (2 * i + 1) = true ∧ p.part = false) ∨
     (w.strb.getLsbD (2 * i) ≠ w.strb.getLsbD (2 * i + 1) ∧ p.part = true)) := by
  rw [captureSamples, List.mem_filterMap]
  constructor
  · rintro ⟨i, hi, hp⟩
    refine ⟨i, List.mem_range.1 hi, ?_⟩
    split at hp
    · obtain ⟨h0, h1⟩ := bothStrobed_iff.1 ‹_›
      cases hp
      exact ⟨rfl, rfl, .inl ⟨h0, h1, rfl⟩⟩
    · rename_i hboth
      split at hp
      · rename_i hsome
        cases hp
        refine ⟨rfl, rfl, .inr ⟨fun heq => hboth (bothStrobed_iff.2 ?_), rfl⟩⟩
        rw [someStrobed, heq, Bool.or_self] at hsome
        exact ⟨heq.trans hsome, hsome⟩
      · cases hp
  · rintro ⟨i, hi, hidx, hraw, hstrb⟩
    refine ⟨i, List.mem_range.2 hi, ?_⟩
    cases p with
    | mk part idx raw =>
      cases hidx
      cases hraw
      rcases hstrb with ⟨h0, h1, hpart⟩ | ⟨hne, hpart⟩ <;> cases hpart
      · exact if_pos (bothStrobed_iff.2 ⟨h0, h1⟩)
      · refine (if_neg fun h => hne ?_).trans (if_pos ?_)
        · obtain ⟨h0, h1⟩ := bothStrobed_iff.1 h
          rw [h0, h1]
        · rw [someStrobed]
          revert hne
          cases w.strb.getLsbD (2 * i) <;> cases w.strb.getLsbD (2 * i + 1) <;> simp

theorem captureSamples_ascending (off : Nat) (w : WData) : (captureSamples off w).Pairwise fun x y => x.idx < y.idx := by
  refine pairwise_containers Sample.idx (off / 2) 8 fun i x hx => ?_
  split at hx
  · exact congrArg Sample.idx (Option.some.inj hx).symm
  · split at hx
    · exact congrArg Sample.idx (Option.some.inj hx).symm
    · cases hx

/-! ### The active slot -/

theorem activeSlot_none_of {s : State} (h : ∀ k, (vget s.slots k).state ≠ .active) : activeSlot s = none := by
  cases ha : activeSlot s with
  | none => rfl
  | some k => exact absurd (activeSlot_active ha) (h k)

theorem activeSlot_unique {s : State} {k : Fin 4} (h : (vget s.slots k).state = .active)
    (honly : ∀ m, (vget s.slots m).state = .active → m = k) : activeSlot s = some k := by
  obtain ⟨m, hm⟩ := Option.isSome_iff_exists.1 ((activeSlot_isSome_iff s).2 ⟨k, h⟩)
  rw [hm, honly m (activeSlot_active hm)]

theorem idleTeeAndEnd {s : State} (h : ∀ k, (vget s.slots k).state ≠ .active) : teeOn s = false ∧ noEndDue s = true := by
  have hnone := activeSlot_none_of h
  exact ⟨by rw [teeOn, hnone], by rw [noEndDue, hnone]⟩

theorem activeTeeAndEnd {s : State} {k : Fin 4} (h : (vget s.slots k).state = .active)
    (honly : ∀ m, (vget s.slots m).state = .active → m = k) : (noEndDue s = true ↔ (vget s.slots k).endDue = none) ∧
      ∀ j, (vget s.slots k).job = some j → (teeOn s = true ↔ j.tee = 1) := by
  have hk := activeSlot_unique h honly
  refine ⟨?_, fun j hj => ?_⟩
  · rw [noEndDue, hk]
    exact Option.isNone_iff_eq_none
  · rw [teeOn, hk]
    dsimp only
    rw [hj]
    exact decide_eq_true_iff

/-! ### What becomes of a write -/

/-- The S-port write `w` is replaced by `x`, its M-port write requested where it asks. -/
def putAsked (w x : SWrite) (asks : Bool) (u : State) : State := { u with
  wmu := { u.wmu with writes := u.wmu.writes.map fun v => if v.no = w.no then x else v }
  mpa := if asks then { u.mpa with sys := u.mpa.sys ++ [sysRequest w u.serial] } else u.mpa
  serial := if asks then u.serial + 1 else u.serial }

theorem putSWrite_putAsked (w x : SWrite) (u : State) : putSWrite w.no x u = putAsked w x false u := by
  rw [putSWrite_eq]
  rfl

theorem putSWrite_requestSys (w x : SWrite) (u : State) : putSWrite w.no x (requestSys w u) = putAsked w x true u := by
  rw [putSWrite_eq]
  rfl

theorem forwardBeat_putAsked (w : SWrite) (d : WData) (pass : Bool) (u : State) :
    forwardBeat w d pass u = putAsked w (forwardedWrite w d pass) (!w.mReq) u := by
  cases h : w.mReq
  · rw [forwardBeat_first h, putSWrite_requestSys]
    rfl
  · rw [forwardBeat_again h, putSWrite_putAsked]
    rfl

/-- What becomes of a write whose M-port write is no capture window's. -/
theorem putAsked_sys {w : SWrite} (hp : ∀ base, w.path ≠ .capture base) (x : SWrite) (asks : Bool) (u : State) :
    putAsked w x asks u = { u with
      wmu := { u.wmu with writes := u.wmu.writes.map fun v => if v.no = w.no then x else v }
      mpa := if asks then { u.mpa with sys := u.mpa.sys ++
        [⟨u.serial, .sysWrite w.no, .sys, true, w.hdr.addr.toNat, w.hdr.beats * w.hdr.bytes, []⟩] } else u.mpa
      serial := if asks then u.serial + 1 else u.serial } := by
  rw [putAsked, sysRequest_of_sys hp]

theorem sysRequest_of_capture {w : SWrite} {base : Nat} (h : w.path = .capture base) (n : Nat) :
    sysRequest w n = ⟨n, .capWrite w.no, .sys, true, w.hdr.addr.toNat, w.hdr.beats * w.hdr.bytes, []⟩ := by
  rw [sysRequest, sysKind, h]

theorem sWrite?_putAsked {s : State} {w x : SWrite} (h : sWrite? w.no s = some w) (hno : x.no = w.no) (asks : Bool) :
    sWrite? w.no (putAsked w x asks s) = some x := by
  have hstep : ∀ l : List SWrite, l.find? (fun v => v.no == w.no) = some w →
      (l.map fun v => if v.no = w.no then x else v).find? (fun v => v.no == w.no) = some x := by
    intro l
    induction l with
    | nil => nofun
    | cons v l ih =>
      intro hl
      rw [List.find?_cons] at hl
      rw [List.map_cons, List.find?_cons]
      by_cases hv : v.no = w.no
      · rw [if_pos hv, hno, beq_self_eq_true]
      · rw [if_neg hv, beq_eq_false_iff_ne.2 hv] at *
        exact ih hl
  exact hstep _ h

theorem putSWrite_again (w x y : SWrite) (hno : x.no = w.no) (asks : Bool) (u : State) :
    putSWrite w.no y (putAsked w x asks u) = putAsked w y asks u := by
  rw [putSWrite_eq, putAsked, putAsked]
  have hmap : (u.wmu.writes.map fun v => if v.no = w.no then x else v).map (fun v => if v.no = w.no then y else v) =
      u.wmu.writes.map fun v => if v.no = w.no then y else v := by
    rw [List.map_map]
    refine List.map_congr_left fun v _ => ?_
    dsimp only [Function.comp]
    by_cases hv : v.no = w.no
    · simp only [hv, hno, if_true]
    · simp only [hv, if_false]
  simp only [State.setWmu, hmap]

/-- A write after its last beat, answered OKAY where all its beats were captured (R158). -/
def answeredWhole (x : SWrite) : SWrite := if x.full = true ∧ x.passed = false then { x with answer := some .okay } else x

theorem answerCaptured_putAsked {s : State} {w x : SWrite} (h : sWrite? w.no s = some w) (hno : x.no = w.no) (asks : Bool) :
    answerCaptured w.no (putAsked w x asks s) = putAsked w (answeredWhole x) asks s := by
  unfold answerCaptured answeredWhole
  rw [sWrite?_putAsked h hno]
  dsimp only
  split
  · exact putSWrite_again w x _ hno asks s
  · rfl

/-- A captured beat's write (R158). -/
def capturedWrite (w : SWrite) (d : WData) (tee : Bool) : SWrite :=
  answeredWhole (if tee then forwardedWrite w d false else { w with data := w.data ++ [{ d with strb := 0 }] })

theorem takeCapture_captured {s : State} {w : SWrite} (hw : sWrite? w.no s = some w) (hc : capturing s = true) (base : Nat) (b : WBeat) :
    takeCapture w base b s = putAsked w (capturedWrite w b.w (teeOn s)) (teeOn s && !w.mReq)
      (enqueuePixels (captureSamples (b.hdr.beatPos b.beat - base) b.w) s) := by
  unfold takeCapture capturedWrite
  rw [if_pos hc]
  dsimp only
  have htee : ∀ ps, teeOn (enqueuePixels ps s) = teeOn s := fun _ => rfl
  rw [htee]
  cases teeOn s
  · rw [if_neg Bool.false_ne_true, if_neg Bool.false_ne_true, swallowBeat, putSWrite_putAsked]
    exact answerCaptured_putAsked (s := enqueuePixels _ s) hw (by rfl) false
  · rw [if_pos rfl, if_pos rfl, forwardBeat_putAsked]
    exact answerCaptured_putAsked (s := enqueuePixels _ s) hw (by rfl) _

theorem takeCapture_passed {s : State} {w : SWrite} (hc : capturing s = false) (base : Nat) (b : WBeat) :
    takeCapture w base b s = putAsked w (forwardedWrite w b.w true) (!w.mReq) s := by
  unfold takeCapture
  rw [if_neg (by rw [hc]; exact Bool.false_ne_true), forwardBeat_putAsked]

theorem capturedWrite_eq (w : SWrite) (d : WData) (tee : Bool) : capturedWrite w d tee = { w with
    data := w.data ++ [if tee then d else { d with strb := 0 }]
    mReq := w.mReq || tee
    mLock := if tee = true ∧ w.mReq = false then false else w.mLock
    answer := if w.hdr.beats ≤ w.data.length + 1 ∧ w.passed = false then some .okay else w.answer } := by
  unfold capturedWrite answeredWhole
  cases tee <;> cases hreq : w.mReq <;> by_cases h : w.hdr.beats ≤ w.data.length + 1 ∧ w.passed = false <;>
    simp [SWrite.full, forwardedWrite, hreq, h]

/-! ### The hold (R33) -/

theorem captureRoom_iff (s : State) (n : Nat) : captureRoom n s = true ↔
    s.mge.pixels.length + n ≤ 256 ∧ s.rpu.queue.length ≤ 6 ∧ noEndDue s = true := by
  rw [captureRoom, Bool.and_eq_true, Bool.and_eq_true, decide_eq_true_eq, decide_eq_true_eq, State.free, and_assoc]
  change _ ≤ 256 ∧ 2 ≤ 8 - _ ∧ _ ↔ _
  refine and_congr_right fun _ => and_congr_left fun _ => ?_
  omega

theorem positions?_beat {no : Nat} {b : WBeat} {s : State} {w : SWrite} {base : Nat} (hw : sWrite? no s = some w)
    (hp : w.path = .capture base) : positions? (.beat no b) s = some (captureSamples (b.hdr.beatPos b.beat - base) b.w).length := by
  unfold positions?
  dsimp only
  rw [hw]
  dsimp only
  rw [hp]
  rfl

theorem mustHold_beat {no : Nat} {b : WBeat} {s : State} {w : SWrite} {base : Nat} (hw : sWrite? no s = some w)
    (hp : w.path = .capture base) : mustHold (.beat no b) s = true ↔ capturing s = true ∧
      ¬ (s.mge.pixels.length + (captureSamples (b.hdr.beatPos b.beat - base) b.w).length ≤ 256 ∧
        s.rpu.queue.length ≤ 6 ∧ noEndDue s = true) := by
  rw [mustHold, positions?_beat hw hp, ← captureRoom_iff, Bool.and_eq_true, Bool.not_eq_true', Bool.not_eq_true]

/-- An item is held exactly when it is a beat of a CAPTURE window taken for capture that lacks room (R33). -/
theorem mustHold_iff (it : HeldItem) (s : State) : mustHold it s = true ↔ ∃ no b w base, it = .beat no b ∧
    sWrite? no s = some w ∧ w.path = .capture base ∧ capturing s = true ∧
    ¬ (s.mge.pixels.length + (captureSamples (b.hdr.beatPos b.beat - base) b.w).length ≤ 256 ∧
      s.rpu.queue.length ≤ 6 ∧ noEndDue s = true) := by
  constructor
  · intro h
    have hpos : ∃ n, positions? it s = some n := by
      cases hp : positions? it s with
      | some n => exact ⟨n, rfl⟩
      | none => rw [mustHold_of_none hp] at h; cases h
    obtain ⟨n, hpos⟩ := hpos
    unfold positions? at hpos
    split at hpos
    · rename_i no b
      split at hpos
      · rename_i w hw
        split at hpos
        · rename_i base hp
          exact ⟨no, b, w, base, rfl, hw, hp, (mustHold_beat hw hp).1 h⟩
        · cases hpos
      · cases hpos
    · cases hpos
  · rintro ⟨no, b, w, base, rfl, hw, hp, h⟩
    exact (mustHold_beat hw hp).2 h

end Sys2Proof.Machine
end

section
/-! SUPPORT. The rows of CAPTURE window beats, and what waits behind a hold (R33, R150, R158). -/
namespace Sys2Proof.Machine
set_option Elab.async false

/-! ### What waits behind a hold becomes (R33, R150) -/

theorem takeItem_page {no : Nat} {b : WBeat} {s : State} {w : SWrite} (hw : sWrite? no s = some w) (hp : w.path = .page) :
    takeItem (.beat no b) s = handBytes (strobedBytes (b.hdr.beatPos b.beat - pageBase s) b.w)
      (putAsked w (forwardedWrite w b.w false) (!w.mReq) (dueTakes s)) := by
  rw [takeItem_beat hw, takeBeat, hp]
  dsimp only
  rw [takePage, forwardBeat_putAsked]

theorem takeItem_monitorPassed {no : Nat} {b : WBeat} {s : State} {w : SWrite} {i : Fin 16} (hw : sWrite? no s = some w)
    (hp : w.path = .monitor i) (hl : ¬ lookedAt s = true) :
    takeItem (.beat no b) s = putAsked w (forwardedWrite w b.w true) (!w.mReq) s := by
  rw [takeItem_beat hw, takeBeat, hp]
  dsimp only
  rw [takeMonitor, if_neg hl, forwardBeat_putAsked]

theorem takeItem_monitorLooked {no : Nat} {b : WBeat} {s : State} {w : SWrite} {i : Fin 16} (hw : sWrite? no s = some w)
    (hp : w.path = .monitor i) (hl : lookedAt s = true) :
    takeItem (.beat no b) s = lookAt i b (putAsked w (forwardedWrite w b.w false) (!w.mReq) s) := by
  rw [takeItem_beat hw, takeBeat, hp]
  dsimp only
  rw [takeMonitor, if_pos hl, forwardBeat_putAsked]

theorem lookAt_monitor {i : Fin 16} {b : WBeat} {u : State} {W H R E base size : Nat}
    (h : vget u.wmu.windows i = some ⟨.monitor W H R E, base, size⟩) : lookAt i b u =
      monitorAll i W H R E (monitorSamples (b.hdr.beatPos b.beat - base) b.w) u := by
  rw [lookAt, h]

theorem lookAt_other {i : Fin 16} {b : WBeat} {u : State}
    (h : ∀ W H R E base size, vget u.wmu.windows i ≠ some ⟨.monitor W H R E, base, size⟩) : lookAt i b u = u := by
  unfold lookAt
  split
  · exact absurd ‹_› (h _ _ _ _ _ _)
  · rfl

theorem takeItem_whole {no : Nat} {s : State} {w : SWrite} (hw : sWrite? no s = some w) (ds : List WData) :
    takeItem (.whole no ds) s = putAsked w { w with data := ds, mReq := true, mLock := w.hdr.lock, passed := true } true s := by
  rw [takeItem, hw]
  exact putSWrite_requestSys ..

theorem takeItem_illegal {no : Nat} {s : State} {w : SWrite} (hw : sWrite? no s = some w) :
    takeItem (.illegal no) s = putAsked w { w with answer := some (partError w.no) } false s := by
  rw [takeItem, hw]
  exact putSWrite_putAsked ..

theorem takeItem_gone {no : Nat} {s : State} (hw : sWrite? no s = none) (b : WBeat) (ds : List WData) :
    takeItem (.beat no b) s = s ∧ takeItem (.whole no ds) s = s ∧ takeItem (.illegal no) s = s :=
  ⟨by rw [takeItem, hw], by rw [takeItem, hw], by rw [takeItem, hw]⟩

/-! ### A captured beat's write after its take -/

theorem capture_find {no : Nat} {s : State} {w : SWrite} (hw : sWrite? no s = some w) : sWrite? w.no s = some w := by
  rw [sWrite?_no hw]
  exact hw

theorem putAsked_mem {s : State} {w : SWrite} (hw : sWrite? w.no s = some w) (x : SWrite) (asks : Bool) :
    x ∈ (putAsked w x asks s).wmu.writes :=
  List.mem_map.2 ⟨w, List.mem_of_find?_eq_some hw, if_pos rfl⟩

/-- The whole write of captured beats that is alone of its identifier is answered OKAY (R32, R158). -/
theorem putAsked_answers {s : State} {w x : SWrite} {r : Resp} (hw : sWrite? w.no s = some w) (asks : Bool)
    (halone : ∀ v ∈ s.wmu.writes, v.hdr.id = w.hdr.id → v.no = w.no) (hhdr : x.hdr = w.hdr) (hno : x.no = w.no)
    (hsent : x.sent = false) (hanswer : x.answer = some r) :
    SOut.writeResp w.hdr.id w.no r ∈ (releaseWrites (setHeld [] (putAsked w x asks s))).wmu.out := by
  obtain ⟨-, pre, post, hws, hpre⟩ := List.find?_eq_some_iff_append.1 hw
  have hwrites : (setHeld [] (putAsked w x asks s)).wmu.writes =
      pre.map (fun v => if v.no = w.no then x else v) ++ x :: post.map fun v => if v.no = w.no then x else v := by
    change s.wmu.writes.map _ = _
    rw [hws, List.map_append, List.map_cons, if_pos rfl]
  have hfirst := releaseWrites_answers hwrites (fun v hv hid => ?_) hsent hanswer
  · rwa [hhdr, hno] at hfirst
  · obtain ⟨y, hy, rfl⟩ := List.mem_map.1 hv
    have hyno : y.no ≠ w.no := by simpa using hpre y hy
    rw [if_neg hyno, hhdr] at hid
    exact absurd (halone y (hws ▸ List.mem_append_left _ hy) hid) hyno

/-! ### The rows -/

/-- The take of a beat of a CAPTURE window (R32, R158). -/
theorem takeBeat_capture {b : WBeat} {s : State} {no base : Nat} {w : SWrite} (hw : sWrite? no s = some w)
    (hp : w.path = .capture base) : takeBeat w b s = if capturing s = true then
      putAsked w (capturedWrite w b.w (teeOn s)) (teeOn s && !w.mReq)
        (enqueuePixels (captureSamples (b.hdr.beatPos b.beat - base) b.w) s)
    else putAsked w (forwardedWrite w b.w true) (!w.mReq) s := by
  rw [takeBeat, hp]
  dsimp only
  split
  · exact takeCapture_captured (capture_find hw) ‹_› base b
  · exact takeCapture_passed (eq_false_of_ne_true ‹_›) base b

theorem frame_takeBeat_capture {b : WBeat} {s : State} {base : Nat} {w : SWrite} (hp : w.path = .capture base) :
    Frame [.mge, .wmu, .mpa, .serial] s (takeBeat w b s) := by
  rw [takeBeat, hp]
  exact frame_takeCapture

/-- A beat presented of a CAPTURE window with nothing held: it is held where it is taken for capture and lacks room. -/
theorem captureStep_stalls {b : WBeat} {s s' : State} {no : Nat}
    (hpres : present b WritePath.isCapture s = some (no, s')) (hheld : s.wmu.held = []) (hm : mustHold (.beat no b) s' = true) :
    beatStep b WritePath.isCapture s = releaseWrites (stall [.beat no b] s') := by
  rw [beatStep_of hpres, offer_stalled ((present_held hpres).trans hheld) hm]

theorem captureStep_takes {b : WBeat} {s s' : State} {no : Nat} {w : SWrite}
    (hpres : present b WritePath.isCapture s = some (no, s')) (hw : sWrite? no s' = some w)
    (hheld : s.wmu.held = []) (hm : mustHold (.beat no b) s' = false) :
    beatStep b WritePath.isCapture s = releaseWrites (setHeld [] (takeBeat w b s')) := by
  rw [beatStep_of hpres, offer_taken ((present_held hpres).trans hheld) hm, takeItem_beat hw]

end Sys2Proof.Machine
end

section
/-! SUPPORT. A CAPTURE window beat is taken, held or passed (R32, R33, R150, R158). -/
namespace Sys2Proof.Machine
set_option Elab.async false

/-- What waits on the write data channel becomes at its turn what it becomes with nothing held. -/
theorem takeItem_rows (s : State) (no : Nat) (w : SWrite) (hw : sWrite? no s = some w) :
    let became (x : SWrite) (asks : Bool) (u : State) : State := { u with
      wmu := { u.wmu with writes := u.wmu.writes.map fun v => if v.no = no then x else v }
      mpa := if asks then { u.mpa with sys := u.mpa.sys ++
        [⟨u.serial, .sysWrite no, .sys, true, w.hdr.addr.toNat, w.hdr.beats * w.hdr.bytes, []⟩] } else u.mpa
      serial := if asks then u.serial + 1 else u.serial }
    let sent (b : WBeat) (lock passed : Bool) (u : State) : State := became { w with
      data := w.data ++ [b.w], mReq := true, mLock := if w.mReq then w.mLock else lock, passed := passed } (!w.mReq) u
    let looked := s.device = .run ∧ s.wmu.mode = .active
    (∀ b, takeItem (.beat no b) s = takeBeat w b s) ∧
    (w.path = .page → ∀ b, takeItem (.beat no b) s =
      handBytes (strobedBytes (b.hdr.beatPos b.beat - pageBase s) b.w) (sent b false w.passed (dueTakes s))) ∧
    (∀ i b, w.path = .monitor i → ¬ looked → takeItem (.beat no b) s = sent b w.hdr.lock true s) ∧
    (∀ i b, w.path = .monitor i → looked → (∀ W H R E base size,
      vget s.wmu.windows i = some ⟨.monitor W H R E, base, size⟩ → takeItem (.beat no b) s =
        monitorAll i W H R E (monitorSamples (b.hdr.beatPos b.beat - base) b.w) (sent b false w.passed s)) ∧
      ((∀ W H R E base size, vget s.wmu.windows i ≠ some ⟨.monitor W H R E, base, size⟩) →
        takeItem (.beat no b) s = sent b false w.passed s)) ∧
    (w.path = .pass → ∀ ds, takeItem (.whole no ds) s =
      became { w with data := ds, mReq := true, mLock := w.hdr.lock, passed := true } true s) ∧
    (∃ e, respErr e = true ∧ takeItem (.illegal no) s = became { w with answer := some e } false s) := by
  intro became sent looked
  obtain rfl : w.no = no := sWrite?_no hw
  have hbecame : (∀ base, w.path ≠ .capture base) → ∀ x asks u, putAsked w x asks u = became x asks u := fun hp x asks u =>
    putAsked_sys hp x asks u
  have hkept : (∀ base, w.path ≠ .capture base) → ∀ (b : WBeat) u,
      putAsked w (forwardedWrite w b.w false) (!w.mReq) u = sent b false w.passed u := fun hp b u => by
    rw [forwardedWrite_keep]
    exact hbecame hp _ _ _
  have hpassed : (∀ base, w.path ≠ .capture base) → ∀ (b : WBeat) u,
      putAsked w (forwardedWrite w b.w true) (!w.mReq) u = sent b w.hdr.lock true u := fun hp b u => by
    rw [forwardedWrite_pass]
    exact hbecame hp _ _ _
  refine ⟨fun b => takeItem_beat hw, fun hp b => ?page, fun i b hp hl => ?plain, fun i b hp hl => ?looked, fun hp ds => ?whole,
    partError w.no, partError_err _, takeItem_illegal hw⟩
  case page => rw [takeItem_page hw hp, hkept (by rw [hp]; nofun)]
  case plain => rw [takeItem_monitorPassed hw hp (by rw [lookedAt_iff]; exact hl), hpassed (by rw [hp]; nofun)]
  case looked =>
    rw [takeItem_monitorLooked hw hp ((lookedAt_iff s).2 hl), hkept (by rw [hp]; nofun)]
    exact ⟨fun W H R E base size hwin => lookAt_monitor (u := sent b false w.passed s) hwin,
      fun hnone => lookAt_other (u := sent b false w.passed s) hnone⟩
  case whole => rw [takeItem_whole hw, hbecame (by rw [hp]; nofun)]

/-- Settles O35: the samples by their containers, the takes by the write's path, and the hold by the room. -/
theorem captureBeatTakenHeldOrPassed : Obligations.CaptureBeatTakenHeldOrPassed := by
  refine ⟨fun off w p => mem_captureSamples, captureSamples_ascending,
    fun s => ⟨capturing_iff s, idleTeeAndEnd, fun k hk honly => activeTeeAndEnd hk honly⟩,
    fun s no => ⟨fun off v => rfl, fun hnone b ds => takeItem_gone hnone b ds, takeItem_rows s no⟩, ?take, ?presented, ?held, ?drain⟩
  case take =>
    intro b s no base w hw hp asked written became
    obtain rfl : w.no = no := sWrite?_no hw
    refine ⟨fun hc => ?_, fun hc => ?_⟩
    · have hstep := takeBeat_capture (b := b) hw hp
      rw [if_pos hc, capturedWrite_eq, putAsked, sysRequest_of_capture hp] at hstep
      simp only [Bool.and_eq_true, Bool.not_eq_true'] at hstep
      exact hstep
    · have hstep := takeBeat_capture (b := b) hw hp
      rw [if_neg (by rw [hc]; exact Bool.false_ne_true), forwardedWrite_pass, putAsked, sysRequest_of_capture hp] at hstep
      rw [hstep]
      cases hreq : w.mReq <;> simp [hreq, became, written, asked]
  case presented =>
    intro b s s' no base w hpres hw hp ps room asked only
    have hframe : Frame [.serial, .wmu] s s' := frame_present hpres
    have hwmu := present_wmu hpres
    have hcap : capturing s' = capturing s := by rw [capturing, capturing, activeSlot, activeSlot, hframe.slots, hwmu]
    have htee : teeOn s' = teeOn s := by rw [teeOn, teeOn, activeSlot, activeSlot, hframe.slots]
    have hend : noEndDue s' = noEndDue s := by rw [noEndDue, noEndDue, activeSlot, activeSlot, hframe.slots]
    have hmust : mustHold (.beat no b) s' = true ↔ capturing s = true ∧ ¬ room := by
      rw [mustHold_beat hw hp, hcap, hend, hframe.mge, hframe.rpu]
    refine ⟨hwmu, fun hheld => ⟨_, rfl, beatStep_waits hpres hheld⟩, fun hheld hc hroom => ?stalled, fun hheld hc hroom => ?taken,
      fun hheld hc => ?passed⟩
    case stalled =>
      refine ⟨_, congrArg Host.Outcome.next (captureStep_stalls hpres hheld (hmust.2 ⟨hc, hroom⟩)), rfl, ?_,
        hframe.seq (frame_stall.trans frame_releaseWrites)⟩
      rw [← hframe.rpu]
      rfl
    case taken =>
      have hno : mustHold (.beat no b) s' = false := eq_false_of_ne_true fun h => (hmust.1 h).2 hroom
      have hstep := captureStep_takes hpres hw hheld hno
      have hall : Frame [.mge, .wmu, .mpa, .serial] s (beatStep b WritePath.isCapture s) := by
        rw [hstep]
        exact hframe.seq ((frame_takeBeat_capture hp).trans (frame_setHeld.trans frame_releaseWrites))
      rw [takeBeat_capture hw hp, hcap, if_pos hc, htee] at hstep
      rw [hstep] at hall
      obtain rfl : w.no = no := sWrite?_no hw
      have hx := capturedWrite_eq w b.w (teeOn s)
      have hmem := putAsked_mem (s := enqueuePixels ps s') hw (capturedWrite w b.w (teeOn s)) (teeOn s && !w.mReq)
      refine ⟨_, congrArg Host.Outcome.next hstep, rfl, ?_, fun hno => ?_, fun ht hreq => ?_, fun hun hdone hgo => ?_,
        fun hun hpas hlast halone => ?_, hall⟩
      · rw [← hframe.mge]
        rfl
      · refine Eq.trans (if_neg ?_) hframe.mpa
        rcases hno with h | h <;> rw [h] <;> simp
      · refine Eq.trans (if_pos (by rw [ht, hreq]; rfl)) ?_
        rw [sysRequest_of_capture hp, ← hframe.mpa]
        rfl
      · have hsame : ∀ v, v = capturedWrite w b.w (teeOn s) ∨ v = { capturedWrite w b.w (teeOn s) with sent := true } →
            v.no = w.no ∧ v.hdr = w.hdr ∧ v.passed = w.passed ∧ v.mReq = (w.mReq || teeOn s) ∧
              v.data = w.data ++ [if teeOn s then b.w else { b.w with strb := 0 }] := by
          rw [hx]
          rintro v (rfl | rfl) <;> exact ⟨rfl, rfl, rfl, rfl, rfl⟩
        by_cases hreq : (w.mReq || teeOn s) = true
        · have hxreq : (capturedWrite w b.w (teeOn s)).mReq = true := by rw [hx]; exact hreq
          have hxdone : (capturedWrite w b.w (teeOn s)).mDone = none := by rw [hx]; exact hdone
          rcases releaseWrites_awaited (s := setHeld [] (putAsked w _ _ (enqueuePixels ps s'))) hmem hxreq hxdone with hv | hv
          · exact ⟨_, hv, hsame _ (.inl rfl)⟩
          · exact ⟨_, hv, hsame _ (.inr rfl)⟩
        · have hmore : w.data.length + 1 < w.hdr.beats := hgo.resolve_right fun h => hreq (by
            rcases h with h | h <;> rw [h] <;> simp)
          have hxun : (capturedWrite w b.w (teeOn s)).Unanswered := by
            rw [hx]
            exact ⟨(if_neg fun h => Nat.not_le.2 hmore h.1).trans hun.1, hun.2⟩
          exact ⟨_, releaseWrites_unanswered (s := setHeld [] (putAsked w _ _ (enqueuePixels ps s'))) hmem hxun, hsame _ (.inl rfl)⟩
      · exact putAsked_answers (s := enqueuePixels ps s') hw _ halone (by rw [hx]) (by rw [hx]) (by rw [hx]; exact hun.2)
          (by rw [hx]; exact if_pos ⟨Nat.le_of_eq hlast.symm, hpas⟩)
    case passed =>
      have hno : mustHold (.beat no b) s' = false := eq_false_of_ne_true fun h => by
        rw [(hmust.1 h).1] at hc
        cases hc
      have hstep := captureStep_takes hpres hw hheld hno
      rw [takeBeat_capture hw hp, hcap, if_neg (by rw [hc]; exact Bool.false_ne_true), ← forwardBeat_putAsked] at hstep
      refine ⟨_, congrArg Host.Outcome.next hstep, ?_, fun hreq => ?_, fun hreq => ?_, fun hun =>
        ⟨forwardedWrite w b.w true, releaseWrites_unanswered (forwardedWrite_mem hw b.w true) hun, sWrite?_no (w := w) hw, rfl, rfl, rfl,
          by rw [forwardedWrite_pass], hun.1⟩, hframe.seq (frame_forwardBeat.trans (frame_setHeld.trans frame_releaseWrites))⟩
      · change (releaseWrites (setHeld [] (forwardBeat w b.w true s'))).wmu = _
        rw [releaseWrites_wmu, setHeld, State.setWmu_wmu, forwardBeat_wmu]
        rfl
      · refine (forwardBeat_mpa_first hreq b.w true s').trans ?_
        rw [sysRequest_of_capture hp, sWrite?_no hw, hframe.mpa]
      · exact (forwardBeat_mpa_again hreq b.w true s').trans hframe.mpa
  case held =>
    intro s no base b rest w hheld hw hp ps room
    have hcleared : holdCleared s = captureRoom ps.length s := by
      rw [holdCleared, hheld]
      dsimp only
      rw [positions?_beat hw hp]
    have hrun : exec .heldCaptureBeatTaken s = if holdCleared s then
        .next (releaseWrites (drain rest (takeItem (.beat no b) s))) else .next s := by
      change execHeldCaptureBeatTaken s = _
      unfold execHeldCaptureBeatTaken
      rw [hheld]
    rw [hrun, hcleared, takeItem_beat hw]
    refine ⟨fun hroom => if_neg fun h => hroom ((captureRoom_iff s _).1 h), fun hroom =>
      ⟨_, rfl, if_pos ((captureRoom_iff s _).2 hroom), fun hc => ?_, fun hc => ?_, frame_takeBeat_capture hp, ?_⟩⟩
    · rw [takeBeat_capture hw hp, if_pos hc]
      rfl
    · rw [takeBeat_capture hw hp, if_neg (by rw [hc]; exact Bool.false_ne_true)]
      rfl
    · rintro rfl
      rfl
  case drain =>
    intro it rest s u full
    refine ⟨fun h => ?_, fun h => ?_⟩
    · exact if_pos ((mustHold_iff it u).2 h)
    · exact if_neg fun hm => h ((mustHold_iff it u).1 hm)

end Sys2Proof.Machine
end

section
/-! SUPPORT. The cell reads of a rendered read, one after another at the cell port (R4, R110), and the bytes of a rendered beat (R109). -/
namespace Sys2Proof.Machine
set_option Elab.async false

/-! ### Accesses that join the port one after another (R4) -/

/-- Where an access lies and whether it is a merge: what those behind it look at. -/
def CellAcc.shape (a : CellAcc) : Bool × Nat × Nat := (a.isMerge, a.addr, a.len)

theorem goersFrom_append (es as bs : List CellAcc) : goersFrom es (as ++ bs) = goersFrom es as ++ goersFrom (es ++ as) bs := by
  induction as generalizing es with
  | nil => rw [List.append_nil]; rfl
  | cons a as ih =>
    rw [List.cons_append, goersFrom, goersFrom, ih, List.append_assoc, List.append_assoc]
    rfl

theorem portFrom_append (es as bs : List CellAcc) : portFrom es (as ++ bs) = portFrom es as ++ portFrom (es ++ as) bs := by
  induction as generalizing es with
  | nil => rw [List.append_nil]; rfl
  | cons a as ih =>
    rw [List.cons_append, portFrom, portFrom, ih, List.append_assoc]
    rfl

theorem portFrom_shape (es as : List CellAcc) : (portFrom es as).map CellAcc.shape = as.map CellAcc.shape := by
  induction as generalizing es with
  | nil => rfl
  | cons a as ih =>
    rw [portFrom, List.map_cons, List.map_cons, ih]
    split <;> rfl

theorem shape_append {es ds : List CellAcc} (h : es.map CellAcc.shape = ds.map CellAcc.shape) (a b : CellAcc)
    (hab : a.shape = b.shape) : (es ++ [a]).map CellAcc.shape = (ds ++ [b]).map CellAcc.shape := by
  rw [List.map_append, List.map_append, h, List.map_singleton, List.map_singleton, hab]

theorem goersFrom_congr {es ds : List CellAcc} (as : List CellAcc) (h : es.map CellAcc.shape = ds.map CellAcc.shape) :
    goersFrom es as = goersFrom ds as := by
  induction as generalizing es ds with
  | nil => rfl
  | cons a as ih => rw [goersFrom, goersFrom, mayGo_congr a h, ih (shape_append h a a rfl)]

theorem portFrom_congr {es ds : List CellAcc} (as : List CellAcc) (h : es.map CellAcc.shape = ds.map CellAcc.shape) :
    portFrom es as = portFrom ds as := by
  induction as generalizing es ds with
  | nil => rfl
  | cons a as ih => rw [portFrom, portFrom, mayGo_congr a h, ih (shape_append h a a rfl)]

/-- Once those that may go have come to their reads, nothing more may go. -/
theorem goersFrom_portFrom {es ds : List CellAcc} (as : List CellAcc) (h : es.map CellAcc.shape = ds.map CellAcc.shape) :
    goersFrom ds (portFrom es as) = [] := by
  induction as generalizing es ds with
  | nil => rfl
  | cons a as ih =>
    rw [portFrom, goersFrom]
    by_cases hg : a.mayGo es = true
    · rw [if_pos hg, ih (shape_append h a { a with stage := .reading } rfl)]
      refine congrArg (· ++ []) (if_neg fun hgo => ?_)
      have hwaits := (mayGo_iff.1 hgo).1
      cases hwaits
    · rw [if_neg hg, ih (shape_append h a a rfl), if_neg (by rw [← mayGo_congr a h]; exact hg)]
      rfl

theorem portOn_again (p q : List CellAcc) : portOn (portOn p ++ q) = portOn (p ++ q) := by
  have hstay : portFrom [] (portFrom [] p) = portFrom [] p := portFrom_of_none _ _ (goersFrom_portFrom p rfl)
  change portFrom [] (portFrom [] p ++ q) = portFrom [] (p ++ q)
  rw [portFrom_append, portFrom_append, hstay]
  exact congrArg (portFrom [] p ++ ·) (portFrom_congr q (portFrom_shape [] p))

theorem goers_again (p q : List CellAcc) : goersFrom [] p ++ goersFrom [] (portOn p ++ q) = goersFrom [] (p ++ q) := by
  rw [goersFrom_append [] (portOn p), portOn, goersFrom_portFrom p rfl, List.nil_append, goersFrom_append]
  exact congrArg (goersFrom [] p ++ ·) (goersFrom_congr q (portFrom_shape [] p))

/-- A request without its number. -/
def MTxn.unnumbered (x : MTxn) : MTxn := { x with id := 0 }

theorem readsOf_unnumbered (n : Nat) (p : List CellAcc) : (readsOf n p).map MTxn.unnumbered =
    (goersFrom [] p).map fun a => ⟨0, .cellRead a.no, .cell, false, a.addr, a.len, []⟩ := by
  refine List.ext_getElem (by simp [readsOf]) fun i _ _ => ?_
  simp [readsOf, MTxn.unnumbered]

/-- Accesses of these uses, addresses and lengths have joined the port in this order, and every read that may go has been
requested; with none of them nothing has changed (R4). -/
def Joined (items : List (CellUse × Nat × Nat)) (s u : State) : Prop :=
  ∃ (new : List CellAcc) (rs : List MTxn),
    new.map (fun a => (a.use, a.addr, a.len, a.stage)) = items.map (fun x => (x.1, x.2.1, x.2.2, .waiting)) ∧
    (new = [] → u.mge.port = s.mge.port ∧ u.mpa = s.mpa) ∧
    (new ≠ [] → u.mge.port = portOn (s.mge.port ++ new) ∧ u.mpa = { s.mpa with cell := s.mpa.cell ++ rs } ∧
      rs.map MTxn.unnumbered = (readsOf 0 (s.mge.port ++ new)).map MTxn.unnumbered)

theorem Joined.refl (s : State) : Joined [] s s := ⟨[], [], rfl, fun _ => ⟨rfl, rfl⟩, fun h => absurd rfl h⟩

theorem Joined.trans {xs ys : List (CellUse × Nat × Nat)} {s t u : State} (h : Joined xs s t) (k : Joined ys t u) :
    Joined (xs ++ ys) s u := by
  obtain ⟨n1, r1, hn1, hnone1, hsome1⟩ := h
  obtain ⟨n2, r2, hn2, hnone2, hsome2⟩ := k
  have hnew : (n1 ++ n2).map (fun a => (a.use, a.addr, a.len, a.stage)) =
      (xs ++ ys).map (fun x => (x.1, x.2.1, x.2.2, .waiting)) := by
    rw [List.map_append, List.map_append, hn1, hn2]
  by_cases h1 : n1 = []
  · obtain ⟨hport, hmpa⟩ := hnone1 h1
    subst h1
    refine ⟨[] ++ n2, r2, hnew, fun h2 => ?_, fun h2 => ?_⟩
    · rw [(hnone2 h2).1, (hnone2 h2).2]
      exact ⟨hport, hmpa⟩
    · rw [← hport, ← hmpa]
      exact hsome2 h2
  · obtain ⟨hport, hmpa, hr1⟩ := hsome1 h1
    by_cases h2 : n2 = []
    · obtain ⟨hport2, hmpa2⟩ := hnone2 h2
      subst h2
      refine ⟨n1 ++ [], r1, hnew, fun h => absurd (List.append_eq_nil_iff.1 h).1 h1, fun _ => ?_⟩
      rw [hport2, hmpa2, List.append_nil]
      exact ⟨hport, hmpa, hr1⟩
    · obtain ⟨hport2, hmpa2, hr2⟩ := hsome2 h2
      refine ⟨n1 ++ n2, r1 ++ r2, hnew, fun h => absurd (List.append_eq_nil_iff.1 h).1 h1, fun _ => ⟨?_, ?_, ?_⟩⟩
      · rw [hport2, hport, portOn_again, List.append_assoc]
      · rw [hmpa2, hmpa, List.append_assoc]
      · rw [List.map_append, hr1, hr2, hport, readsOf_unnumbered, readsOf_unnumbered, readsOf_unnumbered, ← List.map_append,
          goers_again, List.append_assoc]

theorem Joined.mem {xs : List (CellUse × Nat × Nat)} {s u : State} (h : Joined xs s u) {x : CellUse × Nat × Nat} (hx : x ∈ xs) :
    ∃ a ∈ u.mge.port, a.use = x.1 ∧ a.addr = x.2.1 ∧ a.len = x.2.2 := by
  obtain ⟨new, rs, hnew, -, hsome⟩ := h
  have hmem : (x.1, x.2.1, x.2.2, CellStage.waiting) ∈ new.map (fun a => (a.use, a.addr, a.len, a.stage)) := by
    rw [hnew]
    exact List.mem_map_of_mem hx
  obtain ⟨a, ha, heq⟩ := List.mem_map.1 hmem
  simp only [Prod.mk.injEq] at heq
  obtain ⟨huse, haddr, hlen, -⟩ := heq
  obtain ⟨y, hy, -, hyuse, hyaddr, hylen⟩ := mem_portFrom [] (s.mge.port ++ new) (List.mem_append_right _ ha)
  rw [(hsome (List.ne_nil_of_mem ha)).1]
  exact ⟨y, hy, hyuse.trans huse, hyaddr.trans haddr, hylen.trans hlen⟩

theorem beginAccess_joined (use : CellUse) (a n : Nat) (s : State) : Joined [(use, a, n)] s (beginAccess use a n s) := by
  obtain ⟨⟨hport, hmpa, -⟩, -⟩ := beginAccess_spec use a n s
  exact ⟨[⟨s.serial, a, n, use, .waiting⟩], _, rfl, fun h => (nomatch h), fun _ => ⟨hport, hmpa, by
    rw [readsOf_unnumbered, readsOf_unnumbered]⟩⟩

/-- The cell reads of one beat. -/
def beatReads (c : Capt) (no b : Nat) (ps : List Nat) : List (CellUse × Nat × Nat) :=
  ps.map fun p => (.render no b p, c.areaBase + 8 * p, 8)

theorem readCells_joined (c : Capt) (no b : Nat) (ps : List Nat) (s : State) :
    Joined (beatReads c no b ps) s (readCells c no b ps s) := by
  induction ps generalizing s with
  | nil => exact .refl s
  | cons p ps ih => exact (beginAccess_joined ..).trans (ih _)

theorem readBeats_joined (c : Capt) (h : TxnHdr) (no b n : Nat) (s : State) :
    Joined ((List.range' b n).flatMap fun k => beatReads c no k (startBeat c h k).waits) s
      (readBeats c no b ((List.range' b n).map (startBeat c h)) s) := by
  induction n generalizing b s with
  | zero => exact .refl s
  | succ n ih => exact (readCells_joined ..).trans (ih (b + 1) _)

/-- The cell reads of a beat leave all of the merge engine but its port. -/
theorem readCells_mge (c : Capt) (no b : Nat) (ps : List Nat) (s : State) :
    (readCells c no b ps s).mge = { s.mge with port := (readCells c no b ps s).mge.port } := by
  induction ps generalizing s with
  | nil => rfl
  | cons p ps ih =>
    refine (ih _).trans ?_
    rw [(beginAccess_spec ..).2]
    rfl

theorem readBeats_mge (c : Capt) (no b : Nat) (xs : List RenderBeat) (s : State) :
    (readBeats c no b xs s).mge = { s.mge with port := (readBeats c no b xs s).mge.port } := by
  induction xs generalizing b s with
  | nil => rfl
  | cons x xs ih =>
    refine (ih _ _).trans ?_
    rw [readCells_mge]
    rfl

/-! ### The bytes of a rendered beat (R109) -/

theorem leNat_append (xs ys : List Byte) : leNat (xs ++ ys) = leNat xs + 256 ^ xs.length * leNat ys := by
  induction xs with
  | nil => simp [leNat]
  | cons x xs ih =>
    rw [List.cons_append, leNat, leNat, ih, List.length_cons, Nat.pow_succ, Nat.mul_add, Nat.mul_comm (256 ^ xs.length) 256, Nat.mul_assoc, Nat.add_assoc]

theorem leBytes_length (n v : Nat) : (leBytes n v).length = n := by
  induction n generalizing v with
  | zero => rfl
  | succ n ih => rw [leBytes, List.length_cons, ih]

theorem leNat_leBytes (n v : Nat) : leNat (leBytes n v) = v % 256 ^ n := by
  induction n generalizing v with
  | zero => rw [Nat.pow_zero, Nat.mod_one]; rfl
  | succ n ih =>
    rw [leBytes, leNat, ih, BitVec.toNat_ofNat, Nat.pow_succ 256 n, Nat.mul_comm (256 ^ n)]
    exact Nat.mod_mul.symm

/-- The words of `n` bytes each stand one after another. -/
theorem leNat_words (n m : Nat) (f : Nat → Nat) {i : Nat} (hi : i < m) :
    leNat ((List.range m).flatMap fun k => leBytes n (f k)) / 256 ^ (n * i) % 256 ^ n = f i % 256 ^ n := by
  induction m generalizing i f with
  | zero => exact absurd hi (Nat.not_lt_zero _)
  | succ m ih =>
    have hrest := fun (k : Nat) (hk : k < m) => ih (fun x => f (x + 1)) hk
    rw [List.range_succ_eq_map, List.flatMap_cons, List.flatMap_map, leNat_append, leBytes_length, leNat_leBytes]
    cases i with
    | zero => rw [Nat.mul_zero, Nat.pow_zero, Nat.div_one, Nat.add_mul_mod_self_left, Nat.mod_mod]
    | succ i =>
      rw [Nat.mul_succ, Nat.add_comm (n * i), Nat.pow_add, ← Nat.div_div_eq_div_mul, Nat.add_mul_div_left _ _ (Nat.pow_pos (by decide)),
        Nat.div_eq_of_lt (Nat.mod_lt _ (Nat.pow_pos (by decide))), Nat.zero_add]
      exact hrest i (Nat.lt_of_succ_lt_succ hi)

theorem words_length (n m : Nat) (f : Nat → Nat) : ((List.range m).flatMap fun k => leBytes n (f k)).length = n * m := by
  rw [List.length_flatMap]
  simp only [leBytes_length, List.map_const', List.length_range, List.sum_replicate_nat, Nat.mul_comm]

/-- The words of a beat read back. -/
theorem extract_words {n m : Nat} (hnm : n * m = 16) (f : Nat → Nat) {i : Nat} (hi : i < m) :
    (beatOf ((List.range m).flatMap fun k => leBytes n (f k))).extractLsb' (8 * n * i) (8 * n) = BitVec.ofNat (8 * n) (f i) := by
  have hlt : leNat ((List.range m).flatMap fun k => leBytes n (f k)) < 2 ^ 128 := by
    have h := leNat_lt ((List.range m).flatMap fun k => leBytes n (f k))
    rw [words_length, hnm] at h
    exact h
  have hpow : ∀ k, 2 ^ (8 * k) = 256 ^ k := fun k => Nat.pow_mul 2 8 k
  apply BitVec.eq_of_toNat_eq
  rw [BitVec.extractLsb'_toNat, beatOf, BitVec.toNat_ofNat, BitVec.toNat_ofNat, Nat.mod_eq_of_lt hlt, Nat.shiftRight_eq_div_pow,
    Nat.mul_assoc, hpow, hpow]
  exact leNat_words n m f hi

end Sys2Proof.Machine
end

section
/-! SUPPORT. Which reads are rendered, and what a rendered read reads and returns (R107 to R111, R148, R156). -/
namespace Sys2Proof.Machine
set_option Elab.async false

/-! ### Which reads are rendered (R107, R156) -/

theorem renders_iff (s : State) (k : Fin 4) : renders s k = true ↔ s.wmu.mode = .active ∧
    (∃ j, (vget s.slots k).job = some j ∧ j.kind = .plate) ∧
    ((vget s.slots k).state = .active ∨ (vget s.slots k).state = .finishing ∨ (vget s.slots k).state = .done) := by
  have hplate : (match (vget s.slots k).job with | some j => j.kind == .plate | none => false) = true ↔
      ∃ j, (vget s.slots k).job = some j ∧ j.kind = .plate := by
    cases (vget s.slots k).job with
    | none => simp
    | some j => simp
  unfold renders
  dsimp only
  rw [Bool.and_eq_true, Bool.and_eq_true, Bool.or_eq_true, Bool.or_eq_true, beq_iff_eq, beq_iff_eq, beq_iff_eq, beq_iff_eq,
    and_assoc, or_assoc]
  exact and_congr_right fun _ => and_congr_left fun _ => hplate

theorem readPasses_none {s : State} {h : TxnHdr} (hw : windowOf s h = none) : readPasses s h = true := by
  rw [readPasses, hw]

theorem readPasses_result {s : State} {h : TxnHdr} {w : Win} {k : Fin 4} {f : Fmt} (hw : windowOf s h = some w)
    (hk : w.kind = .result k f) : readPasses s h = !renders s k := by
  cases w with
  | mk kind base size =>
    cases hk
    rw [readPasses, hw]

theorem readPasses_other {s : State} {h : TxnHdr} {w : Win} (hw : windowOf s h = some w)
    (hk : ∀ k f, w.kind ≠ .result k f) : readPasses s h = true := by
  unfold readPasses
  rw [hw]
  split
  · rename_i heq
    cases heq
    exact absurd rfl (hk _ _)
  · rfl

/-! ### The beats of a rendered read (R109) -/

theorem mem_insidePixels {c : Capt} {first p : Nat} :
    p ∈ insidePixels c first ↔ first ≤ p ∧ p < first + c.fmt.perBeat ∧ p < c.w * c.h := by
  rw [insidePixels, List.mem_filter, List.mem_map, decide_eq_true_eq]
  constructor
  · rintro ⟨⟨i, hi, rfl⟩, hin⟩
    exact ⟨Nat.le_add_right .., Nat.add_lt_add_left (List.mem_range.1 hi) _, hin⟩
  · rintro ⟨hle, hlt, hin⟩
    exact ⟨⟨p - first, List.mem_range.2 (by omega), by omega⟩, hin⟩

theorem firstPixel_d16 {c : Capt} (h : c.fmt = .d16) (pos : Nat) : firstPixel c pos = (pos - c.winBase) / 2 := by
  simp only [firstPixel, h]

theorem firstPixel_d8 {c : Capt} (h : c.fmt = .d8) (pos : Nat) : firstPixel c pos = pos - c.winBase := by
  simp only [firstPixel, h]

theorem cellWord_low {addr : Nat} (h : addr % 16 = 0) (d : BeatData) : cellWord addr d = d.extractLsb' 0 64 :=
  if_neg (by rw [h]; decide)

theorem cellWord_high {addr : Nat} (h : addr % 16 = 8) (d : BeatData) : cellWord addr d = d.extractLsb' 64 64 := if_pos h

/-! ### The beats returned (R109, R111, R148) -/

/-- The entries before which every entry satisfies `p` stand in the list's part that satisfies it. -/
theorem getElem?_takeWhile {α : Type} {p : α → Bool} {l : List α} {i : Nat} {x : α} (hx : l[i]? = some x)
    (h : ∀ m y, m ≤ i → l[m]? = some y → p y = true) : (l.takeWhile p)[i]? = some x := by
  induction l generalizing i with
  | nil => cases hx
  | cons a l ih =>
    rw [List.takeWhile_cons_of_pos (h 0 a (Nat.zero_le _) rfl)]
    cases i with
    | zero => exact hx
    | succ i => exact ih hx fun m y hm hy => h (m + 1) y (Nat.succ_le_succ hm) hy

theorem ready_memory {r : SRead} {f : Capt → RenderBeat → RData} {beats : List RData} {k : Nat} {d : RData}
    (hp : r.path = .memory (some beats)) (hk : r.sent ≤ k) (hd : beats[k]? = some d) : (r.ready f)[k - r.sent]? = some d := by
  rw [SRead.ready, hp]
  dsimp only
  rw [List.getElem?_drop, Nat.add_sub_cancel' hk, hd]

theorem ready_render {r : SRead} {f : Capt → RenderBeat → RData} {c : Capt} {beats : List RenderBeat} {k : Nat} {x : RenderBeat}
    (hp : r.path = .render c beats) (hk : r.sent ≤ k) (hx : beats[k]? = some x)
    (hdone : ∀ m y, r.sent ≤ m → m ≤ k → beats[m]? = some y → y.waits = []) : (r.ready f)[k - r.sent]? = some (f c x) := by
  rw [SRead.ready, hp]
  dsimp only
  rw [List.getElem?_map, getElem?_takeWhile (x := x)]
  · rfl
  · rw [List.getElem?_drop, Nat.add_sub_cancel' hk, hx]
  · intro m y hm hy
    rw [List.getElem?_drop] at hy
    exact List.isEmpty_iff.2 (hdone _ y (Nat.le_add_right ..) (by omega) hy)

theorem renderBeat_err {no : Nat} {c : Capt} {x : RenderBeat} (h : x.err = true) :
    (renderBeat no c x).data = 0 ∧ respErr (renderBeat no c x).resp = true := by
  rw [renderBeat, if_pos h]
  exact ⟨rfl, partError_err no⟩

theorem renderBeat_okay {no : Nat} {c : Capt} {x : RenderBeat} (h : x.err = false) : (renderBeat no c x).resp = .okay ∧
    (c.fmt = .d16 → ∀ i, i < 8 → container (renderBeat no c x).data i = BitVec.ofNat 16 (sget x.outs (x.first + i))) ∧
    (c.fmt = .d8 → ∀ i, i < 16 →
      (renderBeat no c x).data.extractLsb' (8 * i) 8 = BitVec.ofNat 8 (sget x.outs (x.first + i))) := by
  rw [renderBeat, if_neg (by rw [h]; exact Bool.false_ne_true)]
  refine ⟨rfl, fun hf i hi => ?_, fun hf i hi => ?_⟩
  · rw [renderBytes, hf]
    exact extract_words (n := 2) (m := 8) rfl (fun i => sget x.outs (x.first + i)) hi
  · rw [renderBytes, hf]
    exact extract_words (n := 1) (m := 16) rfl (fun i => sget x.outs (x.first + i)) hi

/-! ### A cell's answer (R110, R111) -/

theorem getElem?_mapAt {α : Type} (f : α → α) (n : Nat) (l : List α) : (mapAt f n l)[n]? = l[n]?.map f := by
  induction l generalizing n with
  | nil => cases n <;> rfl
  | cons x xs ih =>
    cases n with
    | zero => rfl
    | succ n => exact ih n

theorem answerCell_of {no b p : Nat} {word : BitVec 64} {err : Bool} {s : State} {r : SRead} {c : Capt} {beats : List RenderBeat}
    (hr : sRead? no s = some r) (hp : r.path = .render c beats) : answerCell no b p word err s =
      putReadPath no (.render c (mapAt (fun x => x.answer c p word err) b beats)) s := by
  rw [answerCell, hr]
  dsimp only
  rw [hp]

/-- The answer to a cell's read reaches its beat, and the reads that waited for it go on (R4, R110, R111). -/
theorem renderCell_row (s : State) (txn n no b p : Nat) (d : RData) (a : CellAcc) (r : SRead) (c : Capt) (beats : List RenderBeat)
    (x : RenderBeat) (hg : grantedKind txn s = some (.cellRead n)) (ha : access? n s = some a) (hu : a.use = .render no b p)
    (hr : sRead? no s = some r) (hp : r.path = .render c beats) (hx : beats[b]? = some x) :
    let err := respErr d.resp
    let outs := if err then x.outs else sput x.outs p (renderOut c (cellWord a.addr d.data))
    ∃ u, exec (.renderCellResponse txn d) s = .next (releaseReads u) ∧
      (∃ v ∈ u.wmu.reads, v.no = no ∧ v.hdr = r.hdr ∧ v.sent = r.sent ∧ ∃ bs, v.path = .render c bs ∧
        bs[b]? = some { x with waits := x.waits.filter (fun k => k != p), err := x.err || err, outs := outs }) ∧
      u.rpu = { s.rpu with memerrSeen := s.rpu.memerrSeen || err } ∧
      u.mge = { s.mge with port := u.mge.port } ∧ (∀ y ∈ u.mge.port, y.no ≠ n) ∧
      PortGoesOn (s.mge.port.filter fun y => decide (y.no ≠ n))
        { s.mpa with granted := s.mpa.granted.filter (fun y => y.id != txn) } s.serial u ∧
      Frame [.wmu, .mge, .mpa, .rpu, .serial] s u := by
  intro err outs
  have herr : Frame [.mpa, .rpu] s (memErr err (answered txn s)) := frame_answered.seq frame_memErr
  have hread : sRead? no (memErr err (answered txn s)) = some r := by rw [sRead?, herr.wmu]; exact hr
  have hmpa : (memErr err (answered txn s)).mpa = { s.mpa with granted := s.mpa.granted.filter (fun y => y.id != txn) } :=
    frame_memErr.mpa
  have hcell := answerCell_of (b := b) (p := p) (word := cellWord a.addr d.data) (err := err) hread hp
  have hrun : exec (.renderCellResponse txn d) s = .next (releaseReads (endAccess n
      (answerCell no b p (cellWord a.addr d.data) err (memErr err (answered txn s))))) := by
    change execRenderCellResponse txn d s = _
    unfold execRenderCellResponse
    rw [hg]
    dsimp only
    rw [ha]
    dsimp only
    rw [hu]
  rw [hcell] at hrun
  generalize hu0 : memErr err (answered txn s) = u0 at *
  have hput : Frame [.wmu] u0 (putReadPath no (.render c (mapAt (fun x => x.answer c p (cellWord a.addr d.data) err) b beats)) u0) :=
    frame_putReadPath
  obtain ⟨v, hv, hvno, hvhdr, hvsent, hvpath⟩ : ∃ v ∈ (putReadPath no (.render c
      (mapAt (fun x => x.answer c p (cellWord a.addr d.data) err) b beats)) u0).wmu.reads, v.no = no ∧ v.hdr = r.hdr ∧
        v.sent = r.sent ∧ v.path = .render c (mapAt (fun x => x.answer c p (cellWord a.addr d.data) err) b beats) :=
    ⟨_, putReadPath_mem hread, sRead?_no (r := r) hread, rfl, rfl, rfl⟩
  generalize putReadPath no _ u0 = u1 at *
  have hend : Frame [.mge, .serial, .mpa] u1 (endAccess n u1) := frame_endAccess
  obtain ⟨hgo, hmge⟩ := endAccess_go n u1
  refine ⟨endAccess n u1, hrun, ⟨v, by rw [hend.wmu]; exact hv, hvno, hvhdr, hvsent, _, hvpath, ?_⟩, ?_, ?_, access_gone n u1,
    ?_, (herr.trans hput).seq hend⟩
  · rw [getElem?_mapAt, hx]
    rfl
  · rw [hend.rpu, hput.rpu, ← hu0, memErr_rpu]
    rfl
  · rw [hmge, hput.mge, herr.mge]
  · rw [hput.mge, herr.mge, hput.mpa, hmpa, hput.serial, herr.serial] at hgo
    exact hgo

/-! ### A rendered read (R107 to R110) -/

theorem execResultRead_of {s : State} {h : TxnHdr} {i : Fin 4} {f : Fmt} {base size : Nat} {j : JobRecord}
    (hw : windowOf s h = some ⟨.result i f, base, size⟩) (hj : (vget s.slots i).job = some j) (hl : h.illegal = false)
    (hr : renders s i = true) : exec (.resultRead h) s = .next (renderRead (captureOf s i j base f) h s) := by
  change execResultRead h s = _
  unfold execResultRead
  rw [hw]
  dsimp only
  rw [hj]
  exact if_pos ⟨hl, hr⟩

/-- The cell reads of every beat join the port, beat after beat (R110, log 40). -/
theorem renderBeats_joined (c : Capt) (h : TxnHdr) (no n : Nat) (s : State) :
    Joined ((List.range n).flatMap fun k => beatReads c no k (startBeat c h k).waits) s
      (readBeats c no 0 ((List.range n).map (startBeat c h)) s) := by
  rw [List.range_eq_range']
  exact readBeats_joined c h no 0 n s

/-- Settles O45: the reads returned by induction over the reads in order, and the cell reads by induction over the beats. -/
theorem resultReadRendersCells : Obligations.ResultReadRendersCells := by
  refine ⟨⟨rfl, rfl, fun c pos => ⟨fun h => firstPixel_d16 h pos, fun h => firstPixel_d8 h pos⟩, fun c h b => ⟨rfl, rfl, rfl⟩,
      fun addr d => ⟨fun h => cellWord_low h d, fun h => cellWord_high h d⟩⟩,
    fun s h => ⟨fun hout => ⟨readPasses_none (windowOf_fallsInNone hout), windowOf_fallsInNone hout⟩, fun i w hdis hin => ?_, renders_iff s⟩,
    fun s ⟨hreads, _⟩ => ⟨(releaseReadList [] s.wmu.reads).2, rfl, ?order, ?first, ?returned⟩,
    fun c h b p => mem_insidePixels, ?taken, renderCell_row⟩
  · have hwin := windowOf_fallsIn hdis hin
    exact ⟨hwin, fun k f hk => readPasses_result hwin hk, fun hk => readPasses_other hwin hk⟩
  case order =>
    exact (releaseReadList_ascending [] hreads).imp fun h id n k d n' k' d' hx hy => h id n k d id n' k' d' hx hy
  case first => exact fun id n k d hout v hv => (releaseReadList_inOrder [] hreads hout).2 v hv
  case returned =>
    intro pre r post hrs hpre k hk
    have hout : ∀ d, (r.ready (renderBeat r.no))[k - r.sent]? = some d →
        SOut.readBeat r.hdr.id r.no k d ∈ (releaseReadList [] s.wmu.reads).2 := fun d hd => by
      have h := releaseReads_returns hrs hpre hd
      rwa [Nat.add_sub_cancel' hk] at h
    exact ⟨fun beats d hp hd => hout d (ready_memory hp hk hd), fun c beats x hp hx hdone =>
      ⟨renderBeat r.no c x, hout _ (ready_render hp hk hx hdone), renderBeat_err, renderBeat_okay⟩⟩
  case taken =>
    intro s h i f base size j hw hj hl hr x c
    have hcapt : captureOf s i j base f = c := rfl
    have hrun := execResultRead_of hw hj hl hr
    rw [hcapt] at hrun
    clear_value c
    have hopen : Frame [.serial, .wmu] s (openRead h (.render c ((List.range h.beats).map (startBeat c h))) s) := frame_openRead
    have hwmu : (openRead h (.render c ((List.range h.beats).map (startBeat c h))) s).wmu = { s.wmu with reads := s.wmu.reads ++
        [⟨s.serial, h, .render c ((List.range h.beats).map (startBeat c h)), 0⟩] } := rfl
    rw [renderRead] at hrun
    generalize openRead h _ s = u0 at *
    have hbeats : Frame [.mge, .serial, .mpa] u0 (readBeats c s.serial 0 ((List.range h.beats).map (startBeat c h)) u0) :=
      frame_readBeats
    have hjoin := renderBeats_joined c h s.serial h.beats u0
    have hmge := readBeats_mge c s.serial 0 ((List.range h.beats).map (startBeat c h)) u0
    rw [hopen.mge] at hmge
    refine ⟨_, hrun, hbeats.wmu.trans hwmu, fun b p hb hp => ?_, ?_, hmge, hopen.seq hbeats⟩
    · exact hjoin.mem (List.mem_flatMap.2 ⟨b, List.mem_range.2 hb, List.mem_map_of_mem hp⟩)
    · obtain ⟨new, rs, hnew, hnone, hsome⟩ := hjoin
      rw [hopen.mge, hopen.mpa] at hnone hsome
      refine ⟨new, rs, ?_, hnone, fun hne => ?_⟩
      · rw [hnew, List.map_flatMap]
        simp only [beatReads, List.map_map, Function.comp_def]
      · obtain ⟨hport, hmpa, hreqs⟩ := hsome hne
        refine ⟨hport, hmpa, ?_⟩
        change rs.map MTxn.unnumbered = (readsOf s.serial _).map MTxn.unnumbered
        rw [hreqs, readsOf_unnumbered, readsOf_unnumbered]

end Sys2Proof.Machine
end
